-- ==== Sys2Proof/Word.lean ====
section
/-!
DEFINITION. The plain words of the model: bytes, and the sparse tables every addressed piece of state is held in.
-/
namespace Sys2Proof

/-- One byte. -/
abbrev Byte := BitVec 8

/-- An ACC44 code (R38): sign in bit 43, exponent field in [42:32], fraction in [31:0]. -/
abbrev Acc44 := BitVec 44

/-- A table from a key (an address, a register code, a unit number) to a value, held as a list of
(key, value) pairs with strictly rising keys; a key that is not listed has the table's default value. -/
abbrev Tbl (V : Type) := List (Nat × V)

end Sys2Proof
end

