-- ==== Sys2Proof/Syntax.lean ====
section
/-!
DEFINITION. The commands of the block: one constructor of `Instr` per row of spec/opcode_table.json, with the
operands the spec gives the row, and the data types of those operands. A command is one whole step of the module
(95_what_each_step_holds.md); what it does is in Sys2Proof/Machine.
-/
namespace Sys2Proof

/-- The register fields of the spec's register maps (R17, R62, R83, R106, R128, R151, R172, R185, R202, R217, R218,
R243, R244, R291, R292, R312, R329, R355, R356, R376, R377, R399, R405, R415), each under the prefix of its block
(`ch` Chamber, `gl` Gallery, `die` die keeper, `hbm` HBM controller, `port` fabric port, `fab` fabric, `mod`
module-wide, `pci` BAR0, `mgt` management view). A field that only mirrors another has no name of its own. -/
inductive Field where
  | chOwnHold | chStewardHold | chKeeperHold | chComplexHold | chStopped | chRetired
  | chStopCount | glOwnHold | glKeeperHold | glComplexHold | glStopped | glStopCount
  | dieOwnHold | dieComplexHold | dieStopped | dieStopCount | chOverflowSat | chUnderflowZero
  | chSubnormalIn | chInfIn | chNanIn | chReservedCode | chAccOverflow | chNanOut
  | chFlagOps | chStrandNumFlags | chBank0State | chBank1State | chStepBank | chFrozen
  | chFaultFreeze | chAfeedLevel | chBfeedLevel | chCurStep | chCheckFail | chPoison
  | chOrderErr | chBankErr | chPairErr | chTagErr | chFailCount | chVoidCount
  | chSweepCount | chFreezeTotal | chFreezeAfeed | chFreezeBfeed | chFreezeBank | chFreezeFault
  | chFailRow | chFailBank | chFailPair | chFailKblocks | chFailTag | chFailTime
  | chFailRowsum | chFailChecksum | chScrubEn | chCurStrand | chIdle | chWritesOut
  | chPocketUncorr | chAddrErr | chWaitTimeout | chAccessErr | chAdmitRefused | chWaitTimeoutUs
  | chBoundaryBase | chBoundarySlots | chLen | chCycles | chIdleCycles | chLoadBytes
  | chStoreBytes | chVecCycles | chSfCycles | chPrismTiles | chPocketConflict | chPocketCorr
  | chPocketUncorrCnt | chStrandSwitch | chSkipTiles | chProgAddr | chState | chPriority
  | chGo | chAbort | chWaitCtr | chRefuseCode | chPc | chRefuseWord
  | chLastBoundary | chIssued | chActiveBank | chActiveKind | chLoadState | chSfEpoch
  | chLoadBusy | chImageErr | chTableUncorr | chSmxRange | chSfDomain | chSfLoadAddr
  | chLoad | chSfTableCrc | chSfTableCorr | chRsBase | chSmxRangeRows | chSfOps
  | chNestM | chNestN | chNestActive | chNestK | chNestBatch | chNestRuns
  | chNestResume | chNestRunsTotal | chSpillRuns | chBatchEntries | chZeroRuns | chPageInvalid
  | chPageStale | chPageFormat | chListOrder | chPageRange | chRefErr | chPageScale
  | chWalkAhead | chErrLpage | chErrGenFound | chErrGenWant | chErrStrand | chErrTableId
  | chErrListPos | chWalks | chWalkMisses | chWalkWait | chAppendTokens | chMaskSkips
  | chGmaskBase | chGmaskOut | chGmaskSpill | chGmaskEn | chGmaskId | chGmaskRecErr
  | chGmaskRange | chGmaskBusy | chGmaskSkips | chGmaskRows | chGeomErr | chFsErr
  | chGeomErrAddr | chConvZeroElems | chGroupSkips | chFsDecBlocks | chFsEncBlocks | chFsClamps
  | chSrSeedLo | chSrSeedHi | chSrStream | chSrIdxBase | chGaussStream | chRngMode
  | chRngBusy | chIdxRange | chRngWords | chSrDraws | chSrZeroCut | chGaussLanes
  | glSmpBusy | glSmpMode | glSmpHdrErr | glSmpRowErr | glSmpUncorr | glSmpRows
  | glSmpRefine | glCacheSteps | glGmUncorr | glSplitRefused | glSlotErr | glAddrUnmapped
  | glSlotCommit | glSlotPending | glStackTemp | glStackTempMax | glThermalState | glCacheHits
  | glCacheMisses | glDripReads | glDripWrites | glDripAtomics | glGmCorr | glGmUncorrCnt
  | glBankConflict | glFrames | glWatchPolls | glClassIssued | glSlotActive | glSlotShadow
  | hbmStackOnline | hbmNarrowed | hbmFailedCh | hbmRefresh2x | hbmSelfRefresh | hbmUncorr
  | hbmFail | hbmRetireEvent | hbmOdeccSevere | hbmRetListFull | hbmCorrCnt | hbmUncorrCnt
  | hbmErrAddr | hbmErrTime | hbmTempStack | hbmTempBase | hbmRetCeLimit | hbmScrubPeriod
  | hbmScrubPasses | hbmReadBytes | hbmWriteBytes | hbmRmwWrites | hbmBackinv | hbmRefresh2xTime
  | hbmOdeccCorr | hbmRetiredBlocks | fabModuleAddr | fabAddrValid | fabSizeX | fabSizeY
  | fabSizeZ | fabWrapX | fabWrapY | fabWrapZ | fabAdaptiveEn | fabAddrCheck
  | fabHistoryReady | fabAcceptTag | fabTagValid | fabTagDrops | fabXferNacks | portMode
  | portEnable | portHalfOk | portInService | portRetrain | portEdgeCommit | portPfcEn
  | portPfcPrio | portLinkState | portRate | portHalf | portLaneHalf | portProtocol
  | portPeerKind | portTrainFail | portNoCommon | portAddrMismatch | portPortFailed | portFlowBusy
  | portAccessErr | portPeerAddr | portFlitsTx | portFlitsRx | portCrcErrors | portReplays
  | portFecCorr | portFecUncorr | portTrainCount | portDownCount | portCongest | portUdpPort
  | portEdgeRto | portEdgeTable | portEdgeDrops | portEdgeRetx | modCollTimeoutUs | modSumpJobSegs
  | modClaimMaxSegs | modSumpFree | modCollJobs | modCollAborted | modCollProto | modSumpUncorr
  | modCollAbortBase | modCollAborts | modCollDone | modCollPieces | modClaimWaitUs | modCollDupDrops
  | modSumpCorr | modSumpUncorrCnt | modTimeNow | modTimeConverged | modTimeRootSelf | modTimeLost
  | modTimeStepped | modTimeHops | modTimeRefPort | modTimeRoot | modRootValid | modTimeOffset
  | modTimeConvergedAt | modTimeSteps | modLogClassEn | modLogEntries | modLogLost | modLogReadTs
  | modErrBase | modErrCount | modRecovering | modMirrorOk | modLossSeen | modRecoveryFail
  | modRetireWindow | modRecoveries | modRecoveryMax | modRetiredChambers | modProbeTimeoutUs | modMirrorStep
  | modMirrorHeldStep | chSigSinceBnd | chSigSkip | chRssaveBase | chLastFaultTs | chReplays
  | glPointNow | glPointTarget | glReqComplex | glReqSteward | glReqKeeper | glPointMoving
  | glPredConverged | glRailGated | glDivided | glDieTemp | glDieTempPred | glDieTempMax
  | glAdjVoltLimit | glAdjTempLimit | glAdjTempStuck | glDieHot | glPointChanges | glAdjLimitTime
  | glRailEnergy | modPowerState | modStayRunning | modHostCap | modMgmtCap | modEffectiveCap
  | modCapPoint | modDuty | modCapLimiting | modInputLow | modInputHigh | modInletHot
  | modEmergDivide | modVin | modIin | modPin | modCoolantIn | modCoolantOut
  | modIdleToReadyUs | modInputEnergy | modCapTime | modEmergDivides | modBootStage | modBootErr
  | modActiveSlot | modTrialBoot | modFwReverted | modSettingsDefaulted | modRoot0Revoked | modFwPending
  | modRunFwVersion | modRunSecVersion | modSecCounter | modKeyReady | modKeyUninit | modKeyExhausted
  | modNvWriteErr | modAttestTokens | modKeyNextQ | modSettingsGen | modBootTime | modAttests
  | modNvWrites | pciMapVersion | pciFwIfMin | pciFwIfMax | pciReady | pciAqSqBase
  | pciAqStqBase | pciAqSqLog2 | pciAqStqLog2 | pciAqEnable | pciAqReady | pciAqError
  | pciAqReset | pciEvent | pciEventMask | pciWinBase | pciAccessErr | pciSqTail
  | pciStqHead | mgtLinkUp | mgtCap | mgtResetKey | mgtAlert | mgtAlertMask
  | mgtRegAddr | mgtAccessErr | pciMsixAddr | pciMsixAddrHigh | pciMsixData | pciMsixMask
deriving DecidableEq, Repr

/-- A command in a queue, named by its queue and its `CMD_SEQ` (R249, R256). -/
structure Cmd where
  queue : Nat
  seq : Nat
deriving DecidableEq, Repr

/-- A controller, or an outside party, that acts on an element or a register (R13, R14, R405, R411, R415). -/
inductive Who where
  | complex | steward | keeper | sequencer | host | window | board
deriving DecidableEq, Repr

/-- An element that a hold stops (R14); a keeper also stops and starts its die's links, each named by its two dies, and its
junction slice (R13). -/
inductive Elem where
  | chamber (c : Nat) | gallery (g : Nat) | die (d : Nat) | link (a b : Nat) | junction (d : Nat)
deriving DecidableEq, Repr

/-- Parameters of QUEUE_CREATE (R260). -/
structure QueueParams where
  queueId : Nat
  priority : Nat
  fmtMin : Nat
  fmtMax : Nat
  sqLog2 : Nat
  stqLog2 : Nat
  msix : Nat
  sqBase : Nat
  stqBase : Nat
  coalesceCount : Nat
  coalesceUs : Nat
  fwIf : Nat
deriving DecidableEq, Repr

/-- Parameters of JOB_ADMIT (R260). -/
structure JobParams where
  major : Nat
  minor : Nat
  numerics : Nat
  collOrder : Nat
  sfMode : Nat
  generator : Nat
  tag : Nat
  seed : Nat
  rankMap : Nat
  rankCount : Nat
deriving DecidableEq, Repr

/-- Parameters of TENSOR_CREATE (R260). -/
structure TensorParams where
  id : Nat
  format : Nat
  space : Nat
  policy : Nat
  histH : Nat
  histM : Nat
  saveMode : Nat
  saveFmt : Nat
  pageHalf : Nat
  scale : Nat
  base : Nat
  rows : Nat
  cols : Nat
  rowStride : Nat
  saveBase : Nat
  idxBase : Nat
deriving DecidableEq, Repr

/-- Parameters of CONTRACT (R261). -/
structure ContractParams where
  a : Nat
  b : Nat
  out : Nat
  role : Nat
  rnd : Nat
  drainFunc : Nat
  kSeg : Nat
  stageId : Nat
  batchKey : Nat
  deadlineNs : Nat
  stream : Nat
  lenAddr : Nat
  gmaskAddr : Nat
  listAddr : Nat
  listCount : Nat
  edges : List Nat
deriving DecidableEq, Repr

/-- Parameters of CONVOLVE (R261). -/
structure ConvolveParams where
  x : Nat
  w : Nat
  out : Nat
  role : Nat
  rnd : Nat
  drainFunc : Nat
  fsRate : Nat
  geomAddr : Nat
  stream : Nat
  stripes : Nat
deriving DecidableEq, Repr

/-- Parameters of ATTEND (R261). -/
structure AttendParams where
  q : Nat
  out : Nat
  kRef : Nat
  vRef : Nat
  scoreScale : Nat
  keySeg : Nat
  rsAddr : Nat
  pass : Nat
  rnd : Nat
  listCount : Nat
  listAddr : Nat
  stream : Nat
  edges : List Nat
deriving DecidableEq, Repr

/-- Parameters of MAP (R261, R437); `words` are the raw 64-bit VOP and SFOP words. -/
structure MapParams where
  src : Nat
  src2 : Nat
  dst : Nat
  rnd : Nat
  stream : Nat
  words : List Nat
deriving DecidableEq, Repr

/-- Parameters of OPT_STEP (R261, R184); the nine constants are FP32 codes. -/
structure OptParams where
  w : Nat
  m : Nat
  v : Nat
  dw : Nat
  wcopy : Nat
  rnd : Nat
  b1 : Nat
  b2 : Nat
  c1 : Nat
  c2 : Nat
  h1 : Nat
  h2 : Nat
  e2 : Nat
  lam : Nat
  negLr : Nat
  gmaskAddr : Nat
  stream : Nat
deriving DecidableEq, Repr

/-- Parameters of XFER (R261, R279, R289). -/
structure XferParams where
  src : Nat
  dst : Nat
  dstModule : Nat
  length : Nat
  ctrAddr : Nat
  increment : Nat
  route : Nat
  edgePort : Nat
  edgeFlow : Nat
deriving DecidableEq, Repr

/-- Parameters of the four collective opcodes (R261). -/
structure CollParams where
  collSeq : Nat
  src : Nat
  dst : Nat
  dims : Nat
  reduce : Nat
  rnd : Nat
  root : Nat
  stream : Nat
deriving DecidableEq, Repr

/-- When the feed words and the bank of a SWEEP become ready, in Chamber clocks counted so that step 0 would run in
clock 4 (R72-R74): what the outside of the Facet decides about its freezes. A word not listed is valid in time. -/
structure SweepTiming where
  lateA : List (Nat × Nat) := []
  lateB : List (Nat × Nat) := []
  bankReady : Nat := 0
  /-- The SWEEP has issued behind another, whose steps 126 and 127 its words 0 and 1 hold back too (R72, R74). -/
  behind : Bool := false
deriving DecidableEq, Repr

/-- A SWEEP word's fields (R66). -/
structure SweepWord where
  pair : Nat
  bank : Nat
  init : Bool
  last : Bool
  kBlock : Nat
  outTag : Nat
  reserved : Nat := 0
deriving DecidableEq, Repr

/-- What a patrol scrub found (R87, R237): words corrected, and words that stay uncorrectable. -/
structure ScrubFindings where
  corrected : List Nat := []
  uncorrectable : List Nat := []
deriving DecidableEq, Repr

/-- The outcome of the work of a boot stage that only the hardware decides (R385, R386). -/
structure BootFindings where
  failedChambers : List Nat := []
  failedStacks : List Nat := []
  failedDies : List Nat := []
  complexFails : Bool := false
  /-- The manufacturing record fails its CRC. -/
  recordFails : Bool := false
deriving DecidableEq, Repr

/-- A capability record as received (R270). -/
structure CapsRecord where
  partKind : Nat
  protoMax : Nat
  protoMin : Nat
  rates : Nat
  contractMajor : Nat
  contractMinor : Nat
  features : Nat
  port : Nat
  moduleAddr : Nat
  addrValid : Bool
  timeNow : Nat
  timeState : Nat
  halfOk : Bool := true
deriving DecidableEq, Repr

/-- A received flit of `KIND` 0, 1 (R273). -/
structure Flit where
  seq : Nat
  ackSeq : Nat
  ackValid : Bool
  nak : Bool
  creditVc : Nat
  credits : Nat
  kind : Nat
  payload : List Byte
  crc : Nat
deriving DecidableEq, Repr

/-- The payload of a received TIME flit (R315) and the module's own time of receipt, whole ticks and sixteenths. -/
structure TimeFlit where
  tTx : Nat
  fineTx : Nat
  fineRx : Nat
  tstate : Nat
  hops : Nat
  rootAddr : Nat
  tRxLast : Nat
  tTxEcho : Nat
  rxTime : Nat
  rxFine : Nat
  echoFine : Nat := 0
deriving DecidableEq, Repr

/-- A packet header (R278), with the bytes of its extension and its payload. -/
structure Packet where
  type : Nat
  vc : Nat
  dateline : Bool
  detour : Bool
  dest : Nat
  reason : Nat
  src : Nat
  tag : Nat
  ts : Nat
  xferId : Nat
  pktIndex : Nat
  ext : List Byte
  payload : List Byte
deriving DecidableEq, Repr

/-- The extension of a DATA packet (R278). -/
structure DataExt where
  destAddr : Nat
  pktTotal : Nat
  ctrAddr : Nat
  increment : Nat
deriving DecidableEq, Repr

/-- A received collective packet (R278, R304). -/
structure CollPacket where
  src : Nat
  tag : Nat
  ts : Nat
  pktIndex : Nat
  step : Nat
  chunk : Nat
  collSeq : Nat
  elemOffset : Nat
  count : Nat
  wireFmt : Nat
  payload : List Byte
  /-- A reserved field or encoding of the header or the extension was not as R304 says. -/
  malformed : Bool := false
deriving DecidableEq, Repr

/-- A received management packet (R351). -/
structure MgmtPacket where
  src : Nat
  tag : Nat
  jobId : Nat
  payload : List Byte
deriving DecidableEq, Repr

/-- A received transport packet of an edge interface (R286). -/
structure TransportPacket where
  srcAddr : Nat
  srcPort : Nat
  flags : Nat
  flowId : Nat
  psn : Nat
  ackPsn : Nat
  offsetOrSack : Nat
  xferId : Nat
  payload : List Byte
deriving DecidableEq, Repr

/-- A sensor reading of every Gallery of a die or module that a controller takes at one moment. -/
structure TempReading where
  dieTemp : Nat
  stackBase : Nat
  diePred : Nat
  stackPred : Nat
  /-- Index that keeps both predictions at their limits (R242, R374), found by the predictor's model. -/
  predIndex : Nat
  /-- Mean absolute error over the last 1 ms, in 0.1 °C, and whether 10 ms have passed (R373). -/
  predErr : Nat
  ran10ms : Bool
  /-- Chamber-rail energy of the Gallery since the last update, mJ. -/
  railEnergy : Nat := 0
deriving DecidableEq, Repr

/-- The commands. `c` is a Chamber (R3), `s` a strand, `g` a Gallery, `p` a port, `q` a queue, `h` a host command. -/
inductive Instr where
  -- admin, job, memory and tensor opcodes (R260)
  | identify (h : Cmd) (hostAddr : Nat)
  | queueCreate (h : Cmd) (p : QueueParams)
  | queueDelete (h : Cmd) (queueId mode : Nat)
  | cancel (h : Cmd) (queueId seq : Nat)
  | jobAdmit (h : Cmd) (p : JobParams)
  | jobEnd (h : Cmd)
  | stageBind (h : Cmd) (stageId layout stale mask : Nat)
  | memAlloc (h : Cmd) (size space place : Nat)
  | memFree (h : Cmd) (addr : Nat)
  | memWrite (h : Cmd) (addr : Nat) (data : List Byte)
  | memRead (h : Cmd) (addr len hostAddr : Nat)
  | memFill (h : Cmd) (addr len pattern : Nat)
  | ptUpdate (h : Cmd) (header first mode : Nat) (entries : List Nat)
  | tensorCreate (h : Cmd) (p : TensorParams)
  | tensorDestroy (h : Cmd) (id : Nat)
  | scaleSet (h : Cmd) (id scale : Nat)
  -- compute, transfer, collective and management opcodes (R261)
  | contract (h : Cmd) (p : ContractParams)
  | convolve (h : Cmd) (p : ConvolveParams)
  | attend (h : Cmd) (p : AttendParams)
  | map (h : Cmd) (p : MapParams)
  | sample (h : Cmd) (reqAddr gallery : Nat)
  | optStep (h : Cmd) (p : OptParams)
  | stageRun (h : Cmd) (chamber strand prio header : Nat)
  | xfer (h : Cmd) (p : XferParams)
  | counterSignal (h : Cmd) (ctrAddr increment : Nat)
  | allReduce (h : Cmd) (p : CollParams)
  | reduceScatter (h : Cmd) (p : CollParams)
  | allGather (h : Cmd) (p : CollParams)
  | broadcast (h : Cmd) (p : CollParams)
  | powerState (h : Cmd) (target : Nat)
  | powerCap (h : Cmd) (cap : Nat)
  | settingsStore (h : Cmd) (offset : Nat) (data : List Byte)
  | attest (h : Cmd) (nonce hostAddr : Nat)
  | contextSave (h : Cmd) (jobId dest : Nat)
  | contextRestore (h : Cmd) (src : Nat)
  | logRead (h : Cmd) (hostAddr maxBytes earliest : Nat)
  | slotTableSet (h : Cmd) (gallery : Nat) (table : List Nat)
  | cacheSplit (h : Cmd) (mask steps : Nat)
  | fwActivate (h : Cmd) (imageAddr : Nat)
  | fabricConfig (h : Cmd) (bytes : List Byte)
  | nop (h : Cmd)
  -- queue events (12_commands_queues.md)
  | commandFetch
  | commandStart (h : Cmd)
  | depFuture (h : Cmd) (dep : Nat)
  | commandTimeout (h : Cmd)
  | counterDependencyTimeout (h : Cmd)
  | batchDeadline (h : Cmd)
  | statusEntryWrite (q : Nat)
  -- stage-program words (R95)
  | programNop (c s : Nat)
  | load (c s desc target bank blkK blkMN : Nat)
  | copy (c s srcDesc dstDesc blkRow blkCol : Nat)
  | vload (c s desc dst row4 blkN : Nat)
  | sweep (c s : Nat) (w : SweepWord) (t : SweepTiming)
  | bind (c s outTag desc blkM blkN : Nat)
  | vop (c s op dst src1 src2 : Nat) (imm : Bool) (immValue : Nat)
  | sfop (c s func dst src inScale : Nat)
  | smxSum (c s dst src inScale : Nat)
  | smxProb (c s dst src inScale : Nat)
  | rsClear (c s : Nat)
  | rsFinish (c s : Nat)
  | rsOut (c s index : Nat)
  | rsIn (c s index : Nat)
  | rsAcc (c s index : Nat)
  | gauss (c s dst src inScale : Nat)
  | vstore (c s desc src row4 blkN : Nat)
  | wait (c s ctr target : Nat)
  | signal (c s ctr increment : Nat)
  | ldlen (c s len addr : Nat)
  | nest (c s desc : Nat)
  | boundary (c s number : Nat)
  | fence (c s : Nat)
  | endWord (c s : Nat)
  -- Chamber events
  | strandDone (c s : Nat)
  | bankDrain (c bank : Nat)
  | bankRefill (c bank : Nat)
  | checkVerdict (c : Nat)
  | go (c s : Nat)
  | admissionScan (c s : Nat)
  | abort (c s : Nat)
  | waitTimeout (c s : Nat)
  | counterWatchWake (g ctrAddr : Nat)
  | waitPoll (c s : Nat)
  | pocketPatrolScrub (c : Nat) (f : ScrubFindings)
  | tableLoad (c : Nat)
  | tableLoadComplete (c : Nat)
  | sfEpochSwitch (c : Nat) (inFlight : Bool)
  | oldBankRelease (c : Nat)
  -- Gallery and control-tree commands
  | slotCommit (g : Nat)
  | slotFrameBoundary (g : Nat)
  | cacheStepsWrite (g steps : Nat)
  | stop (who : Who) (e : Elem) (reached : Bool)
  | start (who : Who) (e : Elem)
  | restart (who : Who) (e : Elem)
  | retire (c : Nat)
  -- port and BAR0 register commands
  | retrain (p : Nat)
  | edgeCommit (p : Nat)
  | inService (p : Nat)
  | mode (p value : Nat)
  | aqEnable (value : Nat)
  | aqReset
  | sqTail (q value : Nat)
  | stqHead (q value : Nat)
  | registerWrite (who : Who) (f : Field) (unit idx value : Nat)
  | mgtCap (value : Nat)
  | mgtResetKey (value : Nat)
  -- PMBus and SMBus
  | statusByte | statusWord | statusInput | statusTemperature
  | readVin | readIin | readPin
  | readTemperature1 | readTemperature2 | readTemperature3
  | pmbusRevision | mfrId | mfrModel | mfrSerial
  | mfrMgtAddr (addr : Nat)
  | mfrMgtData (write : Option Nat)
  | pmbusRefused (code : Nat)
  | alertResponse
  -- power, boot and thermal events
  | inputPowerUp (addrSel : Nat)
  | bootStageEnd (f : BootFindings)
  | bootLimit
  | inputSample (vin iin pin : Nat)
  | underVoltageShutdown
  | overVoltageShutdown
  | inputRemoval
  | thermalTrip
  | capLoop (pin chamberRail : Nat)
  | dutyHold (on : Bool)
  | idleToReady
  | pointChangeStep (g : Nat)
  | keeperRound (d : Nat)
  | predictorUpdate (g : Nat) (t : TempReading)
  | coolantRead (inlet outlet : Nat)
  | hbmTemperatureReadout (stack temp : Nat)
  | hbmRefresh (stack : Nat)
  | hbmPatrolScrub (g : Nat) (stack : ScrubFindings) (gallery : ScrubFindings) (odCorr : Nat) (odSevere passDone : Bool)
  -- faults and recovery
  | eventEscalation (fromClass fromUnit kind ts : Nat)
  | chamberFaultRecovery (c : Nat)
  | galleryHeartbeatMiss (g : Nat)
  | galleryFault (g : Nat)
  | thermalHoldTimeout (g : Nat)
  | memoryDataRecovery (addr : Nat)
  | channelFailure (stack channel : Nat)
  | stackWithdrawal (stack : Nat)
  | refetch (block : Nat)
  | dieLinkFailure (a b : Nat)
  -- fabric links
  | detectSignal (p : Nat)
  | detectRetry (p : Nat)
  | equaliseComplete (p : Nat) (lowOk highOk : Bool)
  | lockAcquired (p : Nat)
  | trainFail (p : Nat)
  | capsFlit (p : Nat) (r : CapsRecord)
  | dataFlit (p : Nat) (f : Flit)
  | portFailure (p : Nat)
  | portHistoryReady (p : Nat)
  | packetRoute (p : Nat) (k : Packet)
  | data (k : Packet) (e : DataExt)
  | xferDone (k : Packet)
  | xferNack (k : Packet)
  | segmentResend (xferId : Nat)
  | segmentEntryExpiry (src xferId : Nat)
  | timeFlitSend (p : Nat)
  | timeFlit (p : Nat) (f : TimeFlit)
  | dieTimeExchange (d : Nat) (errorSixteenths : Int)
  -- collectives
  | claimGrant (job : Nat)
  | claim (k : CollPacket)
  | piece (k : CollPacket)
  | credit (k : CollPacket)
  | done (k : CollPacket)
  | abortPacket (k : CollPacket)
  | collProgressTimeout (job collSeq : Nat)
  | abortCompletion (job collSeq : Nat)
  -- module loss and job exchange
  | probe (k : MgmtPacket)
  | probeAck (k : MgmtPacket)
  | probeTimeout (job rank : Nat) (restartStep : Nat)
  | loss (k : MgmtPacket)
  | lossCompletion (job : Nat)
  | linkDown (k : MgmtPacket)
  | jobHello (k : MgmtPacket)
  | jobHelloAck (k : MgmtPacket)
  | jobHelloTimeout (h : Cmd)
  -- edge mode
  | transportData (p : Nat) (k : TransportPacket)
  | transportAck (p : Nat) (k : TransportPacket)
  | transportReset (p : Nat) (k : TransportPacket)
  | edgeRto (p flowId psn : Nat)
  | ackTimer (p flowId : Nat)
  | neighborSolicitation (p iface target : Nat)
  | echoRequest (p iface target : Nat) (body : List Byte)
  | priorityFlowControl (p iface : Nat) (priorities : Nat)
  | frameDiscard (p : Nat)
  -- host link, JTAG, keys and non-volatile memory
  | pcieReset
  | perstDeassert
  | trstN
  | bypass | idcode | samplePreload | extest | svlStatus
  | svlImgLoad (data : List Byte)
  | svlImgCommit
  | svlKeyProv
  | keyTreeRebuild (next : Bool)
  | attestTokenRefill
  | nvLineWrite (ok : Bool)
  | interruptCoalescing (q : Nat)
  | powerTransitionComplete
  | busMasterEnable (value : Bool)
  | capsFlitSend (p : Nat)
  | dieLinkTrained (a b : Nat)
deriving DecidableEq, Repr

end Sys2Proof
end

