-- ==== Sys2Proof/Decode.lean ====
section
/-!
DEFINITION. The command that a word spells by the table's bits. No row of the opcode table gives bits: a command is
not an instruction word of this hardware, so no word spells one.
-/
namespace Sys2Proof

/-- The command that a word of `nbits` bits spells: none, since no row of the table gives a row its bits. -/
def decodeTableWord (_nbits _w : Nat) : Option Instr := none

end Sys2Proof
end

