-- ==== Sys2Proof/Config.lean ====
section
/-!
DEFINITION. What an implementation fixes and the spec does not state: the ordering code of the part, and the FREE
VALUES, each a constant without a body, so that nothing can be proved about the number it gives. Each is named in a
row of notes/assumptions.
-/
namespace Sys2Proof

/-- Ordering code 2,048 (SVL-DM2-2048) or, when false, 1,536 (00_scope.md, Ordering codes; R1). -/
opaque Config.order2048 : Bool

/-- Free value (log 11): a coefficient that the body of a table image holds, in ACC44: image bytes, `FUNC`, segment, degree. The
layout of the bodies is published apart from the spec (R434). -/
opaque Config.sfCoef : List Byte → Nat → Nat → Nat → BitVec 44

/-- Free value (log 11): the result that the exception list of a D1 image gives a function at an argument (R118). -/
opaque Config.d1Exception : List Byte → Nat → BitVec 44 → Option (BitVec 44)

/-- The published table images: 0 native for Limser 3.0, 1 D1 (R434; log 11): their bytes are not in the spec. -/
opaque Config.sfImage : Nat → List Byte

/-- Free value (log 2): the `n`-th value that the spec leaves open; `n` is the state's own count of such values. -/
opaque Config.free : Nat → Nat

/-- SHA-256 of a byte string (R382, R394): the spec names the function and does not state it (log 12). -/
opaque Config.sha256 : List Byte → BitVec 256

/-- The HSS verification of RFC 8554 over message and signature, under the root of the index (R382, R383; log 12). -/
opaque Config.hssVerify : Nat → List Byte → List Byte → Bool

/-- The identity key's LMS signature bytes over a report body with one-time index q (R391, R394; log 12). -/
opaque Config.lmsSign : Nat → List Byte → List Byte

/-- The first part of the chain block for bottom tree j (R395; log 12): 2,568 bytes. -/
opaque Config.chainPart : Nat → List Byte

/-- HMAC-SHA-256 derived identity public key of a device seed (R390; log 12): 60 bytes. -/
opaque Config.identityPub : Nat → List Byte

/-- The module's serial number as the manufacturing record holds it (R379, R394; log 12): 16 bytes. -/
opaque Config.serial : List Byte

/-- The 3,732 bytes of the device certificate (R395; log 12). -/
opaque Config.deviceCert : List Byte

/-- Free value (log 38): where the firmware of a member keeps its slot for the training state of an owner (R350): owner's
module address, slot. Every module of a partition runs the same firmware. -/
opaque Config.mirrorSlot : Nat → Nat → Nat

/-- Free value (log 38): where firmware puts the parts of a lost member's state on the survivors of a reshaped job (R352), by the lost
member's address. -/
opaque Config.recutPlace : Nat → Nat

/-- Free value (log 47): a Flowstone slice with an infinity or a NaN among its 16 values (R198): code width and stored codes; its
`EXP`, codes and clamps in turn from the lowest bit. -/
opaque Config.flowOpen : Nat → List Nat → Nat

/-- Free value (log 73): a lane of a vector register that no word of a MAP has written: group, register, lane. -/
opaque Config.mapLane : Nat → Nat → Nat → Nat

/-- Free value (log 116): which of a job's stage groups runs a command that names no stage: job, opcode. -/
opaque Config.firmwareGroup : Nat → Nat → Nat

/-- Free value (log 46): what a counter of events that no rule fixes reads: module time, count of free values, field, unit, copy. -/
opaque Config.openCount : Nat → Nat → Nat → Nat → Nat → Nat

/-- Free value (log 118): the set of a Gallery cache of so many sets that a line lies in. -/
opaque Config.cacheSet : Nat → Nat → Nat

/-- Free value (log 118): the set of a sharer filter that a line lies in. -/
opaque Config.filterSet : Nat → Nat

/-- Free value (log 45): the FP32 code that a NaN contributes to amax (R50, R61). -/
opaque Config.amaxNan : Nat

end Sys2Proof
end

