-- ==== Sys2Proof/Machine/Bits.lean ====
section
/-!
DEFINITION. Bit fields, sign extension, byte order and CRC-32C: the helpers every reader of a record uses (R6).
-/
namespace Sys2Proof.Machine

/-- The bytes of `v` from the lowest, `n` of them (R6: byte 0 holds bits [7:0]). -/
def bytesLE : Nat → Nat → List Byte
  | 0, _ => []
  | n + 1, v => BitVec.ofNat 8 v :: bytesLE n (v / 256)

/-- The number that the bytes spell, the first byte lowest (R6). -/
def natLE : List Byte → Nat
  | [] => 0
  | b :: bs => b.toNat + 256 * natLE bs

/-- Bits [hi:lo] of a number, as the manual writes bit ranges (00_scope.md, Notation). -/
def bits (v hi lo : Nat) : Nat := v / 2 ^ lo % 2 ^ (hi + 1 - lo)

/-- One bit of a number. -/
def bit (v i : Nat) : Bool := v / 2 ^ i % 2 == 1

/-- `v` with its bits [hi:lo] replaced by `x`. -/
def withBits (v hi lo x : Nat) : Nat :=
  v / 2 ^ (hi + 1) * 2 ^ (hi + 1) + x % 2 ^ (hi + 1 - lo) * 2 ^ lo + v % 2 ^ lo

/-- The two's-complement value of an n-bit code. -/
def signed (n v : Nat) : Int :=
  if v % 2 ^ n < 2 ^ (n - 1) then (v % 2 ^ n : Nat) else ((v % 2 ^ n : Nat) : Int) - (2 ^ n : Nat)

/-- The n-bit two's-complement code of an integer. -/
def unsigned (n : Nat) (i : Int) : Nat := (i % (2 ^ n : Nat)).toNat

/-- ceil(a / b). -/
def ceilDiv (a b : Nat) : Nat := (a + b - 1) / b

/-- Bytes `off` to `off + n − 1` of a record, as a number (R6). -/
def fieldLE (bs : List Byte) (off n : Nat) : Nat := natLE ((bs.drop off).take n)

/-- True when bytes `off` to `off + n − 1` of a record are zero. -/
def zeroLE (bs : List Byte) (off n : Nat) : Bool := fieldLE bs off n == 0

/-- Eight steps of CRC-32C, reflected form, over a register whose low byte has taken in a byte of data: the register moves down by
eight, and bit k of the low byte adds the polynomial 0x82F63B78 as it stands after 7 − k more steps (PRESUMED polynomial, log 13). -/
def crcByte : Nat → Nat
  | 0 => 0
  | n + 1 =>
    let x := n + 1
    x / 256 ^^^ (x % 2 * 0xF26B8303) ^^^ (x / 2 % 2 * 0xE13B70F7) ^^^ (x / 4 % 2 * 0xC79A971F) ^^^ (x / 8 % 2 * 0x8AD958CF) ^^^
      (x / 16 % 2 * 0x105EC76F) ^^^ (x / 32 % 2 * 0x20BD8EDE) ^^^ (x / 64 % 2 * 0x417B1DBC) ^^^ (x / 128 % 2 * 0x82F63B78)

/-- The register of the CRC after a byte string. It is a number that each byte is matched on, so that the kernel evaluates it byte
by byte. -/
def crcGo (c : Nat) (bs : List Byte) : Nat :=
  match bs, c with
  | [], c => c
  | b :: bs, 0 => crcGo (crcByte b.toNat) bs
  | b :: bs, n + 1 => crcGo (crcByte ((n + 1) ^^^ b.toNat)) bs

/-- CRC-32C of a byte string (R25, R114, R273, R380; PRESUMED parameters, log 13). -/
def crc32c (bs : List Byte) : Nat := crcGo 0xFFFFFFFF bs ^^^ 0xFFFFFFFF

/-- A record with bytes `off` to `off + n − 1` taken as zero, for a CRC that lies inside what it covers. -/
def zeroed (bs : List Byte) (off n : Nat) : List Byte :=
  bs.take off ++ List.replicate (min n (bs.length - off)) 0 ++ bs.drop (off + n)

/-- A list padded with zero bytes to `n`. -/
def padTo (n : Nat) (bs : List Byte) : List Byte := bs ++ List.replicate (n - bs.length) 0

/-- Two dies are linked: their numbers differ in exactly one bit (R4). -/
def linked (a b : Nat) : Bool := decide (a < 8) && decide (b < 8) && (a ^^^ b == 1 || a ^^^ b == 2 || a ^^^ b == 4)

end Sys2Proof.Machine
end

