-- ==== Sys2Proof/Machine/Num.lean ====
section
/-!
DEFINITION. Exact numbers and the formats of 02_number_formats.md: values of codes, ACC44 and its rounding, the LNS
product table, products and accumulation, and rounding into FP32 and the SF grid. A value is computed exactly on
integers and narrowed once.
-/
namespace Sys2Proof.Machine

/-- An exact value (-1)^neg × mag × 2^exp, or an infinity, or a NaN. -/
inductive Num where
  | fin (neg : Bool) (mag : Nat) (exp : Int)
  | inf (neg : Bool)
  | nan
deriving DecidableEq, Repr

/-- `mag × 2^(−n)` rounded to nearest, ties to even. -/
def rneShift (mag n : Nat) : Nat :=
  let q := mag / 2 ^ n
  let r := mag % 2 ^ n
  if 2 * r < 2 ^ n then q else if 2 ^ n < 2 * r then q + 1 else if n = 0 then q else q + q % 2

/-- `mag × 2^exp` as a whole number of units 2^q, nearest-even. -/
def rneUnits (mag : Nat) (exp q : Int) : Nat :=
  if exp ≥ q then mag * 2 ^ (exp - q).toNat else rneShift mag (q - exp).toNat

/-- `mag × 2^exp` in units 2^q, rounded up (away from zero). -/
def upUnits (mag : Nat) (exp q : Int) : Nat :=
  if exp ≥ q then mag * 2 ^ (exp - q).toNat else (mag + 2 ^ (q - exp).toNat - 1) / 2 ^ (q - exp).toNat

/-- The exponent of the leading bit of a nonzero `mag × 2^exp`. -/
def lead (mag : Nat) (exp : Int) : Int := Nat.log2 mag + exp

def Num.neg : Num → Num
  | .fin s m e => .fin (!s) m e
  | .inf s => .inf (!s)
  | .nan => .nan

def Num.abs : Num → Num
  | .fin _ m e => .fin false m e
  | .inf _ => .inf false
  | .nan => .nan

def Num.isNeg : Num → Bool
  | .fin s _ _ => s
  | .inf s => s
  | .nan => false

def Num.isZero : Num → Bool
  | .fin _ m _ => m == 0
  | _ => false

def Num.isFinite : Num → Bool
  | .fin _ _ _ => true
  | _ => false

def Num.zero : Num := .fin false 0 0

/-- The exact integer of a finite value in units 2^q, when q is at or below its exponent. -/
def Num.units (s : Bool) (m : Nat) (e q : Int) : Int :=
  let x : Int := ((m * 2 ^ (e - q).toNat : Nat) : Int)
  if s then -x else x

/-- The exact product, by the IEEE 754 rules for special values (R43, R61). -/
def Num.mul : Num → Num → Num
  | .fin s m e, .fin s' m' e' => .fin (s != s') (m * m') (e + e')
  | .nan, _ => .nan
  | _, .nan => .nan
  | .inf s, y => if y.isZero then .nan else .inf (s != y.isNeg)
  | x, .inf s => if x.isZero then .nan else .inf (x.isNeg != s)

/-- The exact sum. An exact cancellation gives +0 (R45); two zeros of one sign keep it. -/
def Num.add : Num → Num → Num
  | .fin s m e, .fin s' m' e' =>
    if m = 0 then
      if m' = 0 then .fin (s && s') 0 0 else .fin s' m' e'
    else if m' = 0 then .fin s m e
    else
      let q := min e e'
      let z := Num.units s m e q + Num.units s' m' e' q
      .fin (decide (z < 0)) z.natAbs q
  | .nan, _ => .nan
  | _, .nan => .nan
  | .inf s, .inf s' => if s = s' then .inf s else .nan
  | .inf s, _ => .inf s
  | _, .inf s => .inf s

def Num.sub (x y : Num) : Num := x.add y.neg

/-- A quotient with at least 64 leading bits and a sticky bit: rounding it to 60 bits or fewer is rounding the exact
quotient. Division by zero gives an infinity or a NaN, as IEEE 754. -/
def Num.div : Num → Num → Num
  | .fin s m e, .fin s' m' e' =>
    if m' = 0 then (if m = 0 then .nan else .inf (s != s'))
    else if m = 0 then .fin (s != s') 0 0
    else
      let k := 64 + Nat.log2 m'
      let n := m * 2 ^ k
      .fin (s != s') (2 * (n / m') + (if n % m' = 0 then 0 else 1)) (e - e' - k - 1)
  | .nan, _ => .nan
  | _, .nan => .nan
  | .inf _, .inf _ => .nan
  | .inf s, y => .inf (s != y.isNeg)
  | x, .inf s => .fin (x.isNeg != s) 0 0

/-- Comparison of two values, none where one is a NaN; zeros are equal. -/
def Num.cmp : Num → Num → Option Ordering
  | .nan, _ => none
  | _, .nan => none
  | .inf s, .inf s' => some (if s = s' then .eq else if s then .lt else .gt)
  | .inf s, _ => some (if s then .lt else .gt)
  | _, .inf s => some (if s then .gt else .lt)
  | .fin s m e, .fin s' m' e' =>
    let q := min e e'
    some (compare (Num.units s m e q) (Num.units s' m' e' q))

def Num.lt (x y : Num) : Bool := x.cmp y == some .lt
def Num.le (x y : Num) : Bool := x.cmp y == some .lt || x.cmp y == some .eq

/-! ### ACC44 (R38, R39, R44, R45) -/

def acc44 (neg : Bool) (e m : Nat) : Acc44 :=
  BitVec.ofNat 44 ((if neg then 2 ^ 43 else 0) + e % 2048 * 2 ^ 32 + m % 2 ^ 32)

/-- The value of an ACC44 code (R38): exponent field 0 is a signed zero whatever the fraction. -/
def accNum (a : Acc44) : Num :=
  let v := a.toNat
  let s := bit v 43
  let e := bits v 42 32
  let m := bits v 31 0
  if e = 0 then .fin s 0 0
  else if e = 2047 then (if m = 0 then .inf s else .nan)
  else .fin s (2 ^ 32 + m) ((e : Int) - 1023 - 32)

def accMax (neg : Bool) : Acc44 := acc44 neg 2046 (2 ^ 32 - 1)
def accInf (neg : Bool) : Acc44 := acc44 neg 2047 0
def accNan : Acc44 := acc44 false 2047 (2 ^ 31)
def accZero : Acc44 := 0#44

/-- The mask value: the negative largest finite ACC44 value (R120). -/
def accMask : Acc44 := accMax true

/-- A rounded finite value `n × 2^q` with n of 33 bits, as a code; `n` below 2^33. -/
def accPack (s : Bool) (n : Nat) (q : Int) : Acc44 := acc44 s (q + 32 + 1023).toNat (n - 2 ^ 32)

/-- Rounding a value into ACC44 (R44, R45): nearest-even at the 33-bit significand with the exponent unbounded, then
the range tests. Answers the code and whether it saturated with `ACC_OVERFLOW`. -/
def accRound (strict : Bool) : Num → Acc44 × Bool
  | .nan => (accNan, false)
  | .inf s => if strict then (accInf s, false) else (accMax s, true)
  | .fin s m e =>
    if m = 0 then (acc44 s 0 0, false)
    else
      let q := lead m e - 32
      let n := rneUnits m e q
      let (n, q) := if n = 2 ^ 33 then (2 ^ 32, q + 1) else (n, q)
      let l := q + 32
      if l ≥ 1024 then (if strict then (accInf s, false) else (accMax s, true))
      else if l < -1022 then (acc44 s 0 0, false)
      else (accPack s n q, false)

/-- The spilled 64-bit word of an ACC44 value (R39). -/
def accSpill (a : Acc44) : Nat := a.toNat * 2 ^ 20

/-- Refill of a spilled word (R39): bits [19:0] ignored, exponent field 0 gives zero (+0, R70). -/
def accRefill (w : Nat) : Acc44 :=
  let v := w % 2 ^ 64 / 2 ^ 20
  if bits v 42 32 = 0 then accZero else BitVec.ofNat 44 v

/-! ### The LNS product table (R41, R42) -/

/-- `t` is at or below 2^(23 + f/256) when t^256 ≤ 2^(256·23 + f); half units need a doubled t. -/
def lnsTableSearch (f : Nat) : Nat → Nat → Nat
  | 0, t => t
  | n + 1, t =>
    let u := t + 2 ^ n
    -- u is kept while u − 1/2 ≤ 2^(23 + f/256)
    lnsTableSearch f n (if (2 * u - 1) ^ 256 ≤ 2 ^ (256 * 24 + f) then u else t)

/-- T[f] × 2^23 (R41): 2^(f/256) rounded to nearest to a multiple of 2^−23. No tie arises for f > 0. -/
def lnsTable (f : Nat) : Nat := if f = 0 then 2 ^ 23 else lnsTableSearch f 23 (2 ^ 23)

/-- The value T[L & 0xFF] × 2^(L >> 8) of an LNS logarithm in units of 2^−8 (R57). -/
def lnsValue (neg : Bool) (l : Int) : Num := .fin neg (lnsTable (l % 256).toNat) (l / 256 - 23)

/-! ### Formats (R31 to R37) -/

/-- The layout of a floating-point format: exponent bits, fraction bits, bias. -/
structure FpFormat where
  ebits : Nat
  fbits : Nat
  bias : Nat
deriving DecidableEq, Repr

def fpBF16 : FpFormat := ⟨8, 7, 127⟩
def fpG16 : FpFormat := ⟨9, 6, 255⟩
def fpE4M3 : FpFormat := ⟨4, 3, 7⟩
def fpE5M2 : FpFormat := ⟨5, 2, 15⟩
def fpFP32 : FpFormat := ⟨8, 23, 127⟩

/-- Format codes (R31). -/
def fmtLNS16 : Nat := 0
def fmtLNS8 : Nat := 1
def fmtBF16 : Nat := 2
def fmtG16 : Nat := 3
def fmtE4M3 : Nat := 4
def fmtE5M2 : Nat := 5
def fmtFP32 : Nat := 6
def fmtSpill : Nat := 7

/-- Bytes per element of a format code (R31). -/
def fmtBytes : Nat → Nat
  | 0 => 2 | 1 => 1 | 2 => 2 | 3 => 2 | 4 => 1 | 5 => 1 | 6 => 4 | 7 => 8 | _ => 0

/-- The floating-point layout of a format code. -/
def fmtFp : Nat → Option FpFormat
  | 2 => some fpBF16 | 3 => some fpG16 | 4 => some fpE4M3 | 5 => some fpE5M2 | 6 => some fpFP32 | _ => none

/-- The class of a stored floating-point code: what R60 and R61 tell apart. -/
inductive FpClass where
  | zero | subnormal | normal | inf | nan
deriving DecidableEq, Repr

/-- The class of a code of floating-point format code `f` (R36, R37): G16 has no specials, E4M3 no infinity. -/
def fpClass (f : Nat) (l : FpFormat) (code : Nat) : FpClass :=
  let e := bits code (l.fbits + l.ebits - 1) l.fbits
  let m := bits code (l.fbits - 1) 0
  let top := 2 ^ l.ebits - 1
  if e = 0 then (if m = 0 then .zero else .subnormal)
  else if e = top then
    if f = fmtG16 then .normal
    else if f = fmtE4M3 then (if m = 7 then .nan else .normal)
    else (if m = 0 then .inf else .nan)
  else .normal

/-- The value of a floating-point code, subnormals kept. -/
def fpValue (f : Nat) (l : FpFormat) (code : Nat) : Num :=
  let s := bit code (l.fbits + l.ebits)
  let e := bits code (l.fbits + l.ebits - 1) l.fbits
  let m := bits code (l.fbits - 1) 0
  match fpClass f l code with
  | .zero => .fin s 0 0
  | .subnormal => .fin s m (1 - (l.bias : Int) - l.fbits)
  | .normal => .fin s (2 ^ l.fbits + m) ((e : Int) - l.bias - l.fbits)
  | .inf => .inf s
  | .nan => .nan

/-- The largest finite code, without its sign, of a floating-point format (landmark table of 02). -/
def fpMaxCode (f : Nat) (l : FpFormat) : Nat :=
  if f = fmtG16 then 0x7FFF else if f = fmtE4M3 then 0x7E
  else (2 ^ l.ebits - 2) * 2 ^ l.fbits + (2 ^ l.fbits - 1)

/-- The zero and the reserved code of an LNS format (R35). -/
def lnsZero (f : Nat) : Nat := if f = fmtLNS8 then 0x40 else 0x4000
def lnsReserved (f : Nat) : Nat := if f = fmtLNS8 then 0xC0 else 0xC000

/-- Sign and logarithm field, in units of 2^−8, of an LNS code that is neither zero nor reserved (R33, R34, R42). -/
def lnsFields (f code : Nat) : Bool × Int :=
  if f = fmtLNS8 then (bit code 7, 32 * signed 7 code) else (bit code 15, signed 15 code)

/-- The linear value of a code of any format, with LNS through T[f] (R57); reserved LNS codes are zero (R35). -/
def codeValue (f code : Nat) : Num :=
  match fmtFp f with
  | some l => fpValue f l code
  | none =>
    if f = fmtSpill then accNum (accRefill code)
    else if code = lnsZero f || code = lnsReserved f then Num.zero
    else let (s, l) := lnsFields f code; lnsValue s l

/-- The zero code of a delivered format (R88). -/
def zeroCode (f : Nat) : Nat := if f = fmtLNS16 || f = fmtLNS8 then lnsZero f else 0

/-! ### Products and accumulation (R42 to R45) -/

/-- The A and B operand formats of a `PAIR` code (R66). -/
def pairFormats : Nat → Option (Nat × Nat)
  | 0 => some (fmtLNS16, fmtLNS8)
  | 1 => some (fmtLNS16, fmtLNS16)
  | 2 => some (fmtBF16, fmtBF16)
  | 3 => some (fmtG16, fmtG16)
  | 4 => some (fmtG16, fmtBF16)
  | 5 => some (fmtBF16, fmtG16)
  | _ => none

/-- The product of one A and one B element of the formats (R42, R43). -/
def cellProduct (fa fb a b : Nat) : Num :=
  if fa = fmtLNS16 then
    if a = lnsZero fa || a = lnsReserved fa || b = lnsZero fb || b = lnsReserved fb then Num.zero
    else
      let (sa, la) := lnsFields fa a
      let (sb, lb) := lnsFields fb b
      lnsValue (sa != sb) (la + lb)
  else (codeValue fa a).mul (codeValue fb b)

/-- One accumulation step (R44, R45): the new accumulator and whether it saturated. -/
def accStep (strict : Bool) (acc : Acc44) (p : Num) : Acc44 × Bool := accRound strict ((accNum acc).add p)

/-! ### FP32 and the SF grid -/

/-- A finite value packed in a floating-point layout from units `n × 2^q` at or above the subnormal unit. -/
def fpPack (l : FpFormat) (s : Bool) (n : Nat) : Nat → Nat := fun e =>
  (if s then 2 ^ (l.ebits + l.fbits) else 0) + e * 2 ^ l.fbits + n

/-- A value rounded into a floating-point layout with the exponent unbounded above and subnormals kept, by the
rounding of units given; answers the units and their exponent. -/
def fpRoundUnits (round : Nat → Int → Int → Nat) (l : FpFormat) (m : Nat) (e : Int) : Nat × Int :=
  let emin : Int := 1 - l.bias
  let q := max (lead m e) emin - l.fbits
  let n := round m e q
  if n = 2 ^ (l.fbits + 1) then (2 ^ l.fbits, q + 1) else (n, q)

/-- The code of units `n × 2^q` that `fpRoundUnits` gave: normal when n has its top bit, else subnormal or zero. -/
def fpCodeOfUnits (l : FpFormat) (s : Bool) (n : Nat) (q : Int) : Nat :=
  if n < 2 ^ l.fbits then fpPack l s n 0
  else fpPack l s (n - 2 ^ l.fbits) (q + l.fbits + l.bias).toNat

/-- True when units `n × 2^q` exceed the largest finite value of the format. -/
def fpOver (f : Nat) (l : FpFormat) (n : Nat) (q : Int) : Bool :=
  match fpValue f l (fpMaxCode f l) with
  | .fin _ m e => decide (Num.units false m e (min e q) < Num.units false n q (min e q))
  | _ => false

/-- FP32 code of a value: the rounding given, subnormals kept, overflow held at the largest finite (R79, R50). -/
def toFP32With (round : Nat → Int → Int → Nat) : Num → Nat
  | .nan => 0x7FC00000
  | .inf s => (if s then 0x80000000 else 0) + 0x7F800000
  | .fin s m e =>
    if m = 0 then (if s then 0x80000000 else 0)
    else
      let (n, q) := fpRoundUnits round fpFP32 m e
      if fpOver fmtFP32 fpFP32 n q then (if s then 0x80000000 else 0) + 0x7F7FFFFF
      else fpCodeOfUnits fpFP32 s n q

/-- FP32 code, nearest-even over FP32's full range, held at the largest finite value beyond it (R79). -/
def toFP32 : Num → Nat := toFP32With rneUnits

/-- FP32 code of a magnitude rounded toward +∞ (R50, R79). -/
def toFP32Up : Num → Nat := toFP32With upUnits

/-- True when the rounding of `toFP32` had to hold the value at the largest finite (R79, R81). -/
def fp32Over (round : Nat → Int → Int → Nat) : Num → Bool
  | .fin _ m e => if m = 0 then false else let (n, q) := fpRoundUnits round fpFP32 m e; fpOver fmtFP32 fpFP32 n q
  | _ => true

/-- The exact value of an FP32 code. -/
def fp32 (code : Nat) : Num := fpValue fmtFP32 fpFP32 code

/-- Whether an FP32 code is a scale that R48 allows: positive, finite, normal. -/
def scaleOk (code : Nat) : Bool := !bit code 31 && fpClass fmtFP32 fpFP32 code == .normal && decide (code < 2 ^ 32)

/-- The largest SF-grid magnitude, (2 − 2^−23) × 2^1023 (R107). -/
def sfMax (neg : Bool) : Acc44 := acc44 neg 2046 ((2 ^ 23 - 1) * 2 ^ 9)

/-- Rounding to the SF grid (R107): a 24-bit significand in the ACC44 exponent range; beyond it the SF maximum with
`ACC_OVERFLOW`, or an infinity in STRICT numerics; below 2^−1022 a zero of the sign. -/
def sfRound (strict : Bool) : Num → Acc44 × Bool
  | .nan => (accNan, false)
  | .inf s => if strict then (accInf s, false) else (sfMax s, true)
  | .fin s m e =>
    if m = 0 then (acc44 s 0 0, false)
    else
      let q := lead m e - 23
      let n := rneUnits m e q
      let (n, q) := if n = 2 ^ 24 then (2 ^ 23, q + 1) else (n, q)
      let l := q + 23
      if l ≥ 1024 then (if strict then (accInf s, false) else (sfMax s, true))
      else if l < -1022 then (acc44 s 0 0, false)
      else (accPack s (n * 2 ^ 9) (q - 9), false)

end Sys2Proof.Machine
end

