-- ==== Sys2Proof/Machine/Flags.lean ====
section
/-!
DEFINITION. The numeric flags of R62 as an 8-bit mask, bit by bit in the layout of `CH_NUMERIC_FLAGS` [7:0].
-/
namespace Sys2Proof.Machine

def nfOverflowSat : Nat := 1
def nfUnderflowZero : Nat := 2
def nfSubnormalIn : Nat := 4
def nfInfIn : Nat := 8
def nfNanIn : Nat := 16
def nfReservedCode : Nat := 32
def nfAccOverflow : Nat := 64
def nfNanOut : Nat := 128

/-- `flag` when the condition holds, else no flag. -/
def nfWhen (c : Bool) (flag : Nat) : Nat := if c then flag else 0

/-- The flags of two pieces of work together. -/
def nfOr (a b : Nat) : Nat := a ||| b

/-- ACC44 rounding (R44, R45) with its flag as a mask. -/
def accRoundF (strict : Bool) (x : Num) : Acc44 × Nat :=
  let (a, o) := accRound strict x
  (a, nfWhen o nfAccOverflow)

end Sys2Proof.Machine
end

