-- ==== Sys2Proof/Machine/Rng.lean ====
section
/-!
DEFINITION. The two counter-based generators of 10_random_numbers_sampling.md (R203, R204, R207).
-/
namespace Sys2Proof.Machine

/-- Left rotation of a 32-bit word. -/
def rotl32 (x : BitVec 32) (n : Nat) : BitVec 32 := x.rotateLeft n

/-- Round amounts of Festan (R204). -/
def festanRA : List Nat := [13, 17, 5, 29, 11, 23, 7, 19]
def festanRB : List Nat := [24, 9, 15, 3, 21, 27, 14, 6]

/-- The four 32-bit words of the Festan state. -/
structure Quad where
  x0 : BitVec 32
  x1 : BitVec 32
  x2 : BitVec 32
  x3 : BitVec 32
deriving DecidableEq, Repr

/-- Word `i` of the key of R204: seed bits [32i+31 : 32i]. -/
def festanKey (seed i : Nat) : BitVec 32 := BitVec.ofNat 32 (seed / 2 ^ (32 * (i % 4)))

/-- Round r of Festan (R204): round key, two mixes, and the crossing of the halves. -/
def festanRound (seed : Nat) (q : Quad) (r : Nat) : Quad :=
  let rk := BitVec.ofNat 32 ((r + 1) * 0x6A5D2C93)
  let y0 := q.x0 ^^^ (festanKey seed r + rk)
  let y1 := q.x1 ^^^ (festanKey seed (1 + r) + rk)
  let y2 := q.x2 ^^^ (festanKey seed (2 + r) + rk)
  let y3 := q.x3 ^^^ (festanKey seed (3 + r) + rk)
  let z0 := y0 + y1
  let z1 := rotl32 y1 (festanRA.getD (r % 8) 0) ^^^ z0
  let z2 := y2 + y3
  let z3 := rotl32 y3 (festanRB.getD (r % 8) 0) ^^^ z2
  ⟨z0, z3, z2, z1⟩

/-- The Festan word of seed, stream and counter (R204). -/
def festan (seed stream counter : Nat) : Nat :=
  let q0 : Quad := ⟨BitVec.ofNat 32 counter, BitVec.ofNat 32 (counter / 2 ^ 32),
    BitVec.ofNat 32 stream, BitVec.ofNat 32 (stream / 2 ^ 32)⟩
  let q := (List.range 12).foldl (festanRound seed) q0
  let w := BitVec.ofNat 32 (13 * 0x6A5D2C93)
  let o := fun (x : BitVec 32) (i : Nat) => (x ^^^ (festanKey seed i + w)).toNat
  o q.x0 0 + o q.x1 1 * 2 ^ 32 + o q.x2 2 * 2 ^ 64 + o q.x3 3 * 2 ^ 96

/-- Half `h` of the word of the D1-compatible generator (R207). -/
def d1Half (seed stream counter h : Nat) : BitVec 64 :=
  let c := BitVec.ofNat 64 (2 * counter + h)
  let z := BitVec.ofNat 64 seed + c * 0x7F4A3C96E18B52D7#64
  let z := z ^^^ (BitVec.ofNat 64 (seed / 2 ^ 64) ^^^ (BitVec.ofNat 64 stream * 0x5C31E8A709D4B6F3#64))
  let z := (z ^^^ (z >>> 32)) * 0xC2B74E19A35D0F8B#64
  let z := (z ^^^ (z >>> 29)) * 0x8F3AD6C15B27E4A5#64
  z ^^^ (z >>> 32)

/-- The word of the D1-compatible generator (R207). -/
def d1Word (seed stream counter : Nat) : Nat :=
  (d1Half seed stream counter 0).toNat + (d1Half seed stream counter 1).toNat * 2 ^ 64

/-- The 128-bit word of a generator version (R205: 0 Festan, 1 D1-compatible). -/
def genWord (version seed stream counter : Nat) : Nat :=
  if version = 0 then festan seed stream counter else d1Word seed stream counter

/-- Word number j of an element (R203): the counter holds the index in [55:0] and j in [63:56]. -/
def elemWord (version seed stream index j : Nat) : Nat :=
  genWord version seed stream (index % 2 ^ 56 + (j % 256) * 2 ^ 56)

/-- The words of the string W0 ‖ W1 ‖ … up to `k`, as one number, W0 highest (R210). -/
def wordString (word : Nat → Nat) : Nat → Nat
  | 0 => 0
  | k + 1 => wordString word k * 2 ^ 128 + word k % 2 ^ 128

/-- The top n bits of the string of an element's words (R210). -/
def drawBits (word : Nat → Nat) (n : Nat) : Nat :=
  let k := ceilDiv n 128
  wordString word k / 2 ^ (128 * k - n)

end Sys2Proof.Machine
end

