-- ==== Sys2Proof/Machine/Convert.lean ====
section
/-!
DEFINITION. The conversions of the Store (R53 to R57, R59, R61), of the Load (R58, R60) and of TOFP32 (R93).
-/
namespace Sys2Proof.Machine

/-- What the Store's conversion of one element gave. `words` counts the generator words formed (R210). -/
structure Stored where
  code : Nat
  flags : Nat
  words : Nat
  drew : Bool
  zeroCut : Bool
deriving DecidableEq, Repr

/-- An element converted without a draw. -/
def Stored.plain (code flags : Nat) : Stored := ⟨code, flags, 0, false, false⟩

/-! ### Logarithms -/

/-- One squaring step of the log2 recurrence on a mantissa `m` in [2^p, 2^(p+1)): the next bit and mantissa, rounding
down or up. -/
def logSquare (up : Bool) (p m : Nat) : Nat × Nat :=
  let sq := m * m
  let s := if up then (sq + 2 ^ p - 1) / 2 ^ p else sq / 2 ^ p
  if s < 2 ^ (p + 1) then (0, s) else (1, if up then (s + 1) / 2 else s / 2)

/-- The first n fraction bits of log2 (m / 2^p), by squaring, as a number. -/
def logBits (up : Bool) (p : Nat) : Nat → Nat → Nat → Nat
  | 0, _, acc => acc
  | n + 1, m, acc => let (b, m') := logSquare up p m; logBits up p n m' (2 * acc + b)

/-- λ of R55 in units of 2^−24: log2 (mag × 2^exp) rounded toward −∞. Bounds from below and above on 160-bit mantissas
decide it; where they differ the power is formed exactly. -/
def log2Floor24 (mag : Nat) (exp : Int) : Int :=
  let l := Nat.log2 mag
  let whole : Int := (l : Int) + exp
  if mag = 2 ^ l then whole * 2 ^ 24
  else
    let p := 160
    let m := if l ≤ p then mag * 2 ^ (p - l) else mag / 2 ^ (l - p)
    let mu := if l ≤ p then m else m + 1
    let lo := logBits false p 24 m 0
    let hi := logBits true p 24 mu 0
    let fr := if lo = hi then lo else Nat.log2 (mag ^ 2 ^ 24) - l * 2 ^ 24
    whole * 2 ^ 24 + fr

/-! ### Store -/

/-- The code of an LNS format from a sign and a logarithm in the format's own units. -/
def lnsCode (f : Nat) (s : Bool) (l : Int) : Nat :=
  if f = fmtLNS8 then (if s then 0x80 else 0) + unsigned 7 l else (if s then 0x8000 else 0) + unsigned 15 l

/-- The code of a rounded logarithm under the range rules of R59 for an LNS target. -/
def lnsRange (f : Nat) (s : Bool) (l : Int) : Nat × Nat :=
  let top : Int := if f = fmtLNS8 then 64 else 16384
  if l ≥ top then (lnsCode f s (top - 1), nfOverflowSat)
  else if l ≤ -top then (lnsZero f, nfUnderflowZero)
  else (lnsCode f s l, 0)

/-- True when both outcomes of a rounding fall to the same range rule (R54). -/
def lnsFixed (f : Nat) (k : Int) : Bool :=
  let top : Int := if f = fmtLNS8 then 64 else 16384
  decide (k ≥ top) || decide (k + 1 ≤ -top)

/-- A finite value into an LNS target (R55). `draw n` gives the n random bits. -/
def storeLns (f rnd : Nat) (draw : Nat → Nat) (s : Bool) (mag : Nat) (exp : Int) : Stored :=
  if mag = 0 then ⟨lnsZero f, 0, 0, false, rnd = 2⟩
  else
    let n : Nat := if f = fmtLNS8 then 21 else 16
    let lam := log2Floor24 mag exp
    let k := lam / 2 ^ n
    let t := (lam % 2 ^ n).toNat
    if rnd = 1 then let (c, fl) := lnsRange f s k; Stored.plain c fl
    else if rnd = 2 then
      if t = 0 then let (c, fl) := lnsRange f s k; ⟨c, fl, 0, false, true⟩
      else if lnsFixed f k then let (c, fl) := lnsRange f s k; Stored.plain c fl
      else
        let up := decide (t + draw n ≥ 2 ^ n)
        let (c, fl) := lnsRange f s (if up then k + 1 else k)
        ⟨c, fl, 1, true, false⟩
    else
      let up := 2 * t > 2 ^ n || (2 * t = 2 ^ n && k % 2 = 1)
      let (c, fl) := lnsRange f s (if up then k + 1 else k)
      Stored.plain c fl

/-- The code of rounded units `n × 2^q` under the range rules of R59 for a binary target. `ieee` is STRICT numerics
into BF16 or FP32 under nearest-even or stochastic rounding. -/
def fpRange (f : Nat) (l : FpFormat) (ieee : Bool) (s : Bool) (n : Nat) (q : Int) : Nat × Nat :=
  let sign := if s then 2 ^ (l.ebits + l.fbits) else 0
  if fpOver f l n q then
    if ieee then (sign + (2 ^ l.ebits - 1) * 2 ^ l.fbits, 0) else (sign + fpMaxCode f l, nfOverflowSat)
  else if n = 0 then (sign, nfUnderflowZero)
  else (fpCodeOfUnits l s n q, 0)

/-- A rounded significand that carried out of its width, brought back to the width. -/
def carryUnits (l : FpFormat) (n : Nat) (q : Int) : Nat × Int :=
  if n = 2 ^ (l.fbits + 1) then (2 ^ l.fbits, q + 1) else (n, q)

/-- A finite value into a binary target (R56, R59), under `rnd`, from the ACC44 significand of 33 bits. -/
def storeFp (strict : Bool) (f : Nat) (l : FpFormat) (rnd : Nat) (draw : Nat → Nat) (s : Bool) (mag : Nat) (exp : Int) :
    Stored :=
  let sign := if s then 2 ^ (l.ebits + l.fbits) else 0
  if mag = 0 then ⟨sign, 0, 0, false, rnd = 2⟩
  else
    let emin : Int := 1 - (l.bias : Int)
    let e := lead mag exp
    if !strict && decide (e < emin) then Stored.plain sign nfUnderflowZero
    else
      let ieee := strict && (f == fmtBF16 || f == fmtFP32) && rnd != 1
      let q := max e emin - l.fbits
      if rnd = 1 then
        let n := if exp ≥ q then mag * 2 ^ (exp - q).toNat else mag / 2 ^ (q - exp).toNat
        let (c, fl) := fpRange f l ieee s n q
        Stored.plain c fl
      else if rnd = 2 then
        -- the 33-bit significand of the source: its lowest bit weighs 2^(e − 32)
        let w := (q - (e - 32)).toNat
        let sig := rneUnits mag exp (e - 32)
        let kept := sig / 2 ^ w
        let t := sig % 2 ^ w
        let (cT, fT) := fpRange f l ieee s kept q
        if t = 0 then ⟨cT, fT, 0, false, true⟩
        else if fpOver f l kept q then Stored.plain cT fT
        else
          let up := decide (t + draw w ≥ 2 ^ w)
          let (n, q') := carryUnits l (if up then kept + 1 else kept) q
          let (c, fl) := fpRange f l ieee s n q'
          ⟨c, fl, ceilDiv w 128, true, false⟩
      else
        let (n, q') := carryUnits l (rneUnits mag exp q) q
        let (c, fl) := fpRange f l ieee s n q'
        Stored.plain c fl

/-- The canonical quiet NaN of a binary format (R61). -/
def fpNanCode (f : Nat) : Nat :=
  if f = fmtBF16 then 0x7FC0 else if f = fmtFP32 then 0x7FC00000 else if f = fmtE4M3 then 0x7F else 0x7E

/-- A NaN or an infinity at the Store (R61). -/
def storeSpecial (f : Nat) : Num → Stored
  | .nan =>
    if f = fmtLNS16 ∨ f = fmtLNS8 then Stored.plain (lnsZero f) nfNanOut
    else if f = fmtG16 then Stored.plain 0 nfNanOut
    else Stored.plain (fpNanCode f) nfNanOut
  | x =>
    let s := x.isNeg
    match fmtFp f with
    | none => Stored.plain (lnsCode f s (if f = fmtLNS8 then 63 else 16383)) nfOverflowSat
    | some l =>
      let sign := if s then 2 ^ (l.ebits + l.fbits) else 0
      if f = fmtBF16 ∨ f = fmtFP32 ∨ f = fmtE5M2 then Stored.plain (sign + (2 ^ l.ebits - 1) * 2 ^ l.fbits) 0
      else Stored.plain (sign + fpMaxCode f l) nfOverflowSat

/-- A value into a stored format (R53 to R61). A spill keeps the ACC44 code (R39). -/
def storeNum (strict : Bool) (f rnd : Nat) (draw : Nat → Nat) (x : Num) : Stored :=
  match x with
  | .fin s m e =>
    match fmtFp f with
    | some l => storeFp strict f l rnd draw s m e
    | none => storeLns f rnd draw s m e
  | x => storeSpecial f x

/-- The Store's conversion of an ACC44 value (R53 to R61). -/
def storeConvert (strict : Bool) (f rnd : Nat) (draw : Nat → Nat) (a : Acc44) : Stored :=
  if f = fmtSpill then Stored.plain (accSpill a) 0 else storeNum strict f rnd draw (accNum a)

/-- TOFP32 (R93): nearest-even to FP32 under the range rules of R59, the result as an ACC44 value. -/
def toFp32Lane (strict : Bool) (a : Acc44) : Acc44 × Nat :=
  match accNum a with
  | .fin s m e =>
    let r := storeFp strict fmtFP32 fpFP32 0 (fun _ => 0) s m e
    ((accRound strict (fp32 r.code)).1, r.flags)
  | _ => (a, 0)

/-! ### Load -/

/-- The conversions of R58: stored format, delivered format, and whether the operand goes to the A position. -/
def loadPairOk (stored delivered : Nat) (posA : Bool) : Bool :=
  if stored = fmtLNS8 then
    (delivered == fmtLNS16 && posA) || (delivered == fmtLNS8 && !posA) || delivered == fmtBF16
  else if stored = fmtLNS16 then delivered == fmtLNS16 || delivered == fmtBF16
  else if stored = fmtSpill then delivered == fmtSpill
  else if stored ≤ 6 then delivered == fmtBF16 || delivered == fmtG16
  else false

/-- An infinity at the Load (R60). -/
def loadInf (strict : Bool) (d : Nat) (s : Bool) : Nat × Nat :=
  let l := (fmtFp d).getD fpBF16
  let sign := if s then 2 ^ (l.ebits + l.fbits) else 0
  if strict && d = fmtBF16 then (sign + 0x7F80, 0) else (sign + fpMaxCode d l, nfInfIn)

/-- A floating-point code read by the Load, of format f, delivered as BF16 or G16 (R58, R60). -/
def loadFp (strict : Bool) (f : Nat) (l : FpFormat) (d code : Nat) : Nat × Nat :=
  let s := bit code (l.ebits + l.fbits)
  let ld := (fmtFp d).getD fpBF16
  let sign := if s then 2 ^ (ld.ebits + ld.fbits) else 0
  match fpClass f l code with
  | .zero => (sign, 0)
  | .inf => loadInf strict d s
  | .nan => if strict && d = fmtBF16 then (0x7FC0, 0) else (0, nfNanIn)
  | .subnormal =>
    if !strict && (f == fmtBF16 || f == fmtG16 || f == fmtFP32) then (sign, nfSubnormalIn)
    else let r := storeNum strict d 0 (fun _ => 0) (fpValue f l code); (r.code, r.flags)
  | .normal => let r := storeNum strict d 0 (fun _ => 0) (fpValue f l code); (r.code, r.flags)

/-- The Load's conversion of one stored code to the delivered format: the delivered code and the flags (R58, R60). -/
def loadConvert (strict : Bool) (f d code : Nat) : Nat × Nat :=
  match fmtFp f with
  | some l => loadFp strict f l d code
  | none =>
    if f = fmtSpill then ((accRefill code).toNat, 0)
    else if code = lnsReserved f then (zeroCode d, nfReservedCode)
    else if code = lnsZero f then (zeroCode d, 0)
    else if d = f then (code, 0)
    else
      let (s, lg) := lnsFields f code
      if d = fmtLNS16 then (lnsCode fmtLNS16 s lg, 0)
      else let r := storeNum strict d 0 (fun _ => 0) (lnsValue s lg); (r.code, r.flags)

/-! ### amax and scales (R49 to R51) -/

/-- amax of a magnitude (R50): FP32 rounded toward +∞, +∞ above the largest finite value; of a NaN a free value, a magnitude
or +∞ (log 45). -/
def amaxCode (x : Num) : Nat :=
  match x.abs with
  | .fin s m e => if fp32Over upUnits (.fin s m e) then 0x7F800000 else toFP32Up (.fin s m e)
  | .inf _ => 0x7F800000
  | .nan => Config.amaxNan % 0x7F800001

/-- The combined factor of R49: s = round(round(scaleA × scaleB) / scaleOut), rounded in ACC44. -/
def combinedScale (strict : Bool) (a b out : Nat) : Acc44 :=
  let p := (accRound strict ((fp32 a).mul (fp32 b))).1
  (accRound strict ((accNum p).div (fp32 out))).1

/-- The largest finite magnitude of a stored format (landmark table of 02). -/
def fmtMax (f : Nat) : Num :=
  match fmtFp f with
  | some l => fpValue f l (fpMaxCode f l)
  | none => if f = fmtSpill then accNum (accMax false) else codeValue f (if f = fmtLNS8 then 0x3F else 0x3FFF)

/-- The least l with n ≤ 2^l. -/
def ceilLog2 (n : Nat) : Nat := if n = 2 ^ Nat.log2 n then Nat.log2 n else Nat.log2 n + 1

/-- The least c with a·2^e ≤ 2^(n/d)·2^c, formed exactly: F of a logarithmic format is 2^7.875 or 2^(63 + 255/256) (R34). -/
def lnsExponent (a : Nat) (e : Int) (n d : Nat) : Int := -(-((ceilLog2 (a ^ d) : Nat) + d * e - n : Int) / d)

/-- The exponent c of R51 for the largest amax A (FP32 code), margin m and format f. -/
def historyExponent (amax margin f : Nat) : Int :=
  let clamp := fun (c : Int) => if c > 127 then 127 else if c < -126 then -126 else c
  match fp32 amax, fmtMax f with
  | .fin _ a ea, .fin _ b eb =>
    if f = fmtLNS8 then clamp (lnsExponent a (ea + margin) 63 8)
    else if f = fmtLNS16 then clamp (lnsExponent a (ea + margin) 16383 256)
    else
    -- smallest c with a·2^(ea+margin) ≤ b·2^(eb+c)
    let c0 := lead a (ea + margin) - lead b eb
    let le := fun (c : Int) => let q := min (ea + margin) (eb + c)
      decide (Num.units false a (ea + margin) q ≤ Num.units false b (eb + c) q)
    clamp (if le (c0 - 1) then c0 - 1 else if le c0 then c0 else c0 + 1)
  | _, _ => 127

/-- The scale of R51 as an FP32 code: 1.0 when A is zero, else 2^c. -/
def historyScale (amax margin f : Nat) : Nat :=
  if amax % 2 ^ 31 = 0 then 0x3F800000
  else (historyExponent amax margin f + 127).toNat * 2 ^ 23

end Sys2Proof.Machine
end

