-- ==== Sys2Proof/Machine/RegMap.lean ====
section
/-!
DEFINITION. The register maps of the spec as one table: for each field its block, offset, copies, bits, access and
reset value, as the map that names it gives them (R17, R62, R83, R106, R128, R151, R172, R185, R202, R217, R218, R243,
R244, R291, R292, R312, R329, R355, R356, R376, R377, R399, R405, R415).
-/
namespace Sys2Proof.Machine

/-- The register blocks (R405, register space of R219). -/
inductive Block where
  | ch | gl | die | hbm | mod | fab | port | pci | mgt
deriving DecidableEq, Repr

/-- The access column of a register map (R7, R8). -/
inductive Access where
  | ro | rw | rw1c | rws | wo
deriving DecidableEq, Repr

/-- One field of a register map. `stride` and `copies` give the offset of copy i as `off + i × stride`. -/
structure FieldInfo where
  block : Block
  off : Nat
  stride : Nat
  copies : Nat
  hi : Nat
  lo : Nat
  acc : Access
  reset : Nat
deriving DecidableEq, Repr

def FieldInfo.width (i : FieldInfo) : Nat := i.hi + 1 - i.lo

/-- The register maps. -/
def fieldInfo : Field → FieldInfo
  | .chOwnHold => ⟨.ch, 0x40, 0, 1, 0, 0, .ro, 0x0⟩
  | .chStewardHold => ⟨.ch, 0x40, 0, 1, 1, 1, .ro, 0x0⟩
  | .chKeeperHold => ⟨.ch, 0x40, 0, 1, 2, 2, .ro, 0x0⟩
  | .chComplexHold => ⟨.ch, 0x40, 0, 1, 3, 3, .rw, 0x1⟩
  | .chStopped => ⟨.ch, 0x40, 0, 1, 8, 8, .ro, 0x1⟩
  | .chRetired => ⟨.ch, 0x40, 0, 1, 9, 9, .ro, 0x0⟩
  | .chStopCount => ⟨.ch, 0x40, 0, 1, 31, 16, .ro, 0x0⟩
  | .glOwnHold => ⟨.gl, 0x40, 0, 1, 0, 0, .ro, 0x0⟩
  | .glKeeperHold => ⟨.gl, 0x40, 0, 1, 2, 2, .ro, 0x0⟩
  | .glComplexHold => ⟨.gl, 0x40, 0, 1, 3, 3, .rw, 0x1⟩
  | .glStopped => ⟨.gl, 0x40, 0, 1, 8, 8, .ro, 0x1⟩
  | .glStopCount => ⟨.gl, 0x40, 0, 1, 31, 16, .ro, 0x0⟩
  | .dieOwnHold => ⟨.die, 0x40, 0, 1, 0, 0, .ro, 0x0⟩
  | .dieComplexHold => ⟨.die, 0x40, 0, 1, 3, 3, .rw, 0x1⟩
  | .dieStopped => ⟨.die, 0x40, 0, 1, 8, 8, .ro, 0x1⟩
  | .dieStopCount => ⟨.die, 0x40, 0, 1, 31, 16, .ro, 0x0⟩
  | .chOverflowSat => ⟨.ch, 0x60, 0, 1, 0, 0, .rw1c, 0x0⟩
  | .chUnderflowZero => ⟨.ch, 0x60, 0, 1, 1, 1, .rw1c, 0x0⟩
  | .chSubnormalIn => ⟨.ch, 0x60, 0, 1, 2, 2, .rw1c, 0x0⟩
  | .chInfIn => ⟨.ch, 0x60, 0, 1, 3, 3, .rw1c, 0x0⟩
  | .chNanIn => ⟨.ch, 0x60, 0, 1, 4, 4, .rw1c, 0x0⟩
  | .chReservedCode => ⟨.ch, 0x60, 0, 1, 5, 5, .rw1c, 0x0⟩
  | .chAccOverflow => ⟨.ch, 0x60, 0, 1, 6, 6, .rw1c, 0x0⟩
  | .chNanOut => ⟨.ch, 0x60, 0, 1, 7, 7, .rw1c, 0x0⟩
  | .chFlagOps => ⟨.ch, 0x60, 0, 1, 31, 16, .ro, 0x0⟩
  | .chStrandNumFlags => ⟨.ch, 0x70, 4, 4, 7, 0, .ro, 0x0⟩
  | .chBank0State => ⟨.ch, 0x80, 0, 1, 1, 0, .ro, 0x0⟩
  | .chBank1State => ⟨.ch, 0x80, 0, 1, 3, 2, .ro, 0x0⟩
  | .chStepBank => ⟨.ch, 0x80, 0, 1, 4, 4, .ro, 0x0⟩
  | .chFrozen => ⟨.ch, 0x80, 0, 1, 5, 5, .ro, 0x0⟩
  | .chFaultFreeze => ⟨.ch, 0x80, 0, 1, 6, 6, .ro, 0x0⟩
  | .chAfeedLevel => ⟨.ch, 0x80, 0, 1, 11, 8, .ro, 0x0⟩
  | .chBfeedLevel => ⟨.ch, 0x80, 0, 1, 15, 12, .ro, 0x0⟩
  | .chCurStep => ⟨.ch, 0x80, 0, 1, 22, 16, .ro, 0x0⟩
  | .chCheckFail => ⟨.ch, 0x84, 0, 1, 0, 0, .rw1c, 0x0⟩
  | .chPoison => ⟨.ch, 0x84, 0, 1, 1, 1, .rw1c, 0x0⟩
  | .chOrderErr => ⟨.ch, 0x84, 0, 1, 2, 2, .rw1c, 0x0⟩
  | .chBankErr => ⟨.ch, 0x84, 0, 1, 3, 3, .rw1c, 0x0⟩
  | .chPairErr => ⟨.ch, 0x84, 0, 1, 4, 4, .rw1c, 0x0⟩
  | .chTagErr => ⟨.ch, 0x84, 0, 1, 5, 5, .rw1c, 0x0⟩
  | .chFailCount => ⟨.ch, 0x84, 0, 1, 15, 8, .ro, 0x0⟩
  | .chVoidCount => ⟨.ch, 0x84, 0, 1, 31, 16, .ro, 0x0⟩
  | .chSweepCount => ⟨.ch, 0x88, 0, 1, 63, 0, .ro, 0x0⟩
  | .chFreezeTotal => ⟨.ch, 0x90, 0, 1, 63, 0, .ro, 0x0⟩
  | .chFreezeAfeed => ⟨.ch, 0x98, 0, 1, 63, 0, .ro, 0x0⟩
  | .chFreezeBfeed => ⟨.ch, 0xA0, 0, 1, 63, 0, .ro, 0x0⟩
  | .chFreezeBank => ⟨.ch, 0xA8, 0, 1, 63, 0, .ro, 0x0⟩
  | .chFreezeFault => ⟨.ch, 0xB0, 0, 1, 63, 0, .ro, 0x0⟩
  | .chFailRow => ⟨.ch, 0xB8, 0, 1, 6, 0, .ro, 0x0⟩
  | .chFailBank => ⟨.ch, 0xB8, 0, 1, 7, 7, .ro, 0x0⟩
  | .chFailPair => ⟨.ch, 0xB8, 0, 1, 10, 8, .ro, 0x0⟩
  | .chFailKblocks => ⟨.ch, 0xB8, 0, 1, 39, 16, .ro, 0x0⟩
  | .chFailTag => ⟨.ch, 0xB8, 0, 1, 47, 40, .ro, 0x0⟩
  | .chFailTime => ⟨.ch, 0xC0, 0, 1, 63, 0, .ro, 0x0⟩
  | .chFailRowsum => ⟨.ch, 0xC8, 0, 1, 31, 0, .ro, 0x0⟩
  | .chFailChecksum => ⟨.ch, 0xC8, 0, 1, 63, 32, .ro, 0x0⟩
  | .chScrubEn => ⟨.ch, 0x100, 0, 1, 0, 0, .rw, 0x1⟩
  | .chCurStrand => ⟨.ch, 0x104, 0, 1, 2, 0, .ro, 0x4⟩
  | .chIdle => ⟨.ch, 0x104, 0, 1, 3, 3, .ro, 0x1⟩
  | .chWritesOut => ⟨.ch, 0x104, 0, 1, 7, 4, .ro, 0x0⟩
  | .chPocketUncorr => ⟨.ch, 0x108, 0, 1, 0, 0, .rw1c, 0x0⟩
  | .chAddrErr => ⟨.ch, 0x108, 0, 1, 1, 1, .rw1c, 0x0⟩
  | .chWaitTimeout => ⟨.ch, 0x108, 0, 1, 2, 2, .rw1c, 0x0⟩
  | .chAccessErr => ⟨.ch, 0x108, 0, 1, 3, 3, .rw1c, 0x0⟩
  | .chAdmitRefused => ⟨.ch, 0x108, 0, 1, 4, 4, .rw1c, 0x0⟩
  | .chWaitTimeoutUs => ⟨.ch, 0x10C, 0, 1, 31, 0, .rw, 0x7D0⟩
  | .chBoundaryBase => ⟨.ch, 0x110, 0, 1, 63, 0, .rw, 0x0⟩
  | .chBoundarySlots => ⟨.ch, 0x118, 0, 1, 15, 0, .rw, 0x40⟩
  | .chLen => ⟨.ch, 0x140, 4, 16, 31, 0, .rw, 0xFFFFFFFF⟩
  | .chCycles => ⟨.ch, 0x180, 0, 1, 63, 0, .ro, 0x0⟩
  | .chIdleCycles => ⟨.ch, 0x188, 0, 1, 63, 0, .ro, 0x0⟩
  | .chLoadBytes => ⟨.ch, 0x190, 0, 1, 63, 0, .ro, 0x0⟩
  | .chStoreBytes => ⟨.ch, 0x198, 0, 1, 63, 0, .ro, 0x0⟩
  | .chVecCycles => ⟨.ch, 0x1A0, 0, 1, 63, 0, .ro, 0x0⟩
  | .chSfCycles => ⟨.ch, 0x1A8, 0, 1, 63, 0, .ro, 0x0⟩
  | .chPrismTiles => ⟨.ch, 0x1B0, 0, 1, 63, 0, .ro, 0x0⟩
  | .chPocketConflict => ⟨.ch, 0x1B8, 0, 1, 63, 0, .ro, 0x0⟩
  | .chPocketCorr => ⟨.ch, 0x1C0, 0, 1, 31, 0, .ro, 0x0⟩
  | .chPocketUncorrCnt => ⟨.ch, 0x1C0, 0, 1, 63, 32, .ro, 0x0⟩
  | .chStrandSwitch => ⟨.ch, 0x1C8, 0, 1, 63, 0, .ro, 0x0⟩
  | .chSkipTiles => ⟨.ch, 0x1D0, 0, 1, 63, 0, .ro, 0x0⟩
  | .chProgAddr => ⟨.ch, 0x200, 32, 4, 63, 0, .rw, 0x0⟩
  | .chState => ⟨.ch, 0x208, 32, 4, 2, 0, .ro, 0x0⟩
  | .chPriority => ⟨.ch, 0x208, 32, 4, 4, 3, .rw, 0x0⟩
  | .chGo => ⟨.ch, 0x208, 32, 4, 5, 5, .wo, 0x0⟩
  | .chAbort => ⟨.ch, 0x208, 32, 4, 6, 6, .wo, 0x0⟩
  | .chWaitCtr => ⟨.ch, 0x208, 32, 4, 15, 8, .ro, 0x0⟩
  | .chRefuseCode => ⟨.ch, 0x208, 32, 4, 23, 16, .ro, 0x0⟩
  | .chPc => ⟨.ch, 0x20C, 32, 4, 15, 0, .ro, 0x0⟩
  | .chRefuseWord => ⟨.ch, 0x20C, 32, 4, 31, 16, .ro, 0x0⟩
  | .chLastBoundary => ⟨.ch, 0x210, 32, 4, 47, 0, .ro, 0x0⟩
  | .chIssued => ⟨.ch, 0x218, 32, 4, 63, 0, .ro, 0x0⟩
  | .chActiveBank => ⟨.ch, 0x300, 0, 1, 0, 0, .ro, 0x0⟩
  | .chActiveKind => ⟨.ch, 0x300, 0, 1, 1, 1, .ro, 0x0⟩
  | .chLoadState => ⟨.ch, 0x300, 0, 1, 3, 2, .ro, 0x0⟩
  | .chSfEpoch => ⟨.ch, 0x300, 0, 1, 31, 16, .ro, 0x0⟩
  | .chLoadBusy => ⟨.ch, 0x304, 0, 1, 0, 0, .rw1c, 0x0⟩
  | .chImageErr => ⟨.ch, 0x304, 0, 1, 1, 1, .rw1c, 0x0⟩
  | .chTableUncorr => ⟨.ch, 0x304, 0, 1, 2, 2, .rw1c, 0x0⟩
  | .chSmxRange => ⟨.ch, 0x304, 0, 1, 3, 3, .rw1c, 0x0⟩
  | .chSfDomain => ⟨.ch, 0x304, 0, 1, 4, 4, .rw1c, 0x0⟩
  | .chSfLoadAddr => ⟨.ch, 0x308, 0, 1, 63, 0, .rw, 0x0⟩
  | .chLoad => ⟨.ch, 0x310, 0, 1, 0, 0, .wo, 0x0⟩
  | .chSfTableCrc => ⟨.ch, 0x314, 0, 1, 31, 0, .ro, 0x0⟩
  | .chSfTableCorr => ⟨.ch, 0x318, 0, 1, 31, 0, .ro, 0x0⟩
  | .chRsBase => ⟨.ch, 0x320, 8, 4, 63, 0, .rw, 0x0⟩
  | .chSmxRangeRows => ⟨.ch, 0x340, 0, 1, 63, 0, .ro, 0x0⟩
  | .chSfOps => ⟨.ch, 0x348, 0, 1, 63, 0, .ro, 0x0⟩
  | .chNestM => ⟨.ch, 0x400, 32, 4, 19, 0, .ro, 0x0⟩
  | .chNestN => ⟨.ch, 0x400, 32, 4, 43, 24, .ro, 0x0⟩
  | .chNestActive => ⟨.ch, 0x400, 32, 4, 48, 48, .ro, 0x0⟩
  | .chNestK => ⟨.ch, 0x408, 32, 4, 23, 0, .ro, 0x0⟩
  | .chNestBatch => ⟨.ch, 0x408, 32, 4, 63, 32, .ro, 0x0⟩
  | .chNestRuns => ⟨.ch, 0x410, 32, 4, 47, 0, .ro, 0x0⟩
  | .chNestResume => ⟨.ch, 0x418, 32, 4, 47, 0, .rw, 0x0⟩
  | .chNestRunsTotal => ⟨.ch, 0x480, 0, 1, 63, 0, .ro, 0x0⟩
  | .chSpillRuns => ⟨.ch, 0x488, 0, 1, 63, 0, .ro, 0x0⟩
  | .chBatchEntries => ⟨.ch, 0x490, 0, 1, 63, 0, .ro, 0x0⟩
  | .chZeroRuns => ⟨.ch, 0x498, 0, 1, 63, 0, .ro, 0x0⟩
  | .chPageInvalid => ⟨.ch, 0x500, 0, 1, 0, 0, .rw1c, 0x0⟩
  | .chPageStale => ⟨.ch, 0x500, 0, 1, 1, 1, .rw1c, 0x0⟩
  | .chPageFormat => ⟨.ch, 0x500, 0, 1, 2, 2, .rw1c, 0x0⟩
  | .chListOrder => ⟨.ch, 0x500, 0, 1, 3, 3, .rw1c, 0x0⟩
  | .chPageRange => ⟨.ch, 0x500, 0, 1, 4, 4, .rw1c, 0x0⟩
  | .chRefErr => ⟨.ch, 0x500, 0, 1, 5, 5, .rw1c, 0x0⟩
  | .chPageScale => ⟨.ch, 0x500, 0, 1, 6, 6, .rw1c, 0x0⟩
  | .chWalkAhead => ⟨.ch, 0x504, 0, 1, 4, 0, .rw, 0x10⟩
  | .chErrLpage => ⟨.ch, 0x508, 0, 1, 23, 0, .ro, 0x0⟩
  | .chErrGenFound => ⟨.ch, 0x508, 0, 1, 31, 24, .ro, 0x0⟩
  | .chErrGenWant => ⟨.ch, 0x508, 0, 1, 39, 32, .ro, 0x0⟩
  | .chErrStrand => ⟨.ch, 0x508, 0, 1, 41, 40, .ro, 0x0⟩
  | .chErrTableId => ⟨.ch, 0x510, 0, 1, 31, 0, .ro, 0x0⟩
  | .chErrListPos => ⟨.ch, 0x510, 0, 1, 63, 32, .ro, 0x0⟩
  | .chWalks => ⟨.ch, 0x518, 0, 1, 63, 0, .ro, 0x0⟩
  | .chWalkMisses => ⟨.ch, 0x520, 0, 1, 63, 0, .ro, 0x0⟩
  | .chWalkWait => ⟨.ch, 0x528, 0, 1, 63, 0, .ro, 0x0⟩
  | .chAppendTokens => ⟨.ch, 0x530, 0, 1, 63, 0, .ro, 0x0⟩
  | .chMaskSkips => ⟨.ch, 0x538, 0, 1, 63, 0, .ro, 0x0⟩
  | .chGmaskBase => ⟨.ch, 0x600, 32, 4, 63, 0, .rw, 0x0⟩
  | .chGmaskOut => ⟨.ch, 0x608, 32, 4, 7, 0, .rw, 0xFF⟩
  | .chGmaskSpill => ⟨.ch, 0x608, 32, 4, 15, 8, .rw, 0xFF⟩
  | .chGmaskEn => ⟨.ch, 0x608, 32, 4, 16, 16, .rw, 0x0⟩
  | .chGmaskId => ⟨.ch, 0x60C, 32, 4, 31, 0, .ro, 0x0⟩
  | .chGmaskRecErr => ⟨.ch, 0x680, 0, 1, 0, 0, .rw1c, 0x0⟩
  | .chGmaskRange => ⟨.ch, 0x680, 0, 1, 1, 1, .rw1c, 0x0⟩
  | .chGmaskBusy => ⟨.ch, 0x680, 0, 1, 2, 2, .rw1c, 0x0⟩
  | .chGmaskSkips => ⟨.ch, 0x688, 0, 1, 63, 0, .ro, 0x0⟩
  | .chGmaskRows => ⟨.ch, 0x690, 0, 1, 63, 0, .ro, 0x0⟩
  | .chGeomErr => ⟨.ch, 0x700, 0, 1, 0, 0, .rw1c, 0x0⟩
  | .chFsErr => ⟨.ch, 0x700, 0, 1, 1, 1, .rw1c, 0x0⟩
  | .chGeomErrAddr => ⟨.ch, 0x708, 0, 1, 63, 0, .ro, 0x0⟩
  | .chConvZeroElems => ⟨.ch, 0x710, 0, 1, 63, 0, .ro, 0x0⟩
  | .chGroupSkips => ⟨.ch, 0x718, 0, 1, 63, 0, .ro, 0x0⟩
  | .chFsDecBlocks => ⟨.ch, 0x720, 0, 1, 63, 0, .ro, 0x0⟩
  | .chFsEncBlocks => ⟨.ch, 0x728, 0, 1, 63, 0, .ro, 0x0⟩
  | .chFsClamps => ⟨.ch, 0x730, 0, 1, 63, 0, .ro, 0x0⟩
  | .chSrSeedLo => ⟨.ch, 0x800, 64, 4, 63, 0, .rw, 0x0⟩
  | .chSrSeedHi => ⟨.ch, 0x808, 64, 4, 63, 0, .rw, 0x0⟩
  | .chSrStream => ⟨.ch, 0x810, 64, 4, 63, 0, .rw, 0x0⟩
  | .chSrIdxBase => ⟨.ch, 0x818, 64, 4, 55, 0, .rw, 0x0⟩
  | .chGaussStream => ⟨.ch, 0x820, 64, 4, 63, 0, .rw, 0x0⟩
  | .chRngMode => ⟨.ch, 0x900, 0, 1, 0, 0, .rw, 0x0⟩
  | .chRngBusy => ⟨.ch, 0x904, 0, 1, 0, 0, .rw1c, 0x0⟩
  | .chIdxRange => ⟨.ch, 0x904, 0, 1, 1, 1, .rw1c, 0x0⟩
  | .chRngWords => ⟨.ch, 0x908, 0, 1, 63, 0, .ro, 0x0⟩
  | .chSrDraws => ⟨.ch, 0x910, 0, 1, 63, 0, .ro, 0x0⟩
  | .chSrZeroCut => ⟨.ch, 0x918, 0, 1, 63, 0, .ro, 0x0⟩
  | .chGaussLanes => ⟨.ch, 0x920, 0, 1, 63, 0, .ro, 0x0⟩
  | .glSmpBusy => ⟨.gl, 0x800, 0, 1, 0, 0, .ro, 0x0⟩
  | .glSmpMode => ⟨.gl, 0x800, 0, 1, 1, 1, .rw, 0x0⟩
  | .glSmpHdrErr => ⟨.gl, 0x804, 0, 1, 0, 0, .rw1c, 0x0⟩
  | .glSmpRowErr => ⟨.gl, 0x804, 0, 1, 1, 1, .rw1c, 0x0⟩
  | .glSmpUncorr => ⟨.gl, 0x804, 0, 1, 2, 2, .rw1c, 0x0⟩
  | .glSmpRows => ⟨.gl, 0x808, 0, 1, 63, 0, .ro, 0x0⟩
  | .glSmpRefine => ⟨.gl, 0x810, 0, 1, 63, 0, .ro, 0x0⟩
  | .glCacheSteps => ⟨.gl, 0x100, 0, 1, 2, 0, .rw, 0x0⟩
  | .glGmUncorr => ⟨.gl, 0x104, 0, 1, 0, 0, .rw1c, 0x0⟩
  | .glSplitRefused => ⟨.gl, 0x104, 0, 1, 1, 1, .rw1c, 0x0⟩
  | .glSlotErr => ⟨.gl, 0x104, 0, 1, 2, 2, .rw1c, 0x0⟩
  | .glAddrUnmapped => ⟨.gl, 0x104, 0, 1, 3, 3, .rw1c, 0x0⟩
  | .glSlotCommit => ⟨.gl, 0x108, 0, 1, 0, 0, .wo, 0x0⟩
  | .glSlotPending => ⟨.gl, 0x108, 0, 1, 1, 1, .ro, 0x0⟩
  | .glStackTemp => ⟨.gl, 0x110, 0, 1, 7, 0, .ro, 0x0⟩
  | .glStackTempMax => ⟨.gl, 0x110, 0, 1, 15, 8, .ro, 0x0⟩
  | .glThermalState => ⟨.gl, 0x110, 0, 1, 18, 16, .ro, 0x0⟩
  | .glCacheHits => ⟨.gl, 0x120, 0, 1, 63, 0, .ro, 0x0⟩
  | .glCacheMisses => ⟨.gl, 0x128, 0, 1, 63, 0, .ro, 0x0⟩
  | .glDripReads => ⟨.gl, 0x130, 0, 1, 63, 0, .ro, 0x0⟩
  | .glDripWrites => ⟨.gl, 0x138, 0, 1, 63, 0, .ro, 0x0⟩
  | .glDripAtomics => ⟨.gl, 0x140, 0, 1, 63, 0, .ro, 0x0⟩
  | .glGmCorr => ⟨.gl, 0x148, 0, 1, 31, 0, .ro, 0x0⟩
  | .glGmUncorrCnt => ⟨.gl, 0x148, 0, 1, 63, 32, .ro, 0x0⟩
  | .glBankConflict => ⟨.gl, 0x150, 0, 1, 63, 0, .ro, 0x0⟩
  | .glFrames => ⟨.gl, 0x158, 0, 1, 63, 0, .ro, 0x0⟩
  | .glWatchPolls => ⟨.gl, 0x160, 0, 1, 63, 0, .ro, 0x0⟩
  | .glClassIssued => ⟨.gl, 0x180, 8, 5, 63, 0, .ro, 0x0⟩
  | .glSlotActive => ⟨.gl, 0x400, 4, 32, 31, 0, .ro, 0x0⟩
  | .glSlotShadow => ⟨.gl, 0x480, 4, 32, 31, 0, .rw, 0x0⟩
  | .hbmStackOnline => ⟨.hbm, 0x0, 0, 1, 0, 0, .ro, 0x0⟩
  | .hbmNarrowed => ⟨.hbm, 0x0, 0, 1, 1, 1, .ro, 0x0⟩
  | .hbmFailedCh => ⟨.hbm, 0x0, 0, 1, 6, 2, .ro, 0x0⟩
  | .hbmRefresh2x => ⟨.hbm, 0x0, 0, 1, 8, 8, .ro, 0x0⟩
  | .hbmSelfRefresh => ⟨.hbm, 0x0, 0, 1, 9, 9, .ro, 0x0⟩
  | .hbmUncorr => ⟨.hbm, 0x4, 0, 1, 0, 0, .rw1c, 0x0⟩
  | .hbmFail => ⟨.hbm, 0x4, 0, 1, 1, 1, .rw1c, 0x0⟩
  | .hbmRetireEvent => ⟨.hbm, 0x4, 0, 1, 2, 2, .rw1c, 0x0⟩
  | .hbmOdeccSevere => ⟨.hbm, 0x4, 0, 1, 3, 3, .rw1c, 0x0⟩
  | .hbmRetListFull => ⟨.hbm, 0x4, 0, 1, 4, 4, .rw1c, 0x0⟩
  | .hbmCorrCnt => ⟨.hbm, 0x8, 0, 1, 31, 0, .ro, 0x0⟩
  | .hbmUncorrCnt => ⟨.hbm, 0xC, 0, 1, 31, 0, .ro, 0x0⟩
  | .hbmErrAddr => ⟨.hbm, 0x10, 0, 1, 63, 0, .ro, 0x0⟩
  | .hbmErrTime => ⟨.hbm, 0x18, 0, 1, 63, 0, .ro, 0x0⟩
  | .hbmTempStack => ⟨.hbm, 0x20, 0, 1, 7, 0, .ro, 0x0⟩
  | .hbmTempBase => ⟨.hbm, 0x20, 0, 1, 15, 8, .ro, 0x0⟩
  | .hbmRetCeLimit => ⟨.hbm, 0x24, 0, 1, 15, 0, .rw, 0x8⟩
  | .hbmScrubPeriod => ⟨.hbm, 0x28, 0, 1, 31, 0, .rw, 0x3840⟩
  | .hbmScrubPasses => ⟨.hbm, 0x30, 0, 1, 63, 0, .ro, 0x0⟩
  | .hbmReadBytes => ⟨.hbm, 0x38, 0, 1, 63, 0, .ro, 0x0⟩
  | .hbmWriteBytes => ⟨.hbm, 0x40, 0, 1, 63, 0, .ro, 0x0⟩
  | .hbmRmwWrites => ⟨.hbm, 0x48, 0, 1, 63, 0, .ro, 0x0⟩
  | .hbmBackinv => ⟨.hbm, 0x50, 0, 1, 63, 0, .ro, 0x0⟩
  | .hbmRefresh2xTime => ⟨.hbm, 0x58, 0, 1, 63, 0, .ro, 0x0⟩
  | .hbmOdeccCorr => ⟨.hbm, 0x60, 0, 1, 31, 0, .ro, 0x0⟩
  | .hbmRetiredBlocks => ⟨.hbm, 0x60, 0, 1, 63, 32, .ro, 0x0⟩
  | .fabModuleAddr => ⟨.fab, 0x0, 0, 1, 17, 0, .rws, 0x0⟩
  | .fabAddrValid => ⟨.fab, 0x0, 0, 1, 31, 31, .rws, 0x0⟩
  | .fabSizeX => ⟨.fab, 0x4, 0, 1, 5, 0, .rw, 0x0⟩
  | .fabSizeY => ⟨.fab, 0x4, 0, 1, 13, 8, .rw, 0x0⟩
  | .fabSizeZ => ⟨.fab, 0x4, 0, 1, 21, 16, .rw, 0x0⟩
  | .fabWrapX => ⟨.fab, 0x4, 0, 1, 24, 24, .rw, 0x1⟩
  | .fabWrapY => ⟨.fab, 0x4, 0, 1, 25, 25, .rw, 0x1⟩
  | .fabWrapZ => ⟨.fab, 0x4, 0, 1, 26, 26, .rw, 0x1⟩
  | .fabAdaptiveEn => ⟨.fab, 0x8, 0, 1, 0, 0, .rw, 0x1⟩
  | .fabAddrCheck => ⟨.fab, 0x8, 0, 1, 1, 1, .rw, 0x1⟩
  | .fabHistoryReady => ⟨.fab, 0x8, 0, 1, 2, 2, .ro, 0x0⟩
  | .fabAcceptTag => ⟨.fab, 0x10, 4, 4, 11, 0, .rw, 0x0⟩
  | .fabTagValid => ⟨.fab, 0x10, 4, 4, 31, 31, .rw, 0x0⟩
  | .fabTagDrops => ⟨.fab, 0x20, 0, 1, 63, 0, .ro, 0x0⟩
  | .fabXferNacks => ⟨.fab, 0x28, 0, 1, 63, 0, .ro, 0x0⟩
  | .portMode => ⟨.port, 0x100, 0, 1, 0, 0, .rw, 0x0⟩
  | .portEnable => ⟨.port, 0x100, 0, 1, 1, 1, .rw, 0x1⟩
  | .portHalfOk => ⟨.port, 0x100, 0, 1, 2, 2, .rw, 0x1⟩
  | .portInService => ⟨.port, 0x100, 0, 1, 3, 3, .rw, 0x0⟩
  | .portRetrain => ⟨.port, 0x100, 0, 1, 4, 4, .wo, 0x0⟩
  | .portEdgeCommit => ⟨.port, 0x100, 0, 1, 5, 5, .wo, 0x0⟩
  | .portPfcEn => ⟨.port, 0x100, 0, 1, 6, 6, .rw, 0x0⟩
  | .portPfcPrio => ⟨.port, 0x100, 0, 1, 9, 7, .rw, 0x3⟩
  | .portLinkState => ⟨.port, 0x104, 0, 1, 2, 0, .ro, 0x0⟩
  | .portRate => ⟨.port, 0x104, 0, 1, 4, 3, .ro, 0x0⟩
  | .portHalf => ⟨.port, 0x104, 0, 1, 5, 5, .ro, 0x0⟩
  | .portLaneHalf => ⟨.port, 0x104, 0, 1, 6, 6, .ro, 0x0⟩
  | .portProtocol => ⟨.port, 0x104, 0, 1, 15, 8, .ro, 0x0⟩
  | .portPeerKind => ⟨.port, 0x104, 0, 1, 23, 16, .ro, 0x0⟩
  | .portTrainFail => ⟨.port, 0x108, 0, 1, 0, 0, .rw1c, 0x0⟩
  | .portNoCommon => ⟨.port, 0x108, 0, 1, 1, 1, .rw1c, 0x0⟩
  | .portAddrMismatch => ⟨.port, 0x108, 0, 1, 2, 2, .rw1c, 0x0⟩
  | .portPortFailed => ⟨.port, 0x108, 0, 1, 3, 3, .rw1c, 0x0⟩
  | .portFlowBusy => ⟨.port, 0x108, 0, 1, 4, 4, .rw1c, 0x0⟩
  | .portAccessErr => ⟨.port, 0x108, 0, 1, 5, 5, .rw1c, 0x0⟩
  | .portPeerAddr => ⟨.port, 0x10C, 0, 1, 17, 0, .ro, 0x0⟩
  | .portFlitsTx => ⟨.port, 0x110, 0, 1, 63, 0, .ro, 0x0⟩
  | .portFlitsRx => ⟨.port, 0x118, 0, 1, 63, 0, .ro, 0x0⟩
  | .portCrcErrors => ⟨.port, 0x120, 0, 1, 63, 0, .ro, 0x0⟩
  | .portReplays => ⟨.port, 0x128, 0, 1, 63, 0, .ro, 0x0⟩
  | .portFecCorr => ⟨.port, 0x130, 0, 1, 63, 0, .ro, 0x0⟩
  | .portFecUncorr => ⟨.port, 0x138, 0, 1, 63, 0, .ro, 0x0⟩
  | .portTrainCount => ⟨.port, 0x140, 0, 1, 31, 0, .ro, 0x0⟩
  | .portDownCount => ⟨.port, 0x140, 0, 1, 63, 32, .ro, 0x0⟩
  | .portCongest => ⟨.port, 0x148, 0, 1, 15, 0, .ro, 0x0⟩
  | .portUdpPort => ⟨.port, 0x150, 0, 1, 15, 0, .rw, 0x5D2A⟩
  | .portEdgeRto => ⟨.port, 0x150, 0, 1, 31, 16, .rw, 0x32⟩
  | .portEdgeTable => ⟨.port, 0x158, 0, 1, 63, 0, .rw, 0x0⟩
  | .portEdgeDrops => ⟨.port, 0x160, 0, 1, 63, 0, .ro, 0x0⟩
  | .portEdgeRetx => ⟨.port, 0x168, 0, 1, 63, 0, .ro, 0x0⟩
  | .modCollTimeoutUs => ⟨.mod, 0xA00, 0, 1, 31, 0, .rw, 0x7D0⟩
  | .modSumpJobSegs => ⟨.mod, 0xA04, 0, 1, 9, 0, .rw, 0xC0⟩
  | .modClaimMaxSegs => ⟨.mod, 0xA04, 0, 1, 25, 16, .rw, 0x100⟩
  | .modSumpFree => ⟨.mod, 0xA08, 0, 1, 9, 0, .ro, 0x300⟩
  | .modCollJobs => ⟨.mod, 0xA08, 0, 1, 19, 16, .ro, 0x0⟩
  | .modCollAborted => ⟨.mod, 0xA0C, 0, 1, 0, 0, .rw1c, 0x0⟩
  | .modCollProto => ⟨.mod, 0xA0C, 0, 1, 1, 1, .rw1c, 0x0⟩
  | .modSumpUncorr => ⟨.mod, 0xA0C, 0, 1, 2, 2, .rw1c, 0x0⟩
  | .modCollAbortBase => ⟨.mod, 0xA10, 0, 1, 63, 0, .ro, 0x0⟩
  | .modCollAborts => ⟨.mod, 0xA18, 0, 1, 63, 0, .ro, 0x0⟩
  | .modCollDone => ⟨.mod, 0xA20, 0, 1, 63, 0, .ro, 0x0⟩
  | .modCollPieces => ⟨.mod, 0xA28, 0, 1, 63, 0, .ro, 0x0⟩
  | .modClaimWaitUs => ⟨.mod, 0xA30, 0, 1, 63, 0, .ro, 0x0⟩
  | .modCollDupDrops => ⟨.mod, 0xA38, 0, 1, 63, 0, .ro, 0x0⟩
  | .modSumpCorr => ⟨.mod, 0xA40, 0, 1, 31, 0, .ro, 0x0⟩
  | .modSumpUncorrCnt => ⟨.mod, 0xA40, 0, 1, 63, 32, .ro, 0x0⟩
  | .modTimeNow => ⟨.mod, 0xB00, 0, 1, 63, 0, .ro, 0x0⟩
  | .modTimeConverged => ⟨.mod, 0xB08, 0, 1, 0, 0, .ro, 0x0⟩
  | .modTimeRootSelf => ⟨.mod, 0xB08, 0, 1, 1, 1, .ro, 0x0⟩
  | .modTimeLost => ⟨.mod, 0xB08, 0, 1, 2, 2, .rw1c, 0x0⟩
  | .modTimeStepped => ⟨.mod, 0xB08, 0, 1, 3, 3, .rw1c, 0x0⟩
  | .modTimeHops => ⟨.mod, 0xB08, 0, 1, 15, 8, .ro, 0xFF⟩
  | .modTimeRefPort => ⟨.mod, 0xB08, 0, 1, 18, 16, .ro, 0x7⟩
  | .modTimeRoot => ⟨.mod, 0xB0C, 0, 1, 17, 0, .rw, 0x0⟩
  | .modRootValid => ⟨.mod, 0xB0C, 0, 1, 31, 31, .rw, 0x0⟩
  | .modTimeOffset => ⟨.mod, 0xB10, 0, 1, 31, 0, .ro, 0x0⟩
  | .modTimeConvergedAt => ⟨.mod, 0xB18, 0, 1, 63, 0, .ro, 0x0⟩
  | .modTimeSteps => ⟨.mod, 0xB20, 0, 1, 63, 0, .ro, 0x0⟩
  | .modLogClassEn => ⟨.mod, 0xB40, 0, 1, 15, 0, .rw, 0xFFFF⟩
  | .modLogEntries => ⟨.mod, 0xB48, 0, 1, 63, 0, .ro, 0x0⟩
  | .modLogLost => ⟨.mod, 0xB50, 0, 1, 63, 0, .ro, 0x0⟩
  | .modLogReadTs => ⟨.mod, 0xB58, 0, 1, 63, 0, .ro, 0x0⟩
  | .modErrBase => ⟨.mod, 0xC00, 0, 1, 63, 0, .ro, 0x0⟩
  | .modErrCount => ⟨.mod, 0xC08, 0, 1, 63, 0, .ro, 0x0⟩
  | .modRecovering => ⟨.mod, 0xC10, 0, 1, 0, 0, .ro, 0x0⟩
  | .modMirrorOk => ⟨.mod, 0xC10, 0, 1, 1, 1, .ro, 0x0⟩
  | .modLossSeen => ⟨.mod, 0xC10, 0, 1, 2, 2, .rw1c, 0x0⟩
  | .modRecoveryFail => ⟨.mod, 0xC10, 0, 1, 3, 3, .rw1c, 0x0⟩
  | .modRetireWindow => ⟨.mod, 0xC14, 0, 1, 31, 0, .rw, 0xE10⟩
  | .modRecoveries => ⟨.mod, 0xC18, 0, 1, 63, 0, .ro, 0x0⟩
  | .modRecoveryMax => ⟨.mod, 0xC20, 0, 1, 63, 0, .ro, 0x0⟩
  | .modRetiredChambers => ⟨.mod, 0xC28, 0, 1, 8, 0, .ro, 0x0⟩
  | .modProbeTimeoutUs => ⟨.mod, 0xC2C, 0, 1, 31, 0, .rw, 0x3E8⟩
  | .modMirrorStep => ⟨.mod, 0xC30, 0, 1, 63, 0, .ro, 0x0⟩
  | .modMirrorHeldStep => ⟨.mod, 0xC38, 0, 1, 63, 0, .ro, 0x0⟩
  | .chSigSinceBnd => ⟨.ch, 0xA00, 32, 4, 15, 0, .ro, 0x0⟩
  | .chSigSkip => ⟨.ch, 0xA00, 32, 4, 31, 16, .rw, 0x0⟩
  | .chRssaveBase => ⟨.ch, 0xA08, 32, 4, 63, 0, .rw, 0x0⟩
  | .chLastFaultTs => ⟨.ch, 0xA80, 0, 1, 63, 0, .ro, 0x0⟩
  | .chReplays => ⟨.ch, 0xA88, 0, 1, 63, 0, .ro, 0x0⟩
  | .glPointNow => ⟨.gl, 0x600, 0, 1, 3, 0, .ro, 0xF⟩
  | .glPointTarget => ⟨.gl, 0x600, 0, 1, 7, 4, .ro, 0xF⟩
  | .glReqComplex => ⟨.gl, 0x600, 0, 1, 11, 8, .rw, 0x0⟩
  | .glReqSteward => ⟨.gl, 0x600, 0, 1, 15, 12, .ro, 0x6⟩
  | .glReqKeeper => ⟨.gl, 0x600, 0, 1, 19, 16, .ro, 0x0⟩
  | .glPointMoving => ⟨.gl, 0x600, 0, 1, 20, 20, .ro, 0x0⟩
  | .glPredConverged => ⟨.gl, 0x600, 0, 1, 21, 21, .ro, 0x0⟩
  | .glRailGated => ⟨.gl, 0x600, 0, 1, 22, 22, .ro, 0x0⟩
  | .glDivided => ⟨.gl, 0x600, 0, 1, 23, 23, .ro, 0x0⟩
  | .glDieTemp => ⟨.gl, 0x604, 0, 1, 7, 0, .ro, 0x0⟩
  | .glDieTempPred => ⟨.gl, 0x604, 0, 1, 15, 8, .ro, 0x0⟩
  | .glDieTempMax => ⟨.gl, 0x604, 0, 1, 23, 16, .ro, 0x0⟩
  | .glAdjVoltLimit => ⟨.gl, 0x608, 0, 1, 0, 0, .rw1c, 0x0⟩
  | .glAdjTempLimit => ⟨.gl, 0x608, 0, 1, 1, 1, .rw1c, 0x0⟩
  | .glAdjTempStuck => ⟨.gl, 0x608, 0, 1, 2, 2, .rw1c, 0x0⟩
  | .glDieHot => ⟨.gl, 0x608, 0, 1, 3, 3, .rw1c, 0x0⟩
  | .glPointChanges => ⟨.gl, 0x610, 0, 1, 63, 0, .ro, 0x0⟩
  | .glAdjLimitTime => ⟨.gl, 0x618, 0, 1, 63, 0, .ro, 0x0⟩
  | .glRailEnergy => ⟨.gl, 0x620, 0, 1, 63, 0, .ro, 0x0⟩
  | .modPowerState => ⟨.mod, 0xD00, 0, 1, 1, 0, .ro, 0x0⟩
  | .modStayRunning => ⟨.mod, 0xD00, 0, 1, 2, 2, .ro, 0x0⟩
  | .modHostCap => ⟨.mod, 0xD04, 0, 1, 12, 0, .rw, 0x1C20⟩
  | .modMgmtCap => ⟨.mod, 0xD04, 0, 1, 28, 16, .ro, 0x1C20⟩
  | .modEffectiveCap => ⟨.mod, 0xD08, 0, 1, 12, 0, .ro, 0x1C20⟩
  | .modCapPoint => ⟨.mod, 0xD08, 0, 1, 19, 16, .ro, 0x0⟩
  | .modDuty => ⟨.mod, 0xD08, 0, 1, 26, 20, .ro, 0x0⟩
  | .modCapLimiting => ⟨.mod, 0xD0C, 0, 1, 0, 0, .rw1c, 0x0⟩
  | .modInputLow => ⟨.mod, 0xD0C, 0, 1, 1, 1, .rw1c, 0x0⟩
  | .modInputHigh => ⟨.mod, 0xD0C, 0, 1, 2, 2, .rw1c, 0x0⟩
  | .modInletHot => ⟨.mod, 0xD0C, 0, 1, 3, 3, .rw1c, 0x0⟩
  | .modEmergDivide => ⟨.mod, 0xD0C, 0, 1, 4, 4, .rw1c, 0x0⟩
  | .modVin => ⟨.mod, 0xD10, 0, 1, 15, 0, .ro, 0x0⟩
  | .modIin => ⟨.mod, 0xD10, 0, 1, 31, 16, .ro, 0x0⟩
  | .modPin => ⟨.mod, 0xD14, 0, 1, 15, 0, .ro, 0x0⟩
  | .modCoolantIn => ⟨.mod, 0xD18, 0, 1, 7, 0, .ro, 0x0⟩
  | .modCoolantOut => ⟨.mod, 0xD18, 0, 1, 15, 8, .ro, 0x0⟩
  | .modIdleToReadyUs => ⟨.mod, 0xD1C, 0, 1, 31, 0, .rw, 0x3E8⟩
  | .modInputEnergy => ⟨.mod, 0xD20, 0, 1, 63, 0, .ro, 0x0⟩
  | .modCapTime => ⟨.mod, 0xD28, 0, 1, 63, 0, .ro, 0x0⟩
  | .modEmergDivides => ⟨.mod, 0xD30, 0, 1, 63, 0, .ro, 0x0⟩
  | .modBootStage => ⟨.mod, 0xE00, 0, 1, 3, 0, .ro, 0x0⟩
  | .modBootErr => ⟨.mod, 0xE00, 0, 1, 7, 4, .ro, 0x0⟩
  | .modActiveSlot => ⟨.mod, 0xE00, 0, 1, 8, 8, .ro, 0x0⟩
  | .modTrialBoot => ⟨.mod, 0xE00, 0, 1, 9, 9, .ro, 0x0⟩
  | .modFwReverted => ⟨.mod, 0xE00, 0, 1, 10, 10, .ro, 0x0⟩
  | .modSettingsDefaulted => ⟨.mod, 0xE00, 0, 1, 11, 11, .ro, 0x0⟩
  | .modRoot0Revoked => ⟨.mod, 0xE00, 0, 1, 12, 12, .ro, 0x0⟩
  | .modFwPending => ⟨.mod, 0xE00, 0, 1, 13, 13, .ro, 0x0⟩
  | .modRunFwVersion => ⟨.mod, 0xE04, 0, 1, 31, 0, .ro, 0x0⟩
  | .modRunSecVersion => ⟨.mod, 0xE08, 0, 1, 15, 0, .ro, 0x0⟩
  | .modSecCounter => ⟨.mod, 0xE08, 0, 1, 31, 16, .ro, 0x0⟩
  | .modKeyReady => ⟨.mod, 0xE0C, 0, 1, 0, 0, .ro, 0x0⟩
  | .modKeyUninit => ⟨.mod, 0xE0C, 0, 1, 1, 1, .ro, 0x0⟩
  | .modKeyExhausted => ⟨.mod, 0xE0C, 0, 1, 2, 2, .ro, 0x0⟩
  | .modNvWriteErr => ⟨.mod, 0xE0C, 0, 1, 3, 3, .rw1c, 0x0⟩
  | .modAttestTokens => ⟨.mod, 0xE0C, 0, 1, 14, 8, .ro, 0x0⟩
  | .modKeyNextQ => ⟨.mod, 0xE10, 0, 1, 25, 0, .ro, 0x0⟩
  | .modSettingsGen => ⟨.mod, 0xE14, 0, 1, 31, 0, .ro, 0x0⟩
  | .modBootTime => ⟨.mod, 0xE18, 0, 1, 63, 0, .ro, 0x0⟩
  | .modAttests => ⟨.mod, 0xE20, 0, 1, 63, 0, .ro, 0x0⟩
  | .modNvWrites => ⟨.mod, 0xE28, 0, 1, 63, 0, .ro, 0x0⟩
  | .pciMapVersion => ⟨.pci, 0x0, 0, 1, 7, 0, .ro, 0x1⟩
  | .pciFwIfMin => ⟨.pci, 0x0, 0, 1, 15, 8, .ro, 0x0⟩
  | .pciFwIfMax => ⟨.pci, 0x0, 0, 1, 23, 16, .ro, 0x0⟩
  | .pciReady => ⟨.pci, 0x4, 0, 1, 10, 10, .ro, 0x0⟩
  | .pciAqSqBase => ⟨.pci, 0x8, 0, 1, 63, 0, .rw, 0x0⟩
  | .pciAqStqBase => ⟨.pci, 0x10, 0, 1, 63, 0, .rw, 0x0⟩
  | .pciAqSqLog2 => ⟨.pci, 0x18, 0, 1, 4, 0, .rw, 0x6⟩
  | .pciAqStqLog2 => ⟨.pci, 0x18, 0, 1, 12, 8, .rw, 0x6⟩
  | .pciAqEnable => ⟨.pci, 0x18, 0, 1, 16, 16, .rw, 0x0⟩
  | .pciAqReady => ⟨.pci, 0x18, 0, 1, 17, 17, .ro, 0x0⟩
  | .pciAqError => ⟨.pci, 0x18, 0, 1, 18, 18, .ro, 0x0⟩
  | .pciAqReset => ⟨.pci, 0x18, 0, 1, 19, 19, .wo, 0x0⟩
  | .pciEvent => ⟨.pci, 0x20, 0, 1, 7, 0, .rw1c, 0x0⟩
  | .pciEventMask => ⟨.pci, 0x24, 0, 1, 7, 0, .rw, 0xFF⟩
  | .pciWinBase => ⟨.pci, 0x28, 0, 1, 31, 20, .rw, 0x0⟩
  | .pciAccessErr => ⟨.pci, 0x2C, 0, 1, 0, 0, .rw1c, 0x0⟩
  | .pciSqTail => ⟨.pci, 0x1000, 8, 64, 15, 0, .wo, 0x0⟩
  | .pciStqHead => ⟨.pci, 0x1004, 8, 64, 15, 0, .wo, 0x0⟩
  | .mgtLinkUp => ⟨.mgt, 0x0, 0, 1, 10, 10, .ro, 0x0⟩
  | .mgtCap => ⟨.mgt, 0x4, 0, 1, 12, 0, .rw, 0x1C20⟩
  | .mgtResetKey => ⟨.mgt, 0x8, 0, 1, 15, 0, .wo, 0x0⟩
  | .mgtAlert => ⟨.mgt, 0xC, 0, 1, 6, 0, .rw1c, 0x0⟩
  | .mgtAlertMask => ⟨.mgt, 0x10, 0, 1, 6, 0, .rw, 0x0⟩
  | .mgtRegAddr => ⟨.mgt, 0x30, 0, 1, 31, 0, .rw, 0x0⟩
  | .mgtAccessErr => ⟨.mgt, 0x38, 0, 1, 0, 0, .rw1c, 0x0⟩
  | .pciMsixAddr => ⟨.pci, 0x2000, 16, 64, 31, 0, .rw, 0x0⟩
  | .pciMsixAddrHigh => ⟨.pci, 0x2004, 16, 64, 31, 0, .rw, 0x0⟩
  | .pciMsixData => ⟨.pci, 0x2008, 16, 64, 31, 0, .rw, 0x0⟩
  | .pciMsixMask => ⟨.pci, 0x200C, 16, 64, 0, 0, .rw, 0x1⟩

/-- Class of slot n in the default slot table (R226). -/
def defaultSlot (n : Nat) : Nat :=
  if n % 8 = 0 then 1
  else if n % 32 = 3 ∨ n % 32 = 13 ∨ n % 32 = 23 then 2
  else if n % 64 = 37 then 3
  else if n % 64 = 53 then 4
  else 0

/-- Word w of the default slot table: eight slots of four bits (R243). -/
def defaultSlotWord (w : Nat) : Nat :=
  (List.range 8).foldl (fun a i => a + defaultSlot (8 * w + i) * 16 ^ i) 0

/-- The reset value of copy `idx` of a field (R8; R226 for the slot tables). -/
def resetVal (f : Field) (idx : Nat) : Nat :=
  match f with
  | .glSlotActive => defaultSlotWord idx
  | .glSlotShadow => defaultSlotWord idx
  | f => (fieldInfo f).reset

/-- How many units a block has: Chambers, Galleries, dies, stacks, ports; one of the others (R1, R3). -/
def Block.units : Block → Nat
  | .ch => 256 | .gl => 32 | .die => 8 | .hbm => 32 | .port => 6 | _ => 1

end Sys2Proof.Machine
end

