-- ==== Sys2Proof/Machine/Types.lean ====
section
/-!
DEFINITION. The records that the state of a Chamber is made of: tiles in the feed, bank contents, bound outputs, open
bank runs, words that a NEST has emitted, the Store's buffer and the row-statistics set.
-/
namespace Sys2Proof.Machine

/-- Which lanes of a score tile a mask excludes (R158, R166); all positions are tokens. -/
structure ScoreRef where
  keyOrg : Nat
  seqLen : Nat
  inList : Bool
  mask : Nat
  window : Nat
  qOrg : Nat
deriving DecidableEq, Repr

/-- A tile of 128 feed words in a feed queue or the Prism buffer (03, Feeding the array). -/
structure Tile where
  fmt : Nat
  words : List (List Nat)
  /-- Indices of the words that carry the poison bit. -/
  poison : List Nat := []
  /-- B only: per word the FP32 codes w and W and whether they are out of range (R79, R81). -/
  checks : List (Nat × Nat × Bool) := []
  blkK : Nat
  blkMN : Nat
  /-- Bounds of the operand in elements along K and along M or N (R135). -/
  kEnd : Nat
  mnEnd : Nat
  /-- The descriptor that the LOAD named, and its scale in force (R49, R154). -/
  desc : Nat := 0
  scale : Nat := 0
  /-- A paged K half: a run with this B is a score run (R160). -/
  isScore : Bool := false
  /-- Address of the first poisoned element. -/
  poisonAddr : Nat := 0
  score : Option ScoreRef := none
deriving DecidableEq, Repr

/-- What a NEST captured for a problem: lengths, replaced bases, bounds of a batch entry (R135, R144). -/
structure NestCtx where
  lens : List Nat
  bases : List (Nat × Nat) := []
  mLen : Nat := 0xFFFFFFFF
  nLen : Nat := 0xFFFFFFFF
  kLen : Nat := 0xFFFFFFFF
  problem : Nat := 0
  /-- The problem's number in a descriptor pointer list, which its logical indices count (R144, R209). -/
  listed : Nat := 0
  /-- First row and first column of a folded problem (R146). -/
  mOrg : Nat := 0
  nOrg : Nat := 0
deriving DecidableEq, Repr

/-- An output named by a BIND (R66, R95), with its descriptor as read when the BIND issued. -/
structure Bound where
  tag : Nat
  desc : Nat
  bytes : List Byte
  blkM : Nat
  blkN : Nat
  /-- Lengths and bases in force: the strand's, or those that the NEST captured (R135). -/
  ctx : NestCtx
  /-- Token index of row or column 0 of a paged output (R162). -/
  tokenOrg : Nat
  /-- Rows of a masked run that are frozen, and whether its whole block is (R182). -/
  frozenRows : List Nat := []
  frozenBlock : Bool := false
deriving DecidableEq, Repr

/-- An open bank run of a strand (R67). -/
structure Run where
  bank : Nat
  pair : Option Nat
  lastK : Option Nat
  /-- A SWEEP of the run has been kept, so `INIT` has been carried (R139). -/
  kept : Bool
  /-- A refill of the bank is still to come: the spilled block. -/
  refill : Option (Nat × List Byte × Nat × Nat) := none
  refilled : Bool := false
  /-- Decided as the run opens: the whole block lies beyond the M or N bound (R139), or every lane is masked (R167), or
  the block is frozen (R182). -/
  far : Bool := false
  masked : Bool := false
  frozen : Bool := false
  /-- Rows of A fed as zero (R182). -/
  frozenRows : List Nat := []
  /-- What the NEST or the strand had in force when the run opened. -/
  ctx : NestCtx := { lens := [] }
deriving DecidableEq, Repr

/-- A bank of accumulators with its check units (R68, R79). `rows` is empty while the bank is FREE. -/
structure BankData where
  owner : Nat := 0
  rows : List (List Acc44) := []
  v : List Acc44 := []
  sAbs : List Acc44 := []
  z : List Acc44 := []
  wmax : Nat := 0
  /-- Rows whose check is void under R81. -/
  voids : List Nat := []
  steps : Nat := 0
  kblocks : Nat := 0
  pair : Nat := 0
  refilled : Bool := false
  qBlk : Nat := 0
  score : Option ScoreRef := none
  bound : Option Bound := none
  /-- M bound of the A operands and N bound of the B operands of the run (R135). -/
  mEnd : Nat := 2 ^ 40
  nEnd : Nat := 2 ^ 40
deriving DecidableEq, Repr

/-- A byte range of module memory that a write of a strand covers (R101). -/
structure Span where
  lo : Nat
  hi : Nat
deriving DecidableEq, Repr

/-- The record of a walk error (R161, R172). -/
structure PageErr where
  bit : Nat
  lpage : Nat := 0
  genFound : Nat := 0
  genWant : Nat := 0
  tableId : Nat := 0
  listPos : Nat := 0xFFFFFFFF
deriving DecidableEq, Repr

/-- Why an access stopped: an address (R87, R220), a walk (R161), a geometry record or a Flowstone block (R189, R202),
or an uncorrectable read of a record (R87). -/
inductive RdErr where
  | addr (a : Nat)
  | page (e : PageErr)
  | geom (a : Nat)
  | flow (a : Nat)
  | poison (a : Nat)
deriving DecidableEq, Repr

/-- A tile in the Store's buffer, waiting for its verdict (R82). -/
structure StoreTile where
  strand : Nat
  bank : Nat
  span : Span
  /-- The converted values: address and bytes of each piece. -/
  writes : List (Nat × List Byte)
  /-- The access that stops the tile once its verdict has passed (R163). -/
  err : Option RdErr := none
  /-- Lowest failing row, none where every row passes or is void (R84). -/
  failRow : Option Nat
  rowSum : Nat := 0
  checkSum : Nat := 0
  voidRows : Nat := 0
  pair : Nat := 0
  kblocks : Nat := 0
  tag : Nat := 0
  tokens : Nat := 0
  fsBlocks : Nat := 0
  fsClamps : Nat := 0
  maskRows : Nat := 0
  amax : Nat := 0
deriving DecidableEq, Repr

/-- A word that a NEST emits (R133). -/
inductive EWord where
  | bind (tag desc m n : Nat)
  | load (desc target bank blkK blkMN : Nat)
  | sweep (pair bank : Nat) (init last : Bool) (kBlock tag : Nat)
  | boundary (no : Nat)
  /-- The strand stops here once the problems before have completed: a list entry failed (R145). -/
  | stop (e : RdErr)
deriving DecidableEq, Repr

/-- An emitted word with what the NEST knows of it. -/
structure Emit where
  word : EWord
  ctx : NestCtx
  zeroFed : Bool := false
  /-- M block, N block and the runs emitted once this word is, for the registers of R151. -/
  m : Nat := 0
  n : Nat := 0
  runs : Nat := 0
  /-- The run ends through `SPILL_OUT`. -/
  spill : Bool := false
deriving DecidableEq, Repr

/-- A loop-nest descriptor (R131). -/
structure NestDesc where
  level : Nat
  order : Nat
  batch : Nat
  bankStart : Nat
  inner : Nat
  aDesc : Nat
  bDesc : Nat
  outDesc : Nat
  spillOut : Nat
  spillIn : Nat
  tagBase : Nat
  mExt : Nat
  nExt : Nat
  kExt : Nat
  mOrg : Nat
  nOrg : Nat
  kOrg : Nat
  bndEvery : Nat
  batchCount : Nat
  batchList : Nat
  foldBlk : Nat
  foldStride : Nat
  bndNoBase : Nat
deriving DecidableEq, Repr

/-- What a list entry, read one ahead of use, puts in force for its problem, or why it stops the strand (R144, R145). -/
inductive Entry where
  | ok (x : NestCtx)
  | bad (e : RdErr)
deriving DecidableEq, Repr

/-- A NEST that is expanding: what it captured at issue, and how far it has come (R133, R135, R144). -/
structure NestPlan where
  /-- Its loop-nest descriptors, outermost first. -/
  chain : List (List Byte)
  lens : List Nat
  pair : Nat
  /-- Runs that emit nothing (R136). -/
  resume : Nat
  runs : Nat := 0
  bank : Nat := 0
  /-- The next problem, and its entry, which has been read. -/
  next : Nat := 0
  entry : Option Entry := none
deriving DecidableEq, Repr

/-- One row of a row-statistics set (R119). -/
structure RsRow where
  sum : Acc44 := 0#44
  ln : Nat := 0
  range : Bool := false
  sat : Bool := false
  terms : Nat := 0
deriving DecidableEq, Repr

/-- A strand of a Chamber; its registers are in the register file. -/
structure Strand where
  prog : Nat := 0
  words : Nat := 0
  descBase : Nat := 0
  descCount : Nat := 0
  ctrBase : Nat := 0
  ctrCount : Nat := 0
  stageId : Nat := 0
  job : Nat := 0
  binds : List Bound := []
  runs : List Run := []
  emit : List Emit := []
  nest : Option NestPlan := none
  feedA : List Tile := []
  feedB : List Tile := []
  /-- Descriptor index, descriptor, `ROW4` and `BLK_N` of the most recent VLOAD (R119). -/
  vload : Option (Nat × List Byte × Nat × Nat) := none
  amax : Nat := 0
  ended : Bool := false
  lastIssue : Nat := 0
  waitAddr : Nat := 0
  waitTarget : Nat := 0
  waitSince : Nat := 0
  timedOut : Bool := false
  /-- Stopped by an error until it is aborted and started again. -/
  stopped : Bool := false
  /-- The STAGE_RUN that the strand serves. -/
  cmd : Option Cmd := none
  /-- The last boundary: index, lengths, whether the row statistics were saved, and BINDs (R104, R334). -/
  boundary : Option (Nat × List Nat × Bool × List Bound) := none
  gmask : Option (List Byte) := none
  rs : List RsRow := List.replicate 128 {}
  /-- A row's `RANGE` was set since `GO` (R122, R258). -/
  ranged : Bool := false
deriving DecidableEq, Repr

/-- A bank of the coefficient tables (R114): the image in it, by its kind, its CRC and its bytes. -/
structure SfBank where
  kind : Nat := 0
  crc : Nat := 0
  body : List Byte := []
  /-- A word of the bank reads with an uncorrectable error (R117; log 112). -/
  bad : Bool := false
deriving DecidableEq, Repr

/-- A step in the driver stage or the Cell operand registers: its feed words, check values, number and bank (R71). -/
structure StageWord where
  a : List Nat
  b : List Nat
  check : Nat × Nat × Bool
  step : Nat
  bank : Nat
deriving DecidableEq, Repr

/-- The last two steps of a SWEEP that has run: its bank before each, and the two steps. A poisoned first or second word of the
SWEEP behind it keeps them from running (R72). -/
structure SweepTail where
  bank : Nat
  before126 : BankData
  before127 : BankData
  w126 : StageWord
  w127 : StageWord
deriving DecidableEq, Repr

/-- A Chamber beside its registers (04). -/
structure Chamber where
  banks : Tbl BankData := []
  vregs : Tbl (List Acc44) := []
  strands : Tbl Strand := []
  store : List StoreTile := []
  boundaryPos : Nat := 0
  /-- The job whose work the Chamber's flags gather (R62). -/
  job : Nat := 0
  /-- `LAST_FAULT_TS` as the last fault of class 0x01 found it (R338). -/
  prevFault : Nat := 0
  issues : Nat := 0
  /-- The strand that issued last (R100). -/
  lastStrand : Option Nat := none
  sf0 : Option SfBank := none
  sf1 : Option SfBank := none
  /-- The two register stages between the feed queues and the Cells, while they hold a step (R71). -/
  driver : Option StageWord := none
  operand : Option StageWord := none
  tail : Option SweepTail := none
  /-- Pocket ranges of the B tiles whose check values stand beside them (R79). -/
  formed : List Span := []
  /-- The decoded-block cache: addresses and encoded bytes of its blocks, latest first (R200; log 115). -/
  decoded : List (Nat × List Byte) := []
deriving DecidableEq, Repr

/-- An event going up the control tree (R20): the raising unit, what it is, and its data. -/
structure Event where
  /-- Class of the unit: 0 Chamber, 1 Gallery, 2 die, 3 stack, 4 port, 5 module. -/
  cls : Nat
  unit : Nat
  kind : Nat
  ts : Nat
  info : List Nat
deriving DecidableEq, Repr

end Sys2Proof.Machine
end

