-- ==== Sys2Proof/Machine/ModTypes.lean ====
section
/-!
DEFINITION. The records that the state is made of outside the Chambers: queues, outstanding commands, jobs, tensors,
collectives, ports, transfers, flows, recovery, power, non-volatile memory and the management interfaces.
-/
namespace Sys2Proof.Machine

/-- The states of a queue (R247). -/
inductive QState where
  | absent | active | draining | error
deriving DecidableEq, Repr

/-- A reply that waits for its status entry (R248, R257). -/
structure Reply where
  queue : Nat
  seq : Nat
  flags : Nat
  status : Nat
  detail : Nat
  numFlags : Nat
  acceptTs : Nat
  startTs : Nat
  doneTs : Nat
  profile : Nat
  result : Nat
  notify : Bool
deriving DecidableEq, Repr

/-- A queue pair (R245 to R248, R260). -/
structure Queue where
  state : QState := .absent
  priority : Nat := 0
  format : Nat := 3
  sqLog2 : Nat := 6
  stqLog2 : Nat := 6
  msix : Nat := 0
  sqBase : Nat := 0
  stqBase : Nat := 0
  coalesceCount : Nat := 0
  coalesceUs : Nat := 0
  /-- Firmware interface of the queue (R260, R263). -/
  fwIf : Nat := 1
  head : Nat := 0
  tail : Nat := 0
  /-- Status entries written and consumed, counted since the queue became ACTIVE. -/
  stTail : Nat := 0
  stHead : Nat := 0
  nextSeq : Nat := 0
  replies : List Reply := []
  /-- Once 256 replies wait, those of them that are still to be written before the module fetches again (R248). -/
  owed : Nat := 0
  /-- Entries written since the last interrupt, for the coalescing counts (R258). -/
  unsignalled : Nat := 0
  /-- Time of the first of them. -/
  unsignalledSince : Nat := 0
  /-- Commands that CANCEL named before they were fetched (R256, case 3), with the CANCEL's `CMD_SEQ`. -/
  cancelled : List (Nat × Nat) := []
  /-- The QUEUE_DELETE that waits for ABSENT. -/
  deleting : Option Cmd := none
  /-- AQ_RESET, FLR or a module reset: complete silently (R406, R409). -/
  silent : Bool := false
deriving DecidableEq, Repr

/-- A dependency entry (R251). -/
structure Dep where
  kind : Nat
  queue : Nat
  seq : Nat
  addr : Nat
  target : Nat
deriving DecidableEq, Repr

/-- How far an outstanding command has come. -/
inductive Phase where
  | fetched | started | held
deriving DecidableEq, Repr

/-- A fetched command that is not complete (R249 to R256). -/
structure Outstanding where
  cmd : Cmd
  opcode : Nat
  flags : Nat := 0
  jobId : Nat := 0
  issueTs : Nat := 0
  timeoutUs : Nat := 0
  deps : List Dep := []
  paramOff : Nat := 32
  params : List Byte := []
  acceptTs : Nat := 0
  startTs : Nat := 0
  phase : Phase := .fetched
  /-- Interrupted by a fault and recovered (R258). -/
  recovered : Bool := false
  /-- Its fetch or its start was stamped before time convergence (R258). -/
  unsync : Bool := false
  /-- What a held command still needs: bytes that its opcode defines in this model. -/
  held : List Byte := []
deriving DecidableEq, Repr

/-- The outcome table's entry of a completed command (R253). -/
structure OutcomeRec where
  cmd : Cmd
  status : Nat
deriving DecidableEq, Repr

/-- A job (R264, R265, R293, R299). -/
structure Job where
  id : Nat
  major : Nat := 3
  minor : Nat := 0
  numerics : Nat := 0
  collOrder : Nat := 0
  sfMode : Nat := 0
  generator : Nat := 0
  tag : Nat := 0
  seed : Nat := 0
  format : Nat := 3
  fwIf : Nat := 1
  mapCrc : Nat := 0
  nx : Nat := 0
  ny : Nat := 0
  nz : Nat := 0
  ranks : List Nat := []
  rank : Nat := 0
  pool : Nat := 0
  poolFree : Nat := 0
  /-- `CLAIM_MAX_SEGS` at its admission (R312). -/
  claimMax : Nat := 0x100
  nextColl : Nat := 0
  ended : Bool := false
  /-- CONTEXT_SAVE has stopped the fetching of its commands (R353). -/
  saving : Bool := false
  /-- Smallest loss record stored: TS, DETECT_RANK, lost rank, restart step (R351). -/
  loss : Option (Nat × Nat × Nat × Nat) := none
  /-- Its commands have completed for it. -/
  lost : Bool := false
  /-- Step at which it restarts a job that has lost a member (R352), and, of such a job, that it has been admitted again. -/
  restart : Option Nat := none
  restarted : Bool := false
deriving DecidableEq, Repr

/-- A JOB_ADMIT that waits for member records (R265). -/
structure Pending where
  cmd : Cmd
  p : JobParams
  mapCrc : Nat
  nx : Nat
  ny : Nat
  nz : Nat
  ranks : List Nat
  /-- Records held: module address and the 64 bytes. -/
  records : List (Nat × List Byte)
deriving DecidableEq, Repr

/-- A tensor bound by TENSOR_CREATE (R260). -/
structure Tensor where
  job : Nat
  p : TensorParams
  scale : Nat
  /-- amax values recorded, oldest first (R51). -/
  hist : List Nat := []
  /-- Scale of the saved copy (R174). -/
  saveScale : Nat := 0x3F800000
  /-- An OPT_STEP writes it and its last mirror commit has succeeded (R350). -/
  mirrored : Bool := false
deriving DecidableEq, Repr

/-- A stage's last forward product as firmware plans it: extents in blocks, bytes of an A and of a B tile, the format of the weights
and whether every slice shares them, problems of each of its lists, their list and stride, and whether a stage before it feeds it and
a save program follows it. -/
structure StageOp where
  m : Nat
  n : Nat
  k : Nat
  a : Nat
  b : Nat
  fmt : Nat
  shared : Bool
  counts : List Nat
  list : Nat
  stride : Option Nat
  fed : Bool
  saves : Bool
deriving DecidableEq, Repr

/-- A stage group (R148, R149, R179, R180), with what firmware keeps of its stage between commands. -/
structure StageGroup where
  job : Nat
  stageId : Nat
  layout : Nat
  stale : Nat
  chambers : List Nat
  /-- A STAGE_BIND has named it; else firmware has placed it (R150). -/
  bound : Bool := true
  /-- Bytes of each Pocket that its stationary weights take, with their check values and staging (R149). -/
  slice : Nat := 0
  /-- Chunks of activations and of gradients taken so far, and optimizer steps (R150, R179, R180). -/
  chunks : Nat := 0
  grads : Nat := 0
  steps : Nat := 0
  /-- Tensors that its forward products read as weights, and that its weight-gradient products write. -/
  weights : List Nat := []
  dws : List Nat := []
  /-- Copies of its weights from before the optimizer's last step: address and bytes (R180). -/
  copies : List (Nat × List Byte) := []
  /-- Layers of its striped map so far, and by rank the tiles of the halo above and below that have been published to it, the first
  layer's among them (R193, R194). -/
  layers : Nat := 0
  halos : List (Nat × Nat) := []
  op : Option StageOp := none
deriving DecidableEq, Repr

/-- What a ready counter of a firmware program counts (R142, R150, R179, R180, R193 to R195). Those of a side belong to the stripe
that reads the halo. -/
inductive PlanCtr where
  | chunks | grads | saved | optimizer | weightGrads | outTiles
  | segment (j : Nat)
  | interior | border
  | halo (above : Bool)
  | consumed (above : Bool)
deriving DecidableEq, Repr

/-- Where a bank run of a firmware program goes. -/
inductive PlanOut where
  | output | spill | scratch | ring
deriving DecidableEq, Repr

/-- A word of a program that Oxran firmware builds for a strand. A SWEEP stands for itself and its two LOADs. -/
inductive PlanWord where
  | wait (c : PlanCtr) (target : Nat)
  | signal (c : PlanCtr) (increment : Nat)
  | nest (chain : List NestDesc)
  | bind (out : PlanOut) (m n : Nat)
  | refill (bank m n : Nat)
  /-- Of product 0, or 1 for the second one that a strand interleaves. -/
  | sweep (product bank k : Nat) (init last zeroFed : Bool)
  | boundary (no : Nat)
  /-- RS_CLEAR, RS_FINISH, RS_OUT, RS_IN and RS_ACC of the record of segment `j`. -/
  | rsClear | rsFinish | rsOut (j : Nat) | rsIn | rsAcc (j : Nat)
  /-- VLOAD of row group g of partial `j` into V1 or V2, VOP ADD V1 ← V1 + V2, VSTORE of V1 (R142). -/
  | vload (j g : Nat)
  | vadd
  | vstore (g : Nat)
  /-- The vector words of an element program over 512 elements: MAP, the optimizer into its scratch region and out of it (R337), the
  save program (R175). -/
  | map (n : Nat)
  | optimize (n : Nat)
  | writeBack (n : Nat)
  | save (n : Nat)
  /-- COPY of the rows of tile m that the neighbour reads into the region of a parity of its halo buffer (R194, R195). -/
  | copyHalo (toAbove : Bool) (parity m : Nat)
  | fin
deriving DecidableEq, Repr

/-- A bank run of one of a strand's two products: blocks m and n, K blocks k0 to k1 − 1 (R178). -/
structure PlanRun where
  product : Nat
  m : Nat
  n : Nat
  k0 : Nat
  k1 : Nat
  init : Bool
  last : Bool
deriving DecidableEq, Repr

/-- The program that firmware built last for a strand of a Chamber. -/
structure StrandPlan where
  job : Nat
  stageId : Nat
  chamber : Nat
  strand : Nat
  priority : Nat
  words : List PlanWord
  /-- A backward strand's runs of its two products, which it alternates (R178). -/
  runs0 : List PlanRun := []
  runs1 : List PlanRun := []
deriving DecidableEq, Repr

/-- A rectangle of a progress entry: its rows and columns, first and end, `K_DONE`, and the spill words of its partial,
row-major (R353). -/
structure Rect where
  r0 : Nat
  r1 : Nat
  c0 : Nat
  c1 : Nat
  kDone : Nat
  partials : List Nat
deriving DecidableEq, Repr

/-- A progress entry that CONTEXT_RESTORE holds (R354). -/
structure Progress where
  job : Nat
  opcode : Nat
  paramCrc : Nat
  rects : List Rect
deriving DecidableEq, Repr

/-- A context that this module has written, with what its tensors hold beside it: the tensors in place (R353). -/
structure SavedContext where
  addr : Nat
  /-- Firmware chose its place. -/
  own : Bool
  tensors : List Tensor
deriving DecidableEq, Repr

/-- A piece that waits for a credit of its receiver (R305). -/
structure OutPiece where
  step : Nat
  chunk : Nat
  index : Nat
  offset : Nat
  bytes : List Byte
  /-- Taken over from the ring predecessor, who gets a credit once it is sent. -/
  relay : Bool
deriving DecidableEq, Repr

/-- The state of a collective on this member (R299 to R309). -/
structure Coll where
  job : Nat
  seq : Nat
  /-- None while only its ABORT has come (R308), and once its command has completed. -/
  cmd : Option Cmd := none
  /-- The command has been received (R299). -/
  arrived : Bool := false
  opcode : Nat := 0x60
  p : CollParams := { collSeq := 0, src := 0, dst := 0, dims := 0, reduce := 0, rnd := 0, root := 0, stream := 0 }
  /-- In the claim queue since (R302). -/
  queuedTs : Nat := 0
  granted : Nat := 0
  /-- (rank, segments) of the CLAIMs held (R303). -/
  claims : List (Nat × Nat) := []
  /-- Passes begun, and passes whose last element has come. -/
  begun : Nat := 0
  ended : Nat := 0
  /-- Pieces that the successor takes, by step. -/
  credits : List (Nat × Nat) := []
  /-- Packets written (R305): step, chunk, offset, elements. -/
  seen : List (Nat × Nat × Nat × Nat) := []
  /-- Values of the pieces that are coming in, as carry or `DST` codes: step, chunk, offset, code. -/
  parts : List (Nat × Nat × Nat × Nat) := []
  /-- Complete results of reduce passes: pass, element, ACC44 code. -/
  vals : Tbl (Tbl (Option Nat)) := []
  out : List OutPiece := []
  dones : Nat := 0
  lastTs : Nat := 0
  flags : Nat := 0
  amax : Nat := 0
  stopped : Bool := false
  /-- The smallest abort record seen (R308). -/
  record : Option (List Byte) := none
  /-- Index of the record in the ring, once it is stored. -/
  stored : Option Nat := none
deriving DecidableEq, Repr

/-- A flit in a port's retry buffer (R274). -/
structure Retry where
  seq : Nat
  payload : List Byte
  sends : Nat
deriving DecidableEq, Repr

/-- A fabric port beside its registers (R268 to R284). -/
structure Port where
  caps : Option CapsRecord := none
  sentCaps : Bool := false
  /-- Trial rate, and the protocol settled in the first CAPS state. -/
  trial : Nat := 1
  settled : Option Nat := none
  stateSince : Nat := 0
  /-- Failed or refused until `RETRAIN` (R269, R275). -/
  blocked : Bool := false
  txSeq : Nat := 0
  rxSeq : Nat := 0
  retry : List Retry := []
  /-- When `ACK_SEQ` last advanced, or the first flit since went out (R275). -/
  ackAt : Nat := 0
  /-- Flits of each virtual channel that the partner's buffer holds (R277). -/
  used : List Nat := [0, 0, 0, 0, 0, 0, 0, 0]
  /-- Packets waiting to leave, with their virtual channel in the header. -/
  queue : List Packet := []
  /-- Packets with a flit that is not acknowledged, and the `SEQ` of their last flit (R276). -/
  sent : List (Packet × Nat) := []
  /-- The partner's first flit sent in ACTIVE has arrived (R272). -/
  heard : Bool := false
  history : Bool := false
  lastTimeTx : Nat := 0
  lastTimeRx : Nat := 0
  lastTimeRxFine : Nat := 0
  lastPartnerTx : Nat := 0
  partnerHops : Nat := 255
  partnerRoot : Nat := 0
  partnerState : Nat := 0
  good : Nat := 0
  /-- Interfaces held by priority flow control. -/
  paused : List Nat := []
  /-- Interface entries of the edge table as last read (R287). -/
  ifaces : List (List Byte) := []
  /-- Sum of the partner's buffer occupancy over the present 64 µs (R292). -/
  occSum : Nat := 0
deriving DecidableEq, Repr

/-- A segment that is being received (R280). -/
structure Segment where
  src : Nat
  xferId : Nat
  total : Nat
  got : List Nat
  complete : Bool := false
  doneTs : Nat := 0
deriving DecidableEq, Repr

/-- A transfer that this module sends (R279). -/
structure Xfer where
  cmd : Cmd
  p : XferParams
  /-- Segments: id, offset, length, state 0 waiting, 1 sent, 2 done, 3 to resend. -/
  segs : List (Nat × Nat × Nat × Nat)
  /-- Partition tag of a transfer that is firmware's own (R352). -/
  tag : Option Nat := none
  /-- Segments to resend and when their NACKs came (R280). -/
  nacked : List (Nat × Nat) := []
deriving DecidableEq, Repr

/-- A flow of an edge port (R287 to R289). -/
structure Flow where
  port : Nat
  id : Nat
  dir : Nat
  iface : Nat
  remote : Nat
  remotePort : Nat
  window : Nat
  winBase : Nat
  winSize : Nat
  ctrAddr : Nat
  increment : Nat
  failed : Bool := false
  /-- Egress: next PSN, transfers begun, and the transfer that is sent: command, source, first offset, length. -/
  nextPsn : Nat := 0
  xferId : Nat := 0
  sending : Option (Cmd × Nat × Nat × Nat) := none
  /-- Packets of that transfer sent so far. -/
  sentPkts : Nat := 0
  /-- Not acknowledged: PSN, packet of the transfer, transmissions, time of the last one. -/
  unacked : List (Nat × Nat × Nat × Nat) := []
  /-- Ingest: next PSN expected in order, PSNs received beyond it, and those that carry `LAST`. -/
  ackPsn : Nat := 0
  got : List Nat := []
  lasts : List Nat := []
  /-- New packets since the last ACK, and when the first of them came. -/
  sinceAck : Nat := 0
  firstNew : Nat := 0
  /-- A packet of a transfer has come and its `LAST` has not been passed. -/
  inTransfer : Bool := false
deriving DecidableEq, Repr

/-- A log entry (R326). -/
structure LogEntry where
  ts : Nat
  origin : Nat
  kind : Nat
  seq : Nat
  lflags : Nat
  payload : List Byte
  read : Bool := false
deriving DecidableEq, Repr

/-- A log ring: its entries, oldest first, and what it lost (R327, R328). -/
structure LogRing where
  entries : List LogEntry := []
  lost : Nat := 0
  lostOld : Nat := 0
  lostNew : Nat := 0
deriving DecidableEq, Repr

/-- A recovery that has not resumed (R332, R347). -/
structure Recovery where
  cls : Nat
  unit : Nat
  stopTs : Nat
  /-- Memory data: the strands that the read has stopped, and whether their replay has been tried (R342). -/
  strands : List (Nat × Nat) := []
  tried : Bool := false
deriving DecidableEq, Repr

/-- A probe that is out (R351). -/
structure Probe where
  job : Nat
  rank : Nat
  sentTs : Nat
deriving DecidableEq, Repr

/-- A line write that waits in the non-volatile memory's queue (R381). -/
structure NvWrite where
  prio : Nat
  line : Nat
  bytes : List Byte
  tries : Nat
  /-- What completes when the line is in force. -/
  tag : Nat
deriving DecidableEq, Repr

/-- What leaves the module (log 3): where it goes and its content. -/
inductive Msg where
  | msix (vector : Nat)
  | flit (port : Nat) (payload : List Byte)
  | caps (port : Nat) (r : CapsRecord)
  | time (port : Nat) (f : TimeFlit)
  | nak (port : Nat) (ack : Nat)
  | packet (port : Nat) (k : Packet)
  /-- `TYPE` 1 DATA, 2 ACK, 3 RESET. -/
  | transport (port type : Nat) (k : TransportPacket)
  | frame (port iface : Nat) (body : List Byte)
  | pmbus (bytes : List Byte)
  | jtag (bits : Nat) (value : Nat)
deriving DecidableEq, Repr

/-- Rails and transitions of the power system (17). -/
structure Power where
  /-- The front stage converts (R359, R375). -/
  on : Bool := false
  tripped : Bool := false
  /-- A transition under way: its target state 1 Parked, 2 Ready, 3 Running, and the command that waits. -/
  moving : Option (Nat × Option Cmd) := none
  queuedPower : List (Nat × Cmd) := []
  /-- POWER_STATE Ready has been taken while strands run: no new work (R363). -/
  hold : Bool := false
  /-- Runs of the cap loop in a row with the input more than 200 W below the cap (R367). -/
  lowRuns : Nat := 0
  /-- Duty of the holds as an exact fraction, and the Galleries that the present hold stops (R367). -/
  duty : Nat × Nat := (0, 1)
  dutyHeld : List Nat := []
  capCmds : List Cmd := []
  /-- Sum of the input power and number of cap-loop runs in the present 1 ms window (R366). -/
  winSum : Nat := 0
  winRuns : Nat := 0
  /-- Input energy below 1 mJ, in 10^-7 mJ (R377). -/
  energyFrac : Nat := 0
  /-- The last module time at which a strand was outside EMPTY, DONE and REFUSED (R363). -/
  busyAt : Nat := 0
deriving DecidableEq, Repr

/-- A Gallery's voltage and steps beside its registers (R365, R370 to R374). -/
structure GalleryPower where
  mv : Nat := 575
  /-- Requests of the steward by reason: predictor before convergence, stack prediction, stack lowest point, die
  prediction, die lowest point, temperature difference. -/
  reqPred : Nat := 6
  reqStack : Nat := 0
  reqStackLow : Nat := 0
  reqDie : Nat := 0
  reqDieLow : Nat := 0
  reqAdj : Nat := 0
  holdStack : Bool := false
  holdDie : Bool := false
  holdSince : Nat := 0
  /-- The hold has been recovered as a Gallery fault (R341). -/
  holdRecovered : Bool := false
  /-- The temperature difference to a neighbour has passed 30 °C and is not back at 25 °C (R372). -/
  adjRaising : Bool := false
  adjSince : Nat := 0
  /-- Half microseconds limited by the keeper that the counter does not show yet (R371). -/
  adjHalf : Nat := 0
  /-- Part of a Chamber clock that has passed, in 1/40 of a clock (R364). -/
  clockPart : Nat := 0
  /-- Ticks at 2× refresh that do not make a microsecond yet (R242). -/
  refreshPart : Nat := 0
deriving DecidableEq, Repr

/-- The Gallery memory's and stack's state beside the registers (11). -/
structure GalleryMem where
  /-- Counter watches: counter address, target, Chamber, strand (R235). -/
  watches : List (Nat × Nat × Nat × Nat) := []
  /-- Blocks still to refetch (R343). -/
  refetch : List Nat := []
  /-- Corrected reads: row segment, block of the address that was read, time (R238). -/
  corrected : List (Nat × Nat × Nat) := []
  /-- Uncorrectable reads of the last millisecond: channel, row as its block, time (R330). -/
  uncorrected : List (Nat × Nat × Nat) := []
  /-- Times of the Gallery's Chamber faults, latest first (R330). -/
  chamberFaults : List Nat := []
deriving DecidableEq, Repr

/-- A line of a Gallery cache: its number, that is its address / 256, and the valid bits of its eight sectors (R231). -/
structure CacheLine where
  line : Nat
  sectors : Nat
deriving DecidableEq, Repr

/-- A Gallery cache: its lines, latest used first. After a compute command what it holds is a free value (log 118). -/
structure GalleryCache where
  lines : List CacheLine := []
  unknown : Bool := false
deriving DecidableEq, Repr

/-- A stack's sharer filter: lines, oldest first, each with the Galleries that have filled it (R232; log 118). -/
structure SharerFilter where
  entries : List (Nat × List Nat) := []
  unknown : Bool := false
deriving DecidableEq, Repr

/-- Lines that the narrowing of a stack has lost (R240, R343): the failed channel, the blocks whose lost lines stand in the poison
marks by now, and the blocks whose bit in the refetch bitmap has been cleared. -/
structure LostLines where
  channel : Nat
  known : List Nat := []
  fetched : List Nat := []
deriving DecidableEq, Repr

/-- The instructions of the test access port (R417). -/
inductive JtagInstr where
  | bypass | idcode | samplePreload | extest | svlStatus | svlImgLoad | svlImgCommit | svlKeyProv
deriving DecidableEq, Repr

/-- The test access port (R417). -/
structure Jtag where
  instr : JtagInstr := .idcode
  extestHold : Bool := false
  staging : List Byte := []
deriving DecidableEq, Repr

/-- The PCI Express function beside BAR0 (R400 to R409). -/
structure Pcie where
  trained : Bool := false
  perst : Bool := true
  busMaster : Bool := false
  readyAt : Nat := 0
  /-- Lower halves written and waiting for their upper halves (R404): field offset and value. -/
  lower : List (Nat × Nat) := []
  /-- Pending vectors of the MSI-X PBA. -/
  pba : List Nat := []
deriving DecidableEq, Repr

/-- The SMBus and PMBus interface (R413, R414). -/
structure Smbus where
  address : Nat := 0x4C
  mgtAddr : Nat := 0
  cml : Bool := false
  /-- The upper half of a 64-bit register that a read has latched, by its place (R83, R415). -/
  latched : Option (Nat × Nat) := none
deriving DecidableEq, Repr

/-- The key engine (R391 to R393). -/
structure Keys where
  tree : Option Nat := none
  nextTree : Option Nat := none
  /-- ATTEST commands that wait to be signed: nonce and host address. -/
  waiting : List (Cmd × Nat × Nat) := []
  /-- The one whose key-state record is being written. -/
  signing : Option (Cmd × Nat × Nat) := none
  /-- Reports that wait because the function may not master host memory (R401): host address and bytes. -/
  unsent : List (Cmd × Nat × List Byte) := []
deriving DecidableEq, Repr

/-- Firmware and boot beside the registers (18). -/
structure Boot where
  /-- The input has been removed since the last boot (R387). -/
  fresh : Bool := true
  /-- Units that failed a boot test and wait for their error record (R386): fault class and unit. -/
  failed : List (Nat × Nat) := []
  /-- The settings image in force at boot; empty where there is none (R394, R397). -/
  settings : List Byte := []
  /-- A slot, settings or image write under way: the command that waits for it. -/
  fwBusy : Option (Cmd × Nat) := none
  setBusy : Option Cmd := none
deriving DecidableEq, Repr

/-- The mirrors of R350 that this module holds: owner address, slot, committed step. -/
structure Mirror where
  owner : Nat
  slot : Nat
  step : Nat
  /-- The owner's ranges, by its addresses, the history buffer last (R350, R352). -/
  ranges : List (Nat × Nat) := []
deriving DecidableEq, Repr

/-- A thin batch that holds CONTRACTs (R262). -/
structure Batch where
  job : Nat
  key : Nat
  aId : Nat
  members : List (Cmd × ContractParams)
  columns : Nat
deriving DecidableEq, Repr

end Sys2Proof.Machine
end

