-- ==== Sys2Proof/Machine/Table.lean ====
section
/-!
DEFINITION. Reading and writing the sparse tables (`Tbl`) that hold memory, registers and per-unit records. The form
is canonical: keys strictly rising, no entry equal to the default; a write keeps it.
-/
namespace Sys2Proof.Machine

/-- The value at a key, `d` where the key is not listed. -/
def tget {V : Type} (d : V) : Tbl V → Nat → V
  | [], _ => d
  | (k, v) :: t, x => if x = k then v else tget d t x

/-- `t` without the key `x`. -/
def tdel {V : Type} (t : Tbl V) (x : Nat) : Tbl V := t.filter (fun e => !(e.1 == x))

/-- `t` with `v` at `x`; a value equal to the default is not listed. -/
def tset {V : Type} [DecidableEq V] (d : V) : Tbl V → Nat → V → Tbl V
  | [], x, v => if v = d then [] else [(x, v)]
  | (k, w) :: t, x, v =>
    if x < k then if v = d then tdel ((k, w) :: t) x else (x, v) :: (k, w) :: t
    else if x = k then if v = d then tdel t x else (k, v) :: t
    else (k, w) :: tset d t x v

/-- Every key of a table lies above `lo`, keys rise strictly, and no entry is the default. -/
def tabove {V : Type} [DecidableEq V] (d : V) : Option Nat → Tbl V → Bool
  | _, [] => true
  | lo, (k, v) :: t => (match lo with | none => true | some l => decide (l < k)) && decide (v ≠ d) && tabove d (some k) t

/-- The canonical form of a table. -/
def twf {V : Type} [DecidableEq V] (d : V) (t : Tbl V) : Bool := tabove d none t

end Sys2Proof.Machine
end

