-- ==== Sys2Proof/Machine/State.lean ====
section
/-!
DEFINITION. The state of the module as plain data, the reasons a step can stop, and the state at reset. A register of
the register maps is held in `regs` under its field, its unit and its copy; what is not listed holds its reset value.
-/
namespace Sys2Proof.Machine

/-- Faults of the model. No command of the table ends in one: what the spec calls a fault of the hardware is an effect
on the state (R330, R331). -/
inductive Fault where
  /-- Raised by nobody; safe. -/
  | unreachable
deriving DecidableEq, Repr

/-- Refusals of the model. -/
inductive Refusal where
  /-- Raised by an arm of `exec` that has no meaning yet; safe, since the machine stops. -/
  | notModelled (mnemonic : String)
deriving DecidableEq, Repr

/-- The state of one Dammuost D2 module. -/
structure State where
  /-- Registers: field number, then unit, then copy. -/
  regs : Tbl (Tbl (Tbl Nat)) := []
  /-- Module memory by byte address; a byte not listed is 0 (R385). -/
  mem : Tbl Byte := []
  /-- Granules marked as poisoned, by address / 64 (R342). -/
  poison : Tbl Bool := []
  /-- Addresses that read with an error which their memory corrects (R87, R236, R237; log 112). -/
  soft : List Nat := []
  /-- Host memory as far as the function reaches it; a byte not listed is 0 (log 4). -/
  hostMem : Tbl Byte := []
  chambers : Tbl Chamber := []
  gmem : Tbl GalleryMem := []
  gpow : Tbl GalleryPower := []
  /-- Gallery caches, by Gallery, and sharer filters, by stack (R231, R232). -/
  caches : Tbl GalleryCache := []
  sharers : Tbl SharerFilter := []
  /-- Narrowed stacks that have lost lines (R240, R343). -/
  lost : List (Nat × LostLines) := []
  queues : Tbl Queue := []
  /-- Queue that fetched last, by `PRIORITY` (R246). -/
  fetchRR : Tbl Nat := []
  outstanding : List Outstanding := []
  outcomes : List OutcomeRec := []
  jobs : List Job := []
  nextJob : Nat := 1
  admitting : List Pending := []
  /-- JOB_HELLO records received before the module's own JOB_ADMIT (R265). -/
  hellos : List (Nat × List Byte × Nat) := []
  tensors : List Tensor := []
  groups : List StageGroup := []
  /-- Programs that firmware has built for the strands of its stages (R138, R142, R148 to R150, R169, R177 to R180, R192 to R195). -/
  plans : List StrandPlan := []
  batches : List Batch := []
  progress : List Progress := []
  /-- Progress of the commands that a CONTEXT_SAVE has stopped (R353). -/
  halted : List Progress := []
  /-- Contexts that this module has written, latest first. -/
  contexts : List SavedContext := []
  allocs : List (Nat × Nat) := []
  retired : List Nat := []
  withdrawn : List Nat := []
  colls : List Coll := []
  ports : Tbl Port := []
  segments : List Segment := []
  xfers : List Xfer := []
  nextXfer : Nat := 0
  /-- (address, length, source module, source address) of the XFERs into HBM (R342). -/
  xferSources : List (Nat × Nat × Nat × Nat) := []
  flows : List Flow := []
  fine : Nat := 0
  dieOffset : Tbl Int := []
  /-- Consecutive exchanges with the reference at or below one tick (R317). -/
  refGood : Nat := 0
  /-- The reference has been taken at a higher `HOPS` and no exchange with it has followed (R319). -/
  refFar : Bool := false
  slew : Int := 0
  /-- Ticks since the slew last moved the time by a sixteenth of a tick (R316). -/
  slewTicks : Nat := 0
  logs : Tbl LogRing := []
  logSeq : Tbl Nat := []
  events : List Event := []
  recoveries : List Recovery := []
  failedLinks : List (Nat × Nat) := []
  /-- Die-to-die links, by their two dies, and junction slices that their keeper has stopped (R13). -/
  linkHolds : List (Nat × Nat) := []
  junctionHolds : List Nat := []
  probes : List Probe := []
  mirrors : List Mirror := []
  /-- Times at which ports were declared failed, by 8 × module address + port (R344, R351). -/
  portsFailedAt : Tbl Nat := []
  power : Power := {}
  nvMem : Tbl (List Byte) := []
  nvQueue : List NvWrite := []
  boot : Boot := {}
  keys : Keys := {}
  jtag : Jtag := {}
  pcie : Pcie := {}
  smbus : Smbus := {}
  alertLow : Bool := false
  thermTripLow : Bool := false
  mfgOpen : Bool := true
  keyInit : Bool := false
  /-- The model's own: how many free values have been taken (log 2). -/
  fresh : Nat := 0
  /-- The model's own: messages that have left the module, latest first (log 3). -/
  outbox : List Msg := []
  pending : List Instr := []
deriving DecidableEq, Repr

/-- The module after a module reset that follows a power-up: every register at its reset value (R8), memory with
nothing listed, every queue empty. -/
def State.reset : State := {}

end Sys2Proof.Machine
end

