-- ==== Sys2Proof/Machine/Ops.lean ====
section
/-!
DEFINITION. The named operations over registers, memory, Chambers, events, the log and replies. Every meaning goes
through these.
-/
namespace Sys2Proof.Machine

/-- The outcome of a meaning. -/
abbrev Out := Host.Outcome State Fault Refusal

/-! ### Registers -/

/-- The value of copy `i` of a field in a unit. A WO field reads zero (R7). -/
def State.reg (s : State) (f : Field) (u : Nat) (i : Nat := 0) : Nat :=
  tget (resetVal f i) (tget [] (tget [] s.regs f.ctorIdx) u) i

/-- The register file with copy `i` of a field of a unit at `v`, cut to the field's width. -/
def regsPut (t : Tbl (Tbl (Tbl Nat))) (f : Field) (u i v : Nat) : Tbl (Tbl (Tbl Nat)) :=
  let byUnit := tget [] t f.ctorIdx
  tset [] t f.ctorIdx (tset [] byUnit u (tset (resetVal f i) (tget [] byUnit u) i (v % 2 ^ (fieldInfo f).width)))

/-- Sets copy `i` of a field in a unit. -/
def State.setReg (s : State) (f : Field) (u i v : Nat) : State := { s with regs := regsPut s.regs f u i v }

/-- Sets copy 0 of a field. -/
def State.put (s : State) (f : Field) (u v : Nat) : State := s.setReg f u 0 v

/-- Adds to a counter, which wraps at its width. -/
def State.bump (s : State) (f : Field) (u n : Nat) (i : Nat := 0) : State := s.setReg f u i (s.reg f u i + n)

/-- Adds to a counter that saturates at its width. -/
def State.bumpSat (s : State) (f : Field) (u n : Nat) : State :=
  s.put f u (min (s.reg f u + n) (2 ^ (fieldInfo f).width - 1))

/-- Sets a one-bit field. -/
def State.flag (s : State) (f : Field) (u : Nat) : State := s.put f u 1

/-- A strand of any Chamber is outside EMPTY, DONE and REFUSED. -/
def State.strandsBusy (s : State) : Bool :=
  (tget [] s.regs Field.chState.ctorIdx).any (fun u => u.2.any (fun e => !(e.2 == 0 || e.2 == 5 || e.2 == 6)))

/-- Module time (R313). -/
def State.now (s : State) : Nat := s.reg .modTimeNow 0

/-- A free value and the state that has counted it (log 2). -/
def State.takeFree (s : State) : Nat × State := (Config.free s.fresh, { s with fresh := s.fresh + 1 })

/-! ### Words of the register space (R83, R219, R410) -/

/-- Counters of events that no rule fixes: bank retries, waits of feed words, corrected table words, firmware's Drip writes and what
the error correction of a port finds (R86, R128, R172, R234, R243, R292; log 46). -/
def openField (f : Field) : Bool :=
  match f with
  | .chPocketConflict | .chSfTableCorr | .chWalkWait | .glDripWrites | .glBankConflict | .portFecCorr | .portFecUncorr => true
  | _ => false

/-- What a read of the registers depends on: the register file, and the count of free values, which the counters of `openField`
take as an argument. -/
structure RegView where
  regs : Tbl (Tbl (Tbl Nat))
  fresh : Nat

/-- A register of a view. -/
def RegView.reg (v : RegView) (f : Field) (u i : Nat) : Nat := tget (resetVal f i) (tget [] (tget [] v.regs f.ctorIdx) u) i

/-- What copy `i` of a field reads: a counter of `openField` counts from 0 at the start of module time. -/
def RegView.shown (v : RegView) (f : Field) (u i : Nat) : Nat :=
  let now := v.reg .modTimeNow 0 0
  if openField f && now != 0 then Config.openCount now v.fresh f.ctorIdx u i % 2 ^ (fieldInfo f).width else v.reg f u i

/-- What copy `i` of a field contributes to the 32-bit word at an offset of its block. -/
def RegView.fieldWord (v : RegView) (f : Field) (u i off : Nat) : Nat :=
  let x := fieldInfo f
  let at' := x.off + x.stride * i
  if at' = off then v.shown f u i * 2 ^ x.lo % 2 ^ 32
  else if at' + 4 = off then v.shown f u i * 2 ^ x.lo / 2 ^ 32
  else 0

/-- The 32-bit word at an offset of a unit's block. A gap reads zero (R410). -/
def RegView.regWord (v : RegView) (b : Block) (u off : Nat) : Nat :=
  ((List.range 414).map Field.ofNat).foldl (fun w f =>
    let x := fieldInfo f
    if x.block = b && x.off ≤ off then (List.range x.copies).foldl (fun w i => w + v.fieldWord f u i off) w else w) 0

def State.regView (s : State) : RegView := ⟨s.regs, s.fresh⟩
def State.regWord (s : State) (b : Block) (u off : Nat) : Nat := s.regView.regWord b u off

/-- Block, unit and offset of an offset in the register space; none in a gap. -/
def spaceBlock (a : Nat) : Option (Block × Nat × Nat) :=
  let unit := fun (b : Block) (base stride : Nat) => if (a - base) / stride < b.units then some (b, (a - base) / stride, (a - base) % stride) else none
  if a < 0x10000 then some (.mod, 0, a)
  else if a < 0x10100 then some (.fab, 0, a - 0x10000)
  else if a < 0x10700 then some (.port, (a - 0x10100) / 0x100, 0x100 + (a - 0x10100) % 0x100)
  else if a < 0x100000 then none
  else if a < 0x1000000 then unit .die 0x100000 0x10000
  else if a < 0x2000000 then unit .gl 0x1000000 0x10000
  else if a < 0x4000000 then unit .hbm 0x2000000 0x1000
  else unit .ch 0x4000000 0x10000

/-- The 32-bit word at an offset of the register space; a gap reads zero. -/
def RegView.spaceWord (v : RegView) (a : Nat) : Nat :=
  match spaceBlock a with
  | some (b, u, off) => v.regWord b u off
  | none => 0

def State.spaceWord (s : State) (a : Nat) : Nat := s.regView.spaceWord a

/-- `n` bytes of the register space from an offset in it. -/
def RegView.spaceBytes (v : RegView) (a n : Nat) : List Byte :=
  (List.range n).map (fun i => BitVec.ofNat 8 (v.spaceWord ((a + i) / 4 * 4) / 2 ^ (8 * ((a + i) % 4))))

/-! ### The module address map (R219, R220, R229) -/

/-- The kinds of range of the map. -/
inductive Region where
  | hbm | gallery | pocket | sump | registers
deriving DecidableEq, Repr

def hbmWindow : Nat := 0x1000000000
/-- The end of HBM's range (R219). -/
def hbmTop : Nat := 0x020000000000
def galleryBase : Nat := 0x040000000000
def gallerySize : Nat := 0x4000000
def pocketBase : Nat := 0x050000000000
def pocketWindow : Nat := 0x800000
def ownPocketBase : Nat := 0x058000000000
def sumpBase : Nat := 0x060000000000
def registerBase : Nat := 0x070000000000

/-- The range of the map that an address lies in; the own-Pocket window is taken out by `canonAddr` before. -/
def regionOf (a : Nat) : Option Region :=
  if a < 0x020000000000 then some .hbm
  else if galleryBase ≤ a && a < galleryBase + 32 * gallerySize then some .gallery
  else if pocketBase ≤ a && a < pocketBase + 256 * pocketWindow then some .pocket
  else if sumpBase ≤ a && a < sumpBase + 8 * pocketWindow then some .sump
  else if registerBase ≤ a && a < registerBase + 0x100000000 then some .registers
  else none

/-- An address as the Chamber `c` uses it, with its own-Pocket window replaced by its Pocket (R219). -/
def canonAddr (c a : Nat) : Nat :=
  if ownPocketBase ≤ a && a < ownPocketBase + pocketWindow then pocketBase + c * pocketWindow + (a - ownPocketBase)
  else a

/-- Fitted bytes of a stack (R1, R222). -/
def stackFitted : Nat := if Config.order2048 then 0x1000000000 else 0xC00000000

/-- Usable bytes at the bottom of a stack's window: fitted, less 1/32 once narrowed, none once withdrawn (R240, R241). -/
def State.stackBytes (s : State) (k : Nat) : Nat :=
  if s.withdrawn.contains k then 0
  else if s.reg .hbmNarrowed k = 1 then stackFitted - stackFitted / 32 else stackFitted

/-- Scratchpad bytes at the bottom of a Gallery's window (R229). -/
def State.scratchBytes (s : State) (g : Nat) : Nat := gallerySize - s.reg .glCacheSteps g * 0x800000

/-- Whether a byte is mapped (R220). -/
def State.mappedByte (s : State) (a : Nat) : Bool :=
  match regionOf a with
  | some .hbm => decide (a % hbmWindow < s.stackBytes (a / hbmWindow))
  | some .gallery => decide ((a - galleryBase) % gallerySize < s.scratchBytes ((a - galleryBase) / gallerySize))
  | some .pocket => decide ((a - pocketBase) % pocketWindow < 0x600000)
  | some .sump => decide ((a - sumpBase) % pocketWindow < 0x600000)
  | some .registers => true
  | none => false

/-- The unit in which a region's mapped bytes are one run from the bottom. -/
def Region.grain : Region → Nat
  | .hbm => hbmWindow
  | .gallery => gallerySize
  | _ => pocketWindow

/-- Whether every byte of `[a, a + n)` is mapped (R220). -/
def State.mapped (s : State) (a n : Nat) : Bool :=
  if n = 0 then true
  else
    let z := a + n - 1
    match regionOf a with
    | none => false
    | some r =>
      regionOf z == some r &&
        (List.range (z / r.grain - a / r.grain + 1)).all (fun i =>
          let b := (a / r.grain + i) * r.grain
          s.mappedByte (max a b) && s.mappedByte (min z (b + r.grain - 1)))

/-- The Gallery whose steward serves an address: the Gallery, the stack's, the Chamber's or, for the rest, Gallery 0. -/
def galleryOf (a : Nat) : Nat :=
  match regionOf a with
  | some .hbm => a / hbmWindow
  | some .gallery => (a - galleryBase) / gallerySize
  | some .pocket => (a - pocketBase) / pocketWindow / 8
  | some .sump => 4 * ((a - sumpBase) / pocketWindow)
  | _ => 0

/-! ### Units -/

def State.chamber (s : State) (c : Nat) : Chamber := tget {} s.chambers c
def State.setChamber (s : State) (c : Nat) (x : Chamber) : State := { s with chambers := tset {} s.chambers c x }
def State.modChamber (s : State) (c : Nat) (f : Chamber → Chamber) : State := s.setChamber c (f (s.chamber c))
def Chamber.strand (x : Chamber) (i : Nat) : Strand := tget {} x.strands i
def Chamber.setStrand (x : Chamber) (i : Nat) (t : Strand) : Chamber := { x with strands := tset {} x.strands i t }
def Chamber.bank (x : Chamber) (b : Nat) : BankData := tget {} x.banks b
def Chamber.setBank (x : Chamber) (b : Nat) (t : BankData) : Chamber := { x with banks := tset {} x.banks b t }
def State.strand (s : State) (c i : Nat) : Strand := (s.chamber c).strand i
def State.modStrand (s : State) (c i : Nat) (f : Strand → Strand) : State :=
  s.modChamber c (fun x => x.setStrand i (f (x.strand i)))
def State.modBank (s : State) (c b : Nat) (f : BankData → BankData) : State :=
  s.modChamber c (fun x => x.setBank b (f (x.bank b)))

/-- 512 lanes of +0. -/
def zeroLanes : List Acc44 := List.replicate 512 0#44
def Chamber.vreg (x : Chamber) (r : Nat) : List Acc44 := tget zeroLanes x.vregs r
def Chamber.setVreg (x : Chamber) (r : Nat) (v : List Acc44) : Chamber := { x with vregs := tset zeroLanes x.vregs r v }

def State.gallery (s : State) (g : Nat) : GalleryMem := tget {} s.gmem g
def State.modGallery (s : State) (g : Nat) (f : GalleryMem → GalleryMem) : State :=
  { s with gmem := tset {} s.gmem g (f (s.gallery g)) }
def State.cache (s : State) (g : Nat) : GalleryCache := tget {} s.caches g
def State.setCache (s : State) (g : Nat) (x : GalleryCache) : State := { s with caches := tset {} s.caches g x }
def State.sharer (s : State) (k : Nat) : SharerFilter := tget {} s.sharers k
def State.setSharer (s : State) (k : Nat) (x : SharerFilter) : State := { s with sharers := tset {} s.sharers k x }
def State.galPower (s : State) (g : Nat) : GalleryPower := tget {} s.gpow g
def State.modGalPower (s : State) (g : Nat) (f : GalleryPower → GalleryPower) : State :=
  { s with gpow := tset {} s.gpow g (f (s.galPower g)) }
def State.queue (s : State) (q : Nat) : Queue := tget {} s.queues q
def State.modQueue (s : State) (q : Nat) (f : Queue → Queue) : State :=
  { s with queues := tset {} s.queues q (f (s.queue q)) }
def State.port (s : State) (p : Nat) : Port := tget {} s.ports p
def State.modPort (s : State) (p : Nat) (f : Port → Port) : State :=
  { s with ports := tset {} s.ports p (f (s.port p)) }
def State.job? (s : State) (id : Nat) : Option Job := s.jobs.find? (fun j => j.id == id)
def State.modJob (s : State) (id : Nat) (f : Job → Job) : State :=
  { s with jobs := s.jobs.map (fun j => if j.id = id then f j else j) }

/-- STRICT numerics of a job (R25). -/
def State.strict (s : State) (job : Nat) : Bool := match s.job? job with | some j => j.numerics == 1 | none => false

/-- A message leaves the module (log 3). -/
def State.send (s : State) (m : Msg) : State := { s with outbox := m :: s.outbox }

/-! ### Memory -/

/-- One byte of module memory. -/
def State.byte (s : State) (a : Nat) : Byte := tget 0 s.mem a

/-- The bytes of `[a, a + n)`. -/
def memBytes (m : Tbl Byte) (a : Nat) : Nat → List Byte
  | 0 => []
  | n + 1 => tget 0 m a :: memBytes m (a + 1) n

/-- What a read of `[a, a + n)` answers: bytes of memory, or of registers in the register space (R219, R410). -/
def State.bytes (s : State) (a n : Nat) : List Byte :=
  if regionOf a = some .registers then s.regView.spaceBytes (a - registerBase) n else memBytes s.mem a n

/-- A little-endian number of n bytes in module memory. -/
def State.num (s : State) (a n : Nat) : Nat := natLE (s.bytes a n)

/-- A table with a byte string written from `a`. -/
def memPut (m : Tbl Byte) (a : Nat) : List Byte → Tbl Byte
  | [] => m
  | b :: bs => memPut (tset 0 m a b) (a + 1) bs

/-- Marks of granules that a write of `[a, a + n)` covers whole are cleared (R342). -/
def poisonClear (p : Tbl Bool) (a n : Nat) : Tbl Bool :=
  p.filter (fun e => !(decide (a ≤ e.1 * 64) && decide (e.1 * 64 + 64 ≤ a + n)))

/-- The sources of transfers into ranges that a write of `[a, a + n)` does not touch (R342). -/
def sourcesLeft (xs : List (Nat × Nat × Nat × Nat)) (a n : Nat) : List (Nat × Nat × Nat × Nat) :=
  xs.filter (fun x => decide (n = 0) || decide (x.1 + x.2.1 ≤ a) || decide (a + n ≤ x.1))

/-- A write of a byte string: its bytes, the poison marks it covers, and the transfer sources it makes stale. -/
def State.write (s : State) (a : Nat) (bs : List Byte) : State :=
  { s with mem := memPut s.mem a bs, poison := poisonClear s.poison a bs.length
           xferSources := sourcesLeft s.xferSources a bs.length }

/-- Marks the granules of `[a, a + n)` as poisoned. -/
def poisonMark (p : Tbl Bool) (g : Nat) : Nat → Tbl Bool
  | 0 => p
  | n + 1 => poisonMark (tset false p g true) (g + 1) n

def State.markPoison (s : State) (a n : Nat) : State :=
  { s with poison := poisonMark s.poison (a / 64) ((a + n + 63) / 64 - a / 64) }

/-! ### Lines of a stack (R222, R223, R240, R343) -/

/-- The pseudo-channel slot of an HBM address. -/
def slotOf (a : Nat) : Nat := bits a 13 8 ^^^ bits a 21 16

/-- The 256-byte lines of block b that a channel's two pseudo-channels hold. -/
def lostLines (block channel : Nat) : List Nat :=
  (List.range 2).flatMap (fun pc => (List.range 4).map (fun j =>
    65536 * block + 256 * (64 * j + ((2 * channel + pc) ^^^ (block % 64)))))

/-- Where the line of an address of a failed channel lives: the substitute of index i = 8b + j in the withdrawn region (R240). -/
def substitute (channel a : Nat) : Nat :=
  let k := a / hbmWindow * hbmWindow
  let i := 8 * ((a - k) / 65536) + (4 * (slotOf a % 2) + bits a 15 14)
  let t := (k + stackFitted / 65536 * 31 / 32 * 65536 + i / 248 * 65536) / 65536
  let good := (List.range 256).filter (fun l => ((l % 64) ^^^ (t % 64)) / 2 != channel)
  65536 * t + 256 * good.getD (i % 248) 0 + a % 256

/-- The place in its stack that an HBM address reaches. -/
def State.physical (s : State) (a : Nat) : Nat :=
  let k := a / hbmWindow
  if s.reg .hbmNarrowed k = 1 && slotOf a / 2 == s.reg .hbmFailedCh k then substitute (s.reg .hbmFailedCh k) a else a

/-- The line of an address is lost: its stack has been narrowed, and nothing has been known of its block since. -/
def State.lineLost (s : State) (a : Nat) : Bool :=
  s.lost.any (fun x => x.1 == a / hbmWindow && slotOf a / 2 == x.2.channel && !x.2.known.contains (a / 65536))

/-- The lost lines of a block stand in the poison marks from here on. -/
def State.showBlock (s : State) (b : Nat) : State :=
  match s.lost.find? (fun x => x.1 == b / 0x100000 && !x.2.known.contains b) with
  | none => s
  | some x =>
    let s := (lostLines b x.2.channel).foldl (fun s a => s.markPoison a 256) s
    { s with lost := s.lost.map (fun y => if y.1 = x.1 then (y.1, { y.2 with known := b :: y.2.known }) else y) }

/-- The same for the blocks of a range. -/
def State.showLost (s : State) (a n : Nat) : State :=
  if s.lost.isEmpty || n = 0 || hbmTop ≤ a then s
  else (List.range ((a + n - 1) / 65536 - a / 65536 + 1)).foldl (fun s i => s.showBlock (a / 65536 + i)) s

/-- Addresses of the 256-byte lines that a range touches. -/
def linesIn (a n : Nat) : List Nat :=
  if n = 0 then [] else (List.range ((a + n - 1) / 256 - a / 256 + 1)).map (fun i => (a / 256 + i) * 256)

/-- The first granule of `[a, a + n)` that is marked as poisoned or lost, by the address of its first byte in the range (R240, R342). -/
def State.poisonAt (s : State) (a n : Nat) : Option Nat :=
  let marks := (s.poison.filter (fun e => decide (a < e.1 * 64 + 64) && decide (e.1 * 64 < a + n))).map (fun e => max a (e.1 * 64))
  let lost := if s.lost.isEmpty then [] else ((linesIn a n).filter s.lineLost).map (max a)
  (marks ++ lost).foldl (fun m x => match m with | none => some x | some y => some (min x y)) none

/-- True when a granule of `[a, a + n)` is marked as poisoned or lost (R240, R342). -/
def State.poisoned (s : State) (a n : Nat) : Bool :=
  s.poison.any (fun e => decide (a < e.1 * 64 + 64) && decide (e.1 * 64 < a + n)) || (!s.lost.isEmpty && (linesIn a n).any s.lineLost)

/-! ### Requests to a stack, the Gallery caches and the sharer filters (R224, R230 to R232; log 118) -/

/-- The classes of R224. -/
def clsCompute : Nat := 0
def clsLatency : Nat := 1
def clsCollective : Nat := 2
def clsManagement : Nat := 3
def clsTrace : Nat := 4

/-- A stack accepts requests of a class (R224, R243). -/
def State.request (s : State) (k cls n : Nat) : State := s.bump .glClassIssued k n cls

/-- A Gallery cache loses a line. -/
def State.dropLine (s : State) (line g : Nat) : State :=
  let x := s.cache g
  s.setCache g { x with lines := x.lines.filter (fun l => l.line != line) }

/-- A write of a line: every recorded Gallery but the writer's own loses its copy (R232). -/
def State.invalidate (s : State) (who : Option Nat) (line : Nat) : State :=
  let k := line * 256 / hbmWindow
  let f := s.sharer k
  match f.entries.find? (fun e => e.1 == line) with
  | none => s
  | some e =>
    let s := (e.2.filter (fun g => some g != who)).foldl (fun s g => s.dropLine line g) s
    let kept := e.2.filter (fun g => some g == who)
    s.setSharer k { f with entries := if kept.isEmpty then f.entries.filter (fun x => x.1 != line)
                                      else f.entries.map (fun x => if x.1 = line then (line, kept) else x) }

/-- A fill records its Gallery; a full set of 16 loses its oldest entry, whose line every recorded Gallery loses (R232). -/
def State.recordSharer (s : State) (line g : Nat) : State :=
  let k := line * 256 / hbmWindow
  let f := s.sharer k
  if f.unknown then
    let (n, s) := s.takeFree
    s.bump .hbmBackinv k (n % 2)
  else if f.entries.any (fun e => e.1 == line) then
    s.setSharer k { f with entries := f.entries.map (fun e => if e.1 = line then (line, if e.2.contains g then e.2 else g :: e.2) else e) }
  else
    let mates := if f.entries.length < 16 then [] else
      f.entries.filter (fun e => Config.filterSet e.1 % 65536 == Config.filterSet line % 65536)
    match (if mates.length < 16 then none else mates.head?) with
    | none => s.setSharer k { f with entries := f.entries ++ [(line, [g])] }
    | some old =>
      let s := old.2.foldl (fun s g => s.dropLine old.1 g) s
      (s.setSharer k { f with entries := f.entries.filter (fun e => e.1 != old.1) ++ [(line, [g])] }).bump .hbmBackinv k 1

/-- Sets of a Gallery cache: 16 ways of 256 bytes (R229, R231). -/
def State.cacheSets (s : State) (g : Nat) : Nat := s.reg .glCacheSteps g * 2048

/-- A line, or sectors of it, is installed; which line of a full set leaves is a free value (R231). -/
def State.install (s : State) (g line mask : Nat) : State :=
  let x := s.cache g
  match x.lines.find? (fun l => l.line == line) with
  | some l => s.setCache g { x with lines := ⟨line, l.sectors ||| mask⟩ :: x.lines.filter (fun y => y.line != line) }
  | none =>
    let n := s.cacheSets g
    let set := fun (l : Nat) => Config.cacheSet n l % max 1 n
    let mates := if x.lines.length < 16 then [] else x.lines.filter (fun y => set y.line == set line)
    if mates.length < 16 then s.setCache g { x with lines := ⟨line, mask⟩ :: x.lines }
    else
      let (f, s) := s.takeFree
      let out := (mates.getD (f % mates.length) ⟨0, 0⟩).line
      s.setCache g { x with lines := ⟨line, mask⟩ :: x.lines.filter (fun y => y.line != out) }

/-- Sectors of a line are in a Gallery's cache; a free value where a compute command has left its content open. -/
def State.cached (s : State) (g line mask : Nat) : Bool × State :=
  let x := s.cache g
  if s.reg .glCacheSteps g = 0 then (false, s)
  else if x.unknown || (s.sharer (line * 256 / hbmWindow)).unknown then let (f, s) := s.takeFree; (f % 2 == 1, s)
  else (x.lines.any (fun l => l.line == line && l.sectors &&& mask == mask), s)

/-- The 32-byte sectors of a line that `[a, a + n)` touches. -/
def sectorMask (a n line : Nat) : Nat :=
  ((List.range 8).filter (fun i => decide (line + 32 * i < a + n) && decide (a < line + 32 * i + 32))).foldl (fun m i => m + 2 ^ i) 0

/-- How many sectors a mask has. -/
def sectorCount (mask : Nat) : Nat := ((List.range 8).filter (bit mask)).length

/-- A read of sectors of a line of HBM: from the requesting Gallery's cache, else from the stack, which fills the cache with them where
no granule of them is poisoned (R231, R232). Answers whether it was a hit. -/
def State.readLine (s : State) (who : Option Nat) (cls mask a : Nat) : Bool × State :=
  let k := a / hbmWindow
  let fetch := fun (s : State) => (s.request k cls 1).bump .hbmReadBytes k (32 * sectorCount mask)
  match who with
  | none => (false, fetch s)
  | some g =>
    let (hit, s) := s.cached g (a / 256) mask
    if hit then
      let x := s.cache g
      let old := x.lines.filter (fun l => l.line == a / 256)
      (true, (s.bump .glCacheHits g 1).setCache g { x with lines := old ++ x.lines.filter (fun l => l.line != a / 256) })
    else if s.reg .glCacheSteps g = 0 then (false, fetch s)
    else
      let s := fetch ((s.bump .glCacheMisses g 1).recordSharer (a / 256) g)
      (false, if s.poisoned a 256 then s else s.install g (a / 256) mask)

/-- A store to module memory: its bytes, the stack's counters, a partial burst as a read-modify-write, and the copies of its lines in
the caches of Galleries other than the writer's (R224, R231, R232, R244). The register space takes no write of memory (R7, R410). -/
def State.store (s : State) (a : Nat) (bs : List Byte) (who : Option Nat := none) (cls : Nat := clsManagement) : State :=
  match regionOf a with
  | some .registers => s
  | some .hbm =>
    let s := (s.showLost a bs.length).write a bs
    if bs.isEmpty then s
    else
      let k := a / hbmWindow
      let z := a + bs.length
      let first := if a % 32 = 0 && decide (a + 32 ≤ z) then 0 else 1
      let last := if z % 32 = 0 || decide (z / 32 = a / 32) then 0 else 1
      let s := s.bump .hbmWriteBytes k bs.length
      let s := if first + last = 0 then s else s.bump .hbmRmwWrites k (first + last)
      let s := s.request k cls (linesIn a bs.length).length
      if s.sharers.isEmpty then s else (linesIn a bs.length).foldl (fun s l => s.invalidate who (l / 256)) s
  | _ => s.write a bs

/-- Host memory. -/
def State.hostBytes (s : State) (a n : Nat) : List Byte := memBytes s.hostMem a n
def State.hostWrite (s : State) (a : Nat) (bs : List Byte) : State := { s with hostMem := memPut s.hostMem a bs }

/-! ### Origins, the log and events (R20, R321, R326, R327) -/

/-- The die of a fabric port (R11). -/
def portDie (p : Nat) : Nat := [6, 1, 3, 4, 5, 2].getD p 0

/-- An origin of R321: unit class 0 Chamber, 1 steward, 2 keeper, 3 control complex, 4 port, 5 HBM controller, 6 sampler. -/
def State.origin (s : State) (cls idx : Nat) : Nat := s.reg .fabModuleAddr 0 * 2 ^ 14 + cls * 2 ^ 11 + idx

/-- The Gallery whose ring holds an origin's entries (R327). -/
def ringOf (cls idx : Nat) : Nat :=
  match cls with
  | 0 => idx / 8 | 1 => idx | 5 => idx | 6 => idx | 2 => 4 * idx | 4 => 4 * portDie idx | _ => 0

/-- A ring of 16,384 entries with one more entry; the oldest goes when it is full (R327). Answers the entries lost
before a LOG_READ returned them. -/
def LogRing.push (r : LogRing) (e : LogEntry) : LogRing × Nat :=
  if r.entries.length < 16384 then ({ r with entries := r.entries ++ [e] }, 0)
  else
    match r.entries with
    | [] => ({ r with entries := [e] }, 0)
    | o :: rest =>
      if o.read then ({ r with entries := rest ++ [e] }, 0)
      else ({ entries := rest ++ [e], lost := r.lost + 1, lostOld := if r.lost = 0 then o.ts else r.lostOld,
              lostNew := o.ts }, 1)

/-- The latest stamp that an origin has on its ring, once module time is converged (R320, R322). -/
def State.lastStamp (s : State) (g o : Nat) : Nat :=
  if s.reg .modTimeConverged 0 = 0 then 0
  else match (tget {} s.logs g).entries.reverse.find? (fun e => e.origin == o && e.lflags % 2 == 0) with
    | some e => e.ts
    | none => 0

/-- The stamp of a record that a message of time `cause` has caused: no earlier than the tick after it (R324). -/
def State.stamp (s : State) (cause : Option Nat) : Nat := match cause with | some t => max s.now (t + 1) | none => s.now

/-- Writes a log entry of an origin, stamped no earlier than the tick after `cause` where a message caused it (R324), and
never before the origin's last stamp (R322). A class that is not enabled is not written. -/
def State.log (s : State) (cls idx kind : Nat) (payload : List Byte) (cause : Option Nat := none) : State :=
  if !bit (s.reg .modLogClassEn 0) (kind / 256) then s
  else
    let o := s.origin cls idx
    let g := ringOf cls idx
    let ts := max (s.stamp cause) (s.lastStamp g o)
    let seq := tget 0 s.logSeq (cls * 2 ^ 11 + idx)
    let fl := (if s.reg .modTimeConverged 0 = 1 then 0 else 1) + (if ts = s.now then 0 else 2)
    let (ring, lost) := (tget {} s.logs g).push ⟨ts, o, kind, seq, fl, padTo 40 payload, false⟩
    let s := { s with logs := tset {} s.logs g ring
                      logSeq := tset 0 s.logSeq (cls * 2 ^ 11 + idx) ((seq + 1) % 65536) }
    let s := s.bump .modLogEntries 0 1
    if lost = 0 then s else s.bump .modLogLost 0 lost

/-- An event goes up the control tree from its unit (R20). -/
def State.raise (s : State) (cls unit kind : Nat) (info : List Nat := []) : State :=
  { s with events := s.events ++ [⟨cls, unit, kind, s.now, info⟩] }

/-- An MSI-X message on a vector: sent, or pending where it is masked or the function may not master (R401, R408). -/
def State.msix (s : State) (v : Nat) : State :=
  if s.pcie.busMaster && s.reg .pciMsixMask 0 v == 0 then s.send (.msix v)
  else if s.pcie.pba.contains v then s else { s with pcie := { s.pcie with pba := v :: s.pcie.pba } }

/-- Sets a bit of `PCI_EVENT`; an unmasked bit that passes from 0 to 1 sends vector 0 (R408). -/
def State.hostEvent (s : State) (b : Nat) : State :=
  if bit (s.reg .pciEvent 0) b then s
  else
    let masked := bit (s.reg .pciEventMask 0) b
    let s := s.put .pciEvent 0 (s.reg .pciEvent 0 + 2 ^ b)
    if masked then s else s.msix 0

/-- The level of `smbalert_n` from the alert bits (R413). -/
def State.alertPin (s : State) : State :=
  { s with alertLow := (s.reg .mgtAlert 0 &&& (127 - s.reg .mgtAlertMask 0)) != 0 }

/-- Sets a bit of `MGT_ALERT` (R415). -/
def State.alert (s : State) (b : Nat) : State :=
  if bit (s.reg .mgtAlert 0) b then s.alertPin
  else (s.put .mgtAlert 0 (s.reg .mgtAlert 0 + 2 ^ b)).alertPin

/-! ### Holds (R14, R15, R17) -/

/-- Hold bits of an element as a list: own, steward, keeper, complex. -/
def State.holds (s : State) : Elem → List Nat
  | .chamber c => [s.reg .chOwnHold c, s.reg .chStewardHold c, s.reg .chKeeperHold c, s.reg .chComplexHold c]
  | .gallery g => [s.reg .glOwnHold g, 0, s.reg .glKeeperHold g, s.reg .glComplexHold g]
  | .die d => [s.reg .dieOwnHold d, 0, 0, s.reg .dieComplexHold d]
  | .link a b => [0, 0, if s.linkHolds.contains (min a b, max a b) then 1 else 0, 0]
  | .junction d => [0, 0, if s.junctionHolds.contains d then 1 else 0, 0]

/-- An element is held while any of its hold bits is set (R14). -/
def State.held (s : State) (e : Elem) : Bool := (s.holds e).any (· != 0)

/-- A Chamber may run: no hold on it, on its Gallery or on its die, and it is not retired (R14, R16). -/
def State.chamberRuns (s : State) (c : Nat) : Bool :=
  !s.held (.chamber c) && !s.held (.gallery (c / 8)) && !s.held (.die (c / 32)) && s.reg .chRetired c == 0

/-- `STOPPED` and `STOP_COUNT` of an element that has them, and its unit (R17). -/
def stopFields : Elem → Option (Field × Field × Nat)
  | .chamber c => some (.chStopped, .chStopCount, c)
  | .gallery g => some (.glStopped, .glStopCount, g)
  | .die d => some (.dieStopped, .dieStopCount, d)
  | _ => none

/-- A Chamber between two words is at its stop boundary once no drain is under way and no tile waits for its verdict, or once a
fault freeze holds its Facet (R15, R76). -/
def State.chamberAtRest (s : State) (c : Nat) : Bool :=
  s.reg .chFaultFreeze c == 1 ||
    (s.reg .chBank0State c != 2 && s.reg .chBank1State c != 2 && (s.chamber c).store.isEmpty)

/-- An element is at its stop boundary (R15). -/
def State.atRest (s : State) : Elem → Bool
  | .chamber c => s.chamberAtRest c
  | .gallery g => (List.range 8).all (fun i => s.chamberAtRest (8 * g + i))
  | .die d => (List.range 32).all (fun i => s.chamberAtRest (32 * d + i))
  | _ => true

/-- A held element is at its stop boundary: `STOPPED`, and one transition more (R17). -/
def State.reachStop (s : State) (e : Elem) : State :=
  match stopFields e with
  | none => s
  | some (f, n, u) => if !s.held e || s.reg f u = 1 then s else (s.flag f u).bumpSat n u 1

/-- An element on which no hold is left runs (R14, R17). -/
def State.leaveStop (s : State) (e : Elem) : State :=
  match stopFields e with
  | none => s
  | some (f, _, u) => if s.held e then s else s.put f u 0

/-- `STOPPED` of an element that a hold has found at its boundary, or that has reached it since (R15, R17). -/
def State.syncStop (s : State) (e : Elem) : State := if s.atRest e then s.reachStop e else s

/-- The same for a Chamber, its Gallery and its die. -/
def State.syncStops (s : State) (c : Nat) : State :=
  ((s.syncStop (.chamber c)).syncStop (.gallery (c / 8))).syncStop (.die (c / 32))

/-- `OWN_HOLD` of a Chamber, set by its sequencer on a fault it detects (R14, R17). -/
def State.ownHold (s : State) (c : Nat) : State := (s.flag .chOwnHold c).syncStop (.chamber c)

/-! ### Numeric flags (R62) -/

/-- The eight bits of `CH_NUMERIC_FLAGS` by field. -/
def numFlagFields : List Field :=
  [.chOverflowSat, .chUnderflowZero, .chSubnormalIn, .chInfIn, .chNanIn, .chReservedCode, .chAccOverflow, .chNanOut]

/-- Records numeric flags of work of strand `i` of Chamber `c`, in both places (R62). -/
def State.numFlags (s : State) (c i mask : Nat) : State :=
  if mask % 256 = 0 then s
  else
    let s := (List.range 8).foldl (fun s b =>
      if bit mask b then s.put (numFlagFields.getD b .chNanOut) c 1 else s) s
    s.setReg .chStrandNumFlags c i (s.reg .chStrandNumFlags c i ||| (mask % 256))

/-! ### Replies (R252 to R258) -/

/-- The execution profile of a job as a number (R25). -/
def Job.profile (j : Job) : Nat :=
  j.major + j.minor * 2 ^ 8 + j.format * 2 ^ 16 + j.fwIf * 2 ^ 24 + j.sfMode * 2 ^ 32 + j.generator * 2 ^ 36 +
    j.numerics * 2 ^ 40 + j.collOrder * 2 ^ 44 + j.mapCrc * 2 ^ 64 + j.tag * 2 ^ 96

/-- The outstanding entry of a command. A command that the driver places in `pending` without a fetched packet is
taken as a packet with a zero header (log 14). -/
def State.entry (s : State) (h : Cmd) : Outstanding :=
  (s.outstanding.find? (fun o => o.cmd == h)).getD { cmd := h, opcode := 0, acceptTs := s.now, startTs := s.now }

/-- What a command completes with. -/
structure Done where
  status : Nat := 0
  detail : Nat := 0
  result : Nat := 0
  numFlags : Nat := 0
  /-- Bits of `FLAGS` beside `PHASE`, `RECOVERED` and `TS_UNSYNC`: `SMX_RANGE` 4, `SMP_ROW_ERR` 8, `BATCHED` 32. -/
  flags : Nat := 0
  /-- The job whose profile the reply carries, where it is not the header's. -/
  job : Option Nat := none
deriving DecidableEq, Repr

/-- The bytes that a log entry of class 0x00 carries for a command (R326). -/
def cmdPayload (h : Cmd) (status job : Nat) : List Byte :=
  bytesLE 4 h.queue ++ bytesLE 4 h.seq ++ bytesLE 4 status ++ bytesLE 4 job

/-- One reply more waits in a queue; the 256th stops the fetching from it until they have been written (R248). -/
def Queue.addReply (q : Queue) (r : Reply) : Queue :=
  { q with replies := q.replies ++ [r], owed := if q.owed = 0 && q.replies.length + 1 ≥ 256 then 256 else q.owed }

/-- The reply of a command waits for a status entry (R253, R257). With `QUIET` an `OK` writes no entry, and a queue reset
by AQ_RESET, FLR or a module reset writes none (R406, R409). -/
def State.reply (s : State) (o : Outstanding) (d : Done) : State :=
  let h := o.cmd
  let profile := match s.job? (d.job.getD o.jobId) with | some j => j.profile | none => 0
  let unsync := if s.reg .modTimeConverged 0 = 1 && !o.unsync then 0 else 16
  let r : Reply := { queue := h.queue, seq := h.seq, status := d.status, detail := d.detail, numFlags := d.numFlags
                     flags := d.flags + (if o.recovered then 2 else 0) + unsync
                     acceptTs := o.acceptTs, startTs := o.startTs, doneTs := s.now, profile := profile
                     result := d.result, notify := bit o.flags 2 }
  let quiet := bit o.flags 3 && d.status == 0
  let s := s.modQueue h.queue (fun q => if quiet || q.silent then q else q.addReply r)
  s.log 3 0 0x0003 (cmdPayload h d.status (d.job.getD o.jobId))

/-- Completes a command: it is outstanding no more and its outcome is recorded (R253, R257). -/
def State.complete (s : State) (h : Cmd) (d : Done) : State :=
  let o := s.entry h
  let s := { s with outstanding := s.outstanding.filter (fun x => !(x.cmd == h))
                    outcomes := ⟨h, d.status⟩ :: (s.outcomes.filter (fun x => !(x.cmd == h))) }
  s.reply o d

/-- Completes a command with `OK`. -/
def State.ok (s : State) (h : Cmd) (result : Nat := 0) : State := s.complete h { result := result }

/-- Completes a command with a status and a detail. -/
def State.fail (s : State) (h : Cmd) (status detail : Nat) : State := s.complete h { status := status, detail := detail }

/-! Status codes (R259). -/
def stBadFormat : Nat := 0x0101
def stBadSeq : Nat := 0x0102
def stBadLength : Nat := 0x0103
def stReserved : Nat := 0x0104
def stUnknownOpcode : Nat := 0x0105
def stWrongQueue : Nat := 0x0106
def stBadParam : Nat := 0x0107
def stDepFailed : Nat := 0x0201
def stDepRange : Nat := 0x0202
def stDepFuture : Nat := 0x0203
def stCancelled : Nat := 0x0204
def stTimeout : Nat := 0x0205
def stVersionContract : Nat := 0x0301
def stVersionFormat : Nat := 0x0302
def stVersionFwIf : Nat := 0x0303
def stNotInVersion : Nat := 0x0304
def stBadScale : Nat := 0x0305
def stNoJob : Nat := 0x0306
def stProgramRefused : Nat := 0x0307
def stBadBuckets : Nat := 0x0308
def stNoResources : Nat := 0x0309
def stFacetWord : Nat := 0x0401
def stPageError : Nat := 0x0402
def stAddressError : Nat := 0x0403
def stWaitTimeout : Nat := 0x0404
def stGmaskError : Nat := 0x0405
def stGeometryError : Nat := 0x0406
def stIndexRange : Nat := 0x0407
def stSamplerHeader : Nat := 0x0408
def stNoMemory : Nat := 0x0501
def stPoisoned : Nat := 0x0502
def stNotAllocated : Nat := 0x0503
def stCollAbort : Nat := 0x0601
def stCollSeq : Nat := 0x0602
def stState : Nat := 0x0701
def stBusy : Nat := 0x0702
def stKeyUninit : Nat := 0x0703
def stFault : Nat := 0x0801

/-- `DETAIL` of a module-side address error (R220): [15:8] = 0xFF. -/
def addrDetail : Nat := 0xFF00

/-- An access that is not a Chamber's reached an unmapped address (R220): the steward of the window receives it. Which steward
receives an access outside the windows of stacks, Galleries and Chambers is a free value (log 49). -/
def State.unmapped (s : State) (a : Nat) : State :=
  match regionOf a with
  | some .hbm => s.flag .glAddrUnmapped (galleryOf a)
  | some .gallery => s.flag .glAddrUnmapped (galleryOf a)
  | some .pocket => s.flag .glAddrUnmapped (galleryOf a)
  | _ => let (f, s) := s.takeFree; s.flag .glAddrUnmapped (f % 32)

/-! ### Ready counters (R102, R234) -/

/-- A counter add by the owning steward: COUNT and the timestamp in one step; `cause` is the time of the packet that brought
the increment (R324). -/
def State.counterAdd (s : State) (a inc : Nat) (cause : Option Nat := none) : State :=
  let s := s.store a (bytesLE 8 (s.num a 8 + inc) ++ bytesLE 8 (s.stamp cause))
  s.bump .glDripAtomics (galleryOf a % 32) 1

/-- The unit class and index of R321 that detects an uncorrectable read. -/
def uncorrOrigin (a : Nat) : Nat × Nat :=
  match regionOf a with
  | some .hbm => (5, a / hbmWindow)
  | some .gallery => (1, (a - galleryBase) / gallerySize)
  | some .pocket => (0, (a - pocketBase) / pocketWindow)
  | some .sump => (2, (a - sumpBase) / pocketWindow)
  | _ => (3, 0)

/-- 24 hours of module time in ticks. -/
def dayTicks : Nat := 172800000000000

/-- The row segment that an HBM address reaches: its block and its pseudo-channel slot (R222, R223, R240). -/
def State.rowSegment (s : State) (a : Nat) : Nat := s.physical a / 65536 * 64 + slotOf (s.physical a)

/-- A read that its memory corrected: counted where the memory counts it (R87, R236 to R238, R312). -/
def State.corrRead (s : State) (a : Nat) : State :=
  match regionOf a with
  | some .hbm =>
    let k := a / hbmWindow
    (s.bumpSat .hbmCorrCnt k 1).modGallery k (fun x =>
      { x with corrected := (x.corrected.filter (fun e => decide (s.now < e.2.2 + dayTicks))) ++ [(s.rowSegment a, a / 65536, s.now)] })
  | some .gallery => s.bumpSat .glGmCorr ((a - galleryBase) / gallerySize) 1
  | some .pocket => s.bumpSat .chPocketCorr ((a - pocketBase) / pocketWindow) 1
  | some .sump => s.bumpSat .modSumpCorr 0 1
  | _ => s

/-- A read of `n` bytes: what it finds with an error that is corrected is counted and written back correct (R87, R236, R237). -/
def State.noteRead (s : State) (a n : Nat) : State :=
  let hits := s.soft.filter (fun x => decide (a ≤ x) && decide (x < a + n))
  hits.foldl State.corrRead { s with soft := s.soft.filter (fun x => !(decide (a ≤ x) && decide (x < a + n))) }

/-- A read of `n` bytes by a Gallery's units, or by none of them, in a class (R224, R231, R236, R237): over the line path a Gallery reads
whole lines; the Drip path and other units read the sectors that they need. -/
def State.readRange (s : State) (who : Option Nat) (cls : Nat) (drip : Bool) (a n : Nat) : State :=
  let s := if s.soft.isEmpty then s else s.noteRead a n
  if hbmTop ≤ a then s
  else (linesIn a n).foldl (fun s l => (s.readLine who cls (if who.isSome && !drip then 255 else sectorMask a n l) l).2) s

/-- A Drip read of Gallery `g` (R234, R243). Answers whether its sector was in the Gallery's cache. -/
def State.dripRead (s : State) (g a n : Nat) : Bool × State :=
  let s := (if s.soft.isEmpty then s else s.noteRead a n).bump .glDripReads g 1
  if hbmTop ≤ a then (false, s) else s.readLine (some g) clsLatency (sectorMask a n (a / 256 * 256)) (a / 256 * 256)

/-- The event that declares a channel of a stack failed. -/
def evChannel : Nat := 17

/-- An uncorrectable read of a stack at the control of its channel: the third row of one channel within 1 ms declares the channel
failed (R330). -/
def State.channelRead (s : State) (a : Nat) : State :=
  let k := a / hbmWindow
  let x := s.physical a
  let ch := slotOf x / 2
  let seen := (ch, x / 65536, s.now) :: (s.gallery k).uncorrected.filter (fun e => decide (s.now ≤ e.2.2 + 2000000))
  let s := s.modGallery k (fun g => { g with uncorrected := seen })
  if 3 ≤ ((seen.filter (fun e => e.1 == ch)).map (·.2.1)).eraseDups.length then s.raise 3 k evChannel [ch] else s

/-- An uncorrectable read is recorded where its memory keeps its errors, and logged (R87, R236, R237, R312, R326). The controller also
reads what the stack's own correction counts, which is a free value (R221, R236; log 118). -/
def State.memUncorr (s : State) (a : Nat) : State :=
  let s := s.log (uncorrOrigin a).1 (uncorrOrigin a).2 0x0701 (bytesLE 8 a)
  match regionOf a with
  | some .hbm =>
    let k := a / hbmWindow
    let s := if s.reg .hbmUncorr k = 0 then (s.put .hbmErrAddr k a).put .hbmErrTime k s.now else s
    let (f, s) := s.takeFree
    let s := s.bumpSat .hbmOdeccCorr k (f / 2)
    let s := if f % 2 = 1 then s.flag .hbmOdeccSevere k else s
    ((s.flag .hbmUncorr k).bumpSat .hbmUncorrCnt k 1).channelRead a
  | some .gallery =>
    let g := (a - galleryBase) / gallerySize
    (s.flag .glGmUncorr g).bumpSat .glGmUncorrCnt g 1
  | some .pocket => s.bumpSat .chPocketUncorrCnt ((a - pocketBase) / pocketWindow) 1
  | some .sump => (s.flag .modSumpUncorr 0).bumpSat .modSumpUncorrCnt 0 1
  | _ => s

/-- COUNT of a ready counter. -/
def State.count (s : State) (a : Nat) : Nat := s.num a 8

/-! ### Error records (R348) -/

/-- The 64 bytes of an error record. -/
structure ErrRecord where
  origin : Nat
  cls : Nat
  action : Nat
  outcome : Nat
  stopTs : Nat
  resumeTs : Nat
  addr : Nat := 0
  unit : Nat := 0
  job : Nat := 0
  aux : Nat := 0
  rank : Nat := 0
deriving DecidableEq, Repr

def ErrRecord.bytes (r : ErrRecord) (ts : Nat) : List Byte :=
  bytesLE 8 ts ++ bytesLE 4 r.origin ++ bytesLE 1 r.cls ++ bytesLE 1 r.action ++ bytesLE 1 r.outcome ++ bytesLE 1 0 ++
    bytesLE 8 r.stopTs ++ bytesLE 8 r.resumeTs ++ bytesLE 8 r.addr ++ bytesLE 4 r.unit ++ bytesLE 4 r.job ++
    bytesLE 8 r.aux ++ bytesLE 4 r.rank ++ bytesLE 4 0

/-- The phases of R332 that a recovery with an `ACTION` passes: 1 stop, 2 escalation, 3 isolation, 4 boundary rings, 5 program
build, 6 program write, 7 admission, 8 release; 0 where nothing is recovered. -/
def recoveryPhases (action : Nat) : List Nat :=
  if action = 1 || action = 4 || action = 5 || action = 8 then [1, 2, 3, 4, 7, 8]
  else if action = 2 || action = 3 then [1, 2, 3, 4, 5, 6, 7, 8]
  else if action = 6 then [2, 3]
  else if action = 7 then [1, 2, 3, 8]
  else [0]

/-- Writes an error record into the ring, with its log entry, its host event and its alert (R348, R408, R415). -/
def State.errRecord (s : State) (r : ErrRecord) (ts : Nat) : State :=
  let n := s.reg .modErrCount 0
  let s := s.store (s.reg .modErrBase 0 + 64 * (n % 1024)) (r.bytes ts)
  let s := s.bump .modErrCount 0 1
  let s := (recoveryPhases r.action).foldl (fun s p =>
    s.log 3 0 (0x0800 + p) (bytesLE 8 n ++ bytesLE 1 r.cls ++ bytesLE 1 r.action ++ bytesLE 1 r.outcome) (some ts)) s
  let s := if r.outcome = 0 then s else s.flag .modRecoveryFail 0
  (s.hostEvent 0).alert 6

/-- The write that is served: the highest priority, then the first to arrive (R381). -/
def nvHead (q : List NvWrite) : Option NvWrite :=
  q.foldl (fun best w => match best with | none => some w | some b => if w.prio < b.prio then some w else some b) none

/-- The non-volatile memory when power or reset cuts a write short: the line under way keeps its old content or has its new
one (R378), as the bit says. -/
def State.nvCut (s : State) (new : Bool) : Tbl (List Byte) :=
  match nvHead s.nvQueue with
  | some w => if new then tset [] s.nvMem w.line w.bytes else s.nvMem
  | none => s.nvMem

end Sys2Proof.Machine
end

