-- ==== Sys2Proof/Machine/Operands.lean ====
section
/-!
DEFINITION. Operand and output descriptors (R96) and every address form they have: tiled and pointer-list (R440),
implicit convolution (R186 to R190), Flowstone blocks (R197, R198) and paged key/value tensors (R152 to R162).
-/
namespace Sys2Proof.Machine

/-! ### Descriptors -/

/-- The fields of an operand or output descriptor (R96). -/
structure Desc where
  format : Nat
  deliver : Nat
  space : Nat
  addrMode : Nat
  trans : Bool
  ptrAxis : Nat
  fsRate : Nat
  scale : Nat
  base : Nat
  rowStride : Nat
  rows : Nat
  cols : Nat
  rowSel : Nat
  colSel : Nat
  rnd : Nat
  spill : Bool
  aDesc : Nat
  bDesc : Nat
  drainLen : Nat
  drainWord : Nat
  aux : Nat
deriving DecidableEq, Repr

/-- The descriptor that 64 bytes spell (R96). -/
def Desc.of (bs : List Byte) : Desc :=
  let w0 := fieldLE bs 0 4
  let w8 := fieldLE bs 32 8
  { format := bits w0 3 0, deliver := bits w0 7 4, space := bits w0 9 8, addrMode := bits w0 11 10
    trans := bit w0 12, ptrAxis := bits w0 13 13, fsRate := bits w0 15 14
    scale := fieldLE bs 4 4, base := fieldLE bs 8 8, rowStride := fieldLE bs 16 8
    rows := fieldLE bs 24 4, cols := fieldLE bs 28 4
    rowSel := bits w8 3 0, colSel := bits w8 7 4, rnd := bits w8 9 8, spill := bit w8 10
    aDesc := bits w8 23 16, bDesc := bits w8 31 24, drainLen := bits w8 35 32, drainWord := bits w8 63 40
    aux := fieldLE bs 40 8 }

/-- A length register's value as a bound; 0xF selects none (R96). -/
def lenSel (lens : List Nat) (sel : Nat) : Nat := if sel = 15 then 0xFFFFFFFF else lens.getD sel 0xFFFFFFFF

/-- The length registers of a Chamber (R97). -/
def State.lens (s : State) (c : Nat) : List Nat := (List.range 16).map (fun n => s.reg .chLen c n)

/-- How the rows and columns of a descriptor are used (R440). -/
inductive Role where
  | opA | opB | plain | out
deriving DecidableEq, Repr

/-! ### What stops a read or a write -/

/-- The walk errors of R161 by their bit in `CH_PAGE_ERR`. -/
def peInvalid : Nat := 0
def peStale : Nat := 1
def peFormat : Nat := 2
def peOrder : Nat := 3
def peRange : Nat := 4
def peRef : Nat := 5
def peScale : Nat := 6

/-- The error of a read of `[a, a + n)` that meets poison: its first poisoned granule (R236). -/
def State.poisonErr (s : State) (a n : Nat) : RdErr := .poison ((s.poisonAt a n).getD a)

/-- A record of n bytes. -/
def State.rdBytes (s : State) (a n : Nat) : Except RdErr (List Byte) :=
  if !s.mapped a n then .error (.addr a) else if s.poisoned a n then .error (s.poisonErr a n) else .ok (s.bytes a n)

/-- A number of n bytes that the sequencer reads for its own use. -/
def State.rd (s : State) (a n : Nat) : Except RdErr Nat := (s.rdBytes a n).map natLE

/-! ### Geometry records (R186 to R189) -/

/-- The fields of a geometry record; axes in the order T, H, W. -/
structure Geom where
  inE : List Nat
  outE : List Nat
  cSrc : Nat
  cpad : Nat
  lower : Nat
  kern : List Nat
  stride : List Nat
  dil : List Nat
  pad : List Nat
  up : Nat
  posOrder : Nat
  group : Nat
  /-- Output channels per tap in the K of mode 4: 128, or more where CONVOLVE has more of them (log 48). -/
  perOut : Nat := 128
deriving DecidableEq, Repr

def Geom.of (bs : List Byte) : Geom :=
  let w := fun i => fieldLE bs i 2
  let b := fun i => fieldLE bs i 1
  { inE := [w 0, w 2, w 4], outE := [w 6, w 8, w 10], cSrc := w 12, cpad := b 14, lower := b 15
    kern := [b 16, b 17, b 18], stride := [b 19, b 20, b 21], dil := [b 22, b 23, b 24], pad := [b 25, b 26, b 27]
    up := b 28, posOrder := b 29, group := w 30 }

/-- The channel stride within K (R186). -/
def Geom.cp (g : Geom) : Nat := 128 / 2 ^ g.cpad

/-- Indices of K that a tap takes: CP, or a whole number of 128s for more channels than 128 (R188, R190; log 48). -/
def Geom.per (g : Geom) : Nat := if g.cp = 128 then ceilDiv g.cSrc 128 * 128 else g.cp

/-- The upsampling factor of an axis (R186). -/
def Geom.upF (g : Geom) (a : Nat) : Nat := 2 ^ bits g.up (2 * a + 1) (2 * a)

/-- The checks of R189 on a record's 64 bytes. -/
def geomOk (bs : List Byte) (fsRate : Nat) : Bool :=
  let g := Geom.of bs
  zeroLE bs 32 32 && decide (g.cpad ≤ 4) && decide (g.lower ≤ 4) && decide (g.posOrder ≤ 1) &&
  decide (g.up < 64) && decide (bits g.up 1 0 ≠ 3) && decide (bits g.up 3 2 ≠ 3) && decide (bits g.up 5 4 ≠ 3) &&
  g.inE.all (· != 0) && g.outE.all (· != 0) && g.cSrc != 0 &&
  g.kern.all (fun k => decide (1 ≤ k ∧ k ≤ 15)) && g.stride.all (fun k => decide (1 ≤ k ∧ k ≤ 8)) &&
  g.dil.all (fun k => decide (1 ≤ k ∧ k ≤ 8)) && g.pad.all (fun k => decide (k ≤ 63)) &&
  (g.group == 0 || g.group == 2 ^ Nat.log2 g.group) &&
  !(g.group != 0 && g.cpad != 0) && !(g.cpad != 0 && decide (g.cSrc > g.cp)) &&
  !(g.up != 0 && g.lower == 2) && !(g.posOrder == 1 && fsRate == 0)

/-- Three coordinates of an index over extents, the last fastest. -/
def split3 (e : List Nat) (p : Nat) : List Nat :=
  let w := e.getD 2 1
  let h := e.getD 1 1
  [p / (w * h), p / w % h, p % w]

/-- The index of coordinates in raster order. -/
def raster (e o : List Nat) : Nat := (o.getD 0 0 * e.getD 1 1 + o.getD 1 0) * e.getD 2 1 + o.getD 2 0

/-- The coordinates of output position p: raster order, or the block order of R197. -/
def Geom.position (g : Geom) (e : List Nat) (p : Nat) : List Nat :=
  if g.posOrder = 0 then split3 e p
  else
    let bw := ceilDiv (e.getD 2 1) 4
    let bh := ceilDiv (e.getD 1 1) 4
    let blk := p / 64
    let i := p % 64
    [blk / (bw * bh) * 4 + i / 16, blk / bw % bh * 4 + i / 4 % 4, blk % bw * 4 + i % 4]

/-- True when coordinates lie inside extents. -/
def inside (e o : List Nat) : Bool := (o.zip e).all (fun x => decide (x.1 < x.2))

/-- One axis of the lowering pseudocode on the forward grid (R187). -/
def Geom.axisFwd (g : Geom) (a o k : Nat) : Option Nat :=
  let u := o * g.stride.getD a 1 + k * g.dil.getD a 1
  let p := g.pad.getD a 0
  if u < p then none
  else if u - p ≥ g.inE.getD a 0 * g.upF a then none
  else some ((u - p) / g.upF a)

/-- One axis on the gradient grid (R187). -/
def Geom.axisGrad (g : Geom) (a o k : Nat) : Option Nat :=
  let v := o + g.pad.getD a 0
  let kd := k * g.dil.getD a 1
  let st := g.stride.getD a 1
  if v < kd then none
  else if (v - kd) % st ≠ 0 then none
  else if (v - kd) / st ≥ g.outE.getD a 0 then none
  else some ((v - kd) / st)

/-- The map coordinates and channel of lowered element (p, k), none where the pseudocode returns zero (R187); K blocks
ascend by tap and within a tap by channel (R188). -/
def Geom.lowered (g : Geom) (o : List Nat) (k : Nat) : Option (List Nat × Nat) :=
  let tap := k / g.per
  let ch := k % g.per
  if ch ≥ g.cSrc || tap ≥ g.kern.foldl (· * ·) 1 then none else go g o tap ch
where
  go (g : Geom) (o : List Nat) (tap ch : Nat) : Option (List Nat × Nat) :=
    let kk := split3 g.kern tap
    let f := fun a => if g.lower = 2 then g.axisGrad a (o.getD a 0) (kk.getD a 0) else g.axisFwd a (o.getD a 0) (kk.getD a 0)
    match f 0, f 1, f 2 with
    | some t, some y, some x => some ([t, y, x], ch)
    | _, _, _ => none

/-! ### Page tables and references (R152 to R159) -/

/-- A page-table header (R155). -/
structure PtHeader where
  dir : Nat
  format : Nat
  dim : Nat
  kScale : Nat
  vScale : Nat
  limit : Nat
  tableId : Nat
deriving DecidableEq, Repr

/-- The formats a page may have (R153). -/
def pageFormat (f : Nat) : Bool := f == 0 || f == 1 || f == 2 || f == 4 || f == 5

/-- The header at an address, with the checks of R153, R155 and R161. -/
def readHeader (s : State) (a : Nat) : Except RdErr PtHeader := do
  let bs ← s.rdBytes a 64
  let fb := fieldLE bs 8 1
  let hd := fieldLE bs 9 1
  let h : PtHeader :=
    { dir := fieldLE bs 0 8, format := fb % 16, dim := if hd = 0 then 128 else 64, kScale := fieldLE bs 12 4
      vScale := fieldLE bs 16 4, limit := fieldLE bs 20 4, tableId := fieldLE bs 24 4 }
  if fb ≥ 16 || !pageFormat h.format || hd > 1 || !zeroLE bs 10 2 || !zeroLE bs 28 36 || h.limit == 0 ||
      h.limit > 2 ^ 24 || h.dir ≥ 2 ^ 48 || h.dir % 32768 != 0 then
    .error (.page { bit := peRef, tableId := h.tableId })
  else .ok h

/-- A page reference with the header it names (R158). -/
structure PageRef where
  list : Nat
  offset : Nat
  len : Nat
  mask : Nat
  seqSel : Nat
  qSel : Nat
  tokSel : Nat
  window : Nat
  pt : Nat
  hdr : PtHeader
deriving DecidableEq, Repr

/-- The reference at an address (R158, R161) and its header; scales are checked at first use (R154). -/
def readRef (s : State) (a : Nat) : Except RdErr PageRef := do
  let bs ← s.rdBytes a 64
  let b := fun i => fieldLE bs i 1
  let pt := fieldLE bs 0 8
  let list := fieldLE bs 8 8
  let window := fieldLE bs 28 4
  if b 24 ≥ 4 || b 25 ≥ 16 || b 26 ≥ 16 || b 27 ≥ 16 || !zeroLE bs 32 32 || list % 8 != 0 || pt ≥ 2 ^ 48 ||
      list ≥ 2 ^ 48 || (b 26 == 15 && b 24 != 0) || (b 24 ≥ 2 && (window == 0 || window > 2 ^ 31)) then
    .error (.page { bit := peRef })
  else
    let h ← readHeader s pt
    .ok { list := list, offset := fieldLE bs 16 4, len := fieldLE bs 20 4, mask := b 24, seqSel := b 25, qSel := b 26
          tokSel := b 27, window := window, pt := pt, hdr := h }

/-- The logical page and wanted generation of key block j (R159); an entry is checked against the one before it. -/
def PageRef.lpage (r : PageRef) (s : State) (j : Nat) : Except RdErr (Nat × Option Nat) := do
  let pos := r.offset + j
  if r.list = 0 then
    if pos ≥ r.hdr.limit then .error (.page { bit := peRange, lpage := pos % 2 ^ 24, tableId := r.hdr.tableId, listPos := pos })
    else .ok (pos, none)
  else
    let e ← s.rd (r.list + 8 * pos) 8
    let lp := e % 2 ^ 24
    let want := bits e 31 24
    let err := fun (b : Nat) => (.error (.page ⟨b, lp, 0, want, r.hdr.tableId, pos⟩) : Except RdErr (Nat × Option Nat))
    if e ≥ 2 ^ 32 then err peRef
    else
      let prev ← if j = 0 then pure none else (s.rd (r.list + 8 * (pos - 1)) 8).map some
      if (match prev with | some p => decide (lp ≤ p % 2 ^ 24) | none => false) then err peOrder
      else if lp ≥ r.hdr.limit then err peRange
      else .ok (lp, some want)

/-- The frame of a logical page (R156, R157, R161). `want` is none where no generation is checked. -/
def PageRef.walk (r : PageRef) (s : State) (format lp : Nat) (want : Option Nat) (pos : Nat) : Except RdErr Nat := do
  let h := r.hdr
  let err := fun (b found : Nat) =>
    (.error (.page ⟨b, lp, found, want.getD 0, h.tableId, pos⟩) : Except RdErr Nat)
  if !scaleOk h.kScale || !scaleOk h.vScale then err peScale 0
  else if h.format ≠ format then err peFormat 0
  else if lp ≥ h.limit then err peRange 0
  else
    let de ← s.rd (h.dir + 8 * (lp / 4096)) 8
    if !bit de 0 then err peInvalid 0
    else if bits de 14 1 ≠ 0 || de ≥ 2 ^ 48 then err peRef 0
    else
      let pte ← s.rd (de / 32768 * 32768 + 8 * (lp % 4096)) 8
      let gen := bits pte 12 5
      if !bit pte 0 then err peInvalid gen
      else if bit pte 13 || pte ≥ 2 ^ 48 then err peRef gen
      else if bits pte 4 1 ≠ h.format then err peFormat gen
      else if (match want with | some w => w != gen | none => false) then err peStale gen
      else .ok (pte / 16384 * 16384)

/-- The byte of an element of a page: dimension d, token slot t, half 0 K or 1 V (R152). -/
def PageRef.elemAddr (r : PageRef) (frame half d t : Nat) : Nat :=
  let e := fmtBytes r.hdr.format
  if half = 0 then frame + d * 128 * e + t * e else frame + 128 * r.hdr.dim * e + t * r.hdr.dim * e + d * e

/-- A lane of a score tile is excluded (R166). -/
def ScoreRef.excludes (r : ScoreRef) (qpos kpos : Nat) : Bool :=
  decide (kpos ≥ r.seqLen) || !r.inList || (bit r.mask 0 && decide (kpos > qpos)) ||
    (bit r.mask 1 && decide (kpos + r.window < qpos + 1))

/-- Every lane of a block with query block m is excluded (R167). -/
def ScoreRef.allMasked (r : ScoreRef) (m : Nat) : Bool :=
  (List.range 128).all (fun i => (List.range 128).all (fun k =>
    r.excludes (r.qOrg + 128 * m + i) (r.keyOrg + k)))

/-! ### Views: a descriptor with what is in force where it is used -/

/-- A descriptor as a word uses it: bounds, bases, its geometry or its page reference. -/
structure View where
  d : Desc
  role : Role
  c : Nat
  base : Nat
  rLo : Nat
  rEnd : Nat
  cLo : Nat
  cEnd : Nat
  geom : Option Geom := none
  page : Option PageRef := none
  seqLen : Nat := 0xFFFFFFFF
  qOrg : Nat := 0
  tokenOrg : Nat := 0
deriving DecidableEq, Repr

/-- Bytes of a stored element (R31). -/
def View.e (v : View) : Nat := fmtBytes v.d.format

/-- The half that a paged descriptor names (R160). -/
def View.half (v : View) : Nat := v.d.aux % 2

/-- The SCALE in force: the header's for a paged tensor (R154). -/
def View.scale (v : View) : Nat :=
  match v.page with
  | some r => if v.half = 0 then r.hdr.kScale else r.hdr.vScale
  | none => v.d.scale

/-- The bound that a list entry's length gives a problem in place of a length register (R144). -/
def entryLen (len reg : Nat) : Nat := if len = 0xFFFFFFFF then reg else len

/-- A descriptor's view by what its own fields and the context in force say: its base and its bounds (R129, R135, R144, R146). -/
def baseView (c di : Nat) (bs : List Byte) (role : Role) (ctx : NestCtx) (tokenOrg : Nat := 0) : View :=
  let d := Desc.of bs
  let base := match ctx.bases.find? (fun x => x.1 == di) with | some x => x.2 | none => d.base
  let r := lenSel ctx.lens d.rowSel
  let k := lenSel ctx.lens d.colSel
  let (r, k) := match role with
    | .opA => (entryLen ctx.mLen r, entryLen ctx.kLen k)
    | .opB => (entryLen ctx.kLen r, entryLen ctx.nLen k)
    | .out => (entryLen ctx.mLen r, entryLen ctx.nLen k)
    | .plain => (r, k)
  let rLo := match role with | .opA => ctx.mOrg | .out => ctx.mOrg | _ => 0
  let cLo := match role with | .opB => ctx.nOrg | .out => ctx.nOrg | _ => 0
  { d := d, role := role, c := c, base := base, rLo := rLo, rEnd := rLo + min d.rows r, cLo := cLo, cEnd := cLo + min d.cols k
    tokenOrg := tokenOrg }

/-- The view of a descriptor of index `di` for Chamber c under a NEST's or strand's context, with its page reference or its
geometry record read and checked (R158, R189). -/
def mkView (s : State) (c di : Nat) (bs : List Byte) (role : Role) (ctx : NestCtx) (tokenOrg : Nat := 0) :
    Except RdErr View := do
  let v := baseView c di bs role ctx tokenOrg
  let d := v.d
  if d.space = 3 then
    let r ← readRef s (canonAddr c v.base)
    -- both scales of the header are checked where a reference is used (R154)
    if !scaleOk r.hdr.kScale || !scaleOk r.hdr.vScale then .error (.page { bit := peScale, tableId := r.hdr.tableId })
    let v := { v with page := some r, seqLen := lenSel ctx.lens r.seqSel
                      qOrg := if r.qSel = 15 then 0 else ctx.lens.getD r.qSel 0 }
    if role = .out then .ok v
    else if d.aux % 2 = 0 then .ok { v with cEnd := min v.cEnd (128 * r.len) }
    else .ok { v with rEnd := min v.rEnd (128 * r.len) }
  else if d.addrMode = 2 then
    let a := canonAddr c d.aux
    let bs ← s.rdBytes a 64
    if geomOk bs d.fsRate then .ok { v with geom := some (Geom.of bs) } else .error (.geom a)
  else .ok v

/-- An element's place. -/
inductive Loc where
  /-- Beyond a bound, or outside the groups of R190: fed as zero, not read, not written (R88, R129). -/
  | beyond
  /-- Zero by the lowering (R187). -/
  | zero
  | byte (a : Nat)
  /-- Element `i` of the Flowstone block at an address (R197). -/
  | flow (a i : Nat)
deriving DecidableEq, Repr

/-- The region that a SPACE names (R96). -/
def spaceOk (space : Nat) (a : Nat) : Bool :=
  match space, regionOf a with
  | 0, some .pocket => true
  | 1, some .gallery => true
  | 2, some .hbm => true
  | _, _ => false

/-- An address of a Chamber's access, checked against its SPACE and the map (R87, R220). -/
def State.checked (s : State) (v : View) (a n : Nat) : Except RdErr Nat :=
  let a := canonAddr v.c a
  if a < 2 ^ 48 && spaceOk v.d.space a && s.mapped a n then .ok a else .error (.addr a)

/-- Bytes of a Flowstone block (R197). -/
def flowBytes (rate : Nat) : Nat := if rate = 1 then 64 else 32

/-- The block and the index of a map element in a Flowstone map of extents `e` and `ch` channels (R197). -/
def flowPlace (base rate : Nat) (e : List Nat) (ch : Nat) (i : List Nat) (c : Nat) : Nat × Nat :=
  let bh := ceilDiv (e.getD 1 1) 4
  let bw := ceilDiv (e.getD 2 1) 4
  let y := i.getD 1 0
  let x := i.getD 2 0
  let (bt, cb, cc, ds) := if e.getD 0 1 = 1 then (0, ceilDiv ch 4, c / 4, c % 4) else (i.getD 0 0 / 4, ch, c, i.getD 0 0 % 4)
  (base + ((((bt * bh + y / 4) * bw + x / 4) * cb) + cc) * flowBytes rate, (ds * 4 + y % 4) * 4 + x % 4)

/-- The place of an element of a convolution operand or output (R187, R190). -/
def View.locConv (v : View) (g : Geom) (r c : Nat) : Loc :=
  let e := v.e
  let posMajor := fun (ex : List Nat) (i : List Nat) (ch : Nat) =>
    if v.d.fsRate ≠ 0 then let p := flowPlace v.base v.d.fsRate ex g.cSrc i ch; Loc.flow p.1 p.2
    else Loc.byte (v.base + raster ex i * v.d.rowStride + ch * e)
  match v.role with
  | .out =>
    let o := g.position g.outE r
    if inside g.outE o && decide (c < g.cSrc) then posMajor g.outE o c else .beyond
  | _ =>
    match g.lower with
    | 3 =>
      -- compact grouped weights: K index k = r, output channel c; the input channel is k mod per-tap channels (R190)
      let per := g.per
      let ch := r % per
      let q := max 1 g.group
      if ch < g.cSrc && decide (r / per < g.kern.foldl (· * ·) 1) && ch / q == c / q then .byte (v.base + (r * q + c % q) * e)
      else .beyond
    | 4 => .byte (v.base + (c / g.perOut * g.per + r) * v.d.rowStride + c % g.perOut * e)
    | 2 =>
      match g.lowered (g.position g.inE c) r with
      | none => .zero
      | some (i, ch) => .byte (v.base + ch * v.d.rowStride + raster g.outE i * e)
    | _ =>
      let (p, k) := if g.lower = 0 then (r, c) else (c, r)
      match g.lowered (g.position g.outE p) k with
      | none => .zero
      | some (i, ch) => posMajor g.inE i ch

/-- The place of an element of a paged operand or output (R152, R157, R160, R162). -/
def View.locPaged (v : View) (s : State) (r : PageRef) (row col : Nat) : Except RdErr Loc := do
  let half := v.half
  let d := if half = 0 then row else col
  let k := if half = 0 then col else row
  if v.role = .out then
    let t := v.tokenOrg + k
    let frame ← r.walk s v.d.format (t / 128) none 0xFFFFFFFF
    .ok (.byte (r.elemAddr frame half d (t % 128)))
  else
    let (lp, want) ← r.lpage s (k / 128)
    if 128 * lp + k % 128 ≥ v.seqLen then .ok .beyond
    else
      let frame ← r.walk s v.d.format lp want (r.offset + k / 128)
      .ok (.byte (r.elemAddr frame half d (k % 128)))

/-- The place of element (r, c) of a view (R440 and the forms above), its address checked. -/
def View.loc (v : View) (s : State) (r c : Nat) : Except RdErr Loc := do
  if r < v.rLo || r ≥ v.rEnd || c < v.cLo || c ≥ v.cEnd then .ok .beyond
  else
    match v.page with
    | some p =>
      match (← v.locPaged s p r c) with
      | .byte a => if s.mapped a v.e then .ok (.byte a) else .error (.addr a)
      | l => .ok l
    | none =>
      match v.geom with
      | some g =>
        match v.locConv g r c with
        | .byte a => (s.checked v a v.e).map Loc.byte
        | .flow a i => (s.checked v a (flowBytes v.d.fsRate)).map (fun a => Loc.flow a i)
        | l => .ok l
      | none =>
        if v.d.addrMode = 1 then
          let (i, j) := if v.d.ptrAxis = 0 then (r, c) else (c, r)
          let p ← s.rd (canonAddr v.c (v.base + 8 * i)) 8
          (s.checked v (p + j * v.e) v.e).map Loc.byte
        else
          let swap := match v.role with | .opA => !v.d.trans | .opB => v.d.trans | _ => false
          let (u, w) := if swap then (c, r) else (r, c)
          (s.checked v (v.base + u * v.d.rowStride + w * v.e) v.e).map Loc.byte

/-! ### Flowstone decoding (R198) -/

/-- True when a block has no reserved bit set and every `EXP` is one the format can have (R198, R202). -/
def flowOk (bs : List Byte) (rate format : Nat) : Bool :=
  let b := if rate = 1 then 7 else 3
  let w := natLE bs
  let top := 32 + 64 * b
  w / 2 ^ top == 0 &&
    (List.range 4).all (fun i =>
      let x := bits w (8 * i + 7) (8 * i)
      x == 0 || format == fmtBF16 || (decide (64 ≤ x) && decide (x ≤ 191)))

/-- The decoded code of element i of a block: q × Δ in the stored format (R198). -/
def flowDecode (bs : List Byte) (rate format i : Nat) : Nat :=
  let b := if rate = 1 then 7 else 3
  let w := natLE bs
  let x := bits w (8 * (i / 16) + 7) (8 * (i / 16))
  if x = 0 then zeroCode format
  else
    let q := signed b (bits w (32 + b * i + b - 1) (32 + b * i))
    let e : Int := (x : Int) - 128
    (storeNum true format 0 (fun _ => 0) (.fin (decide (q < 0)) q.natAbs (e + 2 - b))).code

/-! ### Reading elements -/

/-- An element read through a view. -/
structure Elem1 where
  /-- The stored code, none where nothing is read. -/
  code : Option Nat
  /-- Lowered to zero, counted in `CH_CONV_ZERO_ELEMS` (R187). -/
  zero : Bool := false
  poisoned : Bool := false
  addr : Nat := 0
  /-- The Flowstone block it came from. -/
  blk : Option Nat := none
deriving DecidableEq, Repr

def View.read1 (v : View) (s : State) (r c : Nat) : Except RdErr Elem1 := do
  match (← v.loc s r c) with
  | .beyond => .ok { code := none }
  | .zero => .ok { code := none, zero := true }
  | .byte a => .ok { code := some (s.num a v.e), poisoned := s.poisoned a v.e, addr := a }
  | .flow a i =>
    let n := flowBytes v.d.fsRate
    let bs := s.bytes a n
    if flowOk bs v.d.fsRate v.d.format then
      .ok { code := some (flowDecode bs v.d.fsRate v.d.format i), poisoned := s.poisoned a n, addr := a, blk := some a }
    else .error (.flow a)

/-- Reads the elements at a list of places, in order; the first that stops stops all. -/
def View.readAll (v : View) (s : State) : List (Nat × Nat) → Except RdErr (List Elem1)
  | [] => .ok []
  | p :: ps => do
    let x ← v.read1 s p.1 p.2
    let xs ← v.readAll s ps
    .ok (x :: xs)

/-- The distinct Flowstone blocks of a read (R198: a block is decoded once for a word). -/
def flowBlocks (xs : List Elem1) : List Nat :=
  xs.foldl (fun l x => match x.blk with | some a => if l.contains a then l else a :: l | none => l) []

/-- Bytes that a read took (`CH_LOAD_BYTES`). -/
def readBytes (v : View) (xs : List Elem1) : Nat :=
  let n := (xs.filter (fun x => x.code.isSome && x.blk.isNone)).length
  n * v.e + (flowBlocks xs).length * flowBytes v.d.fsRate

/-- The 16,384 places of a block's feed words: word k holds column k of an A block or row k of a B block (R63). -/
def feedPlaces (role : Role) (blkK blkMN : Nat) (k : Nat) : List (Nat × Nat) :=
  (List.range 128).map (fun i =>
    match role with
    | .opA => (128 * blkMN + i, 128 * blkK + k)
    | _ => (128 * blkK + k, 128 * blkMN + i))

/-- An operand's view with its K range ended where that of its partner ends (R135, R140). -/
def View.boundK (v : View) (k : Nat) : View :=
  match v.role with | .opA => { v with cEnd := min v.cEnd k } | .opB => { v with rEnd := min v.rEnd k } | _ => v

/-- The key block of a paged operand that a block of rows and columns belongs to (R160). -/
def View.keyBlock (v : View) (blkR blkC : Nat) : Nat := if v.half = 0 then blkC else blkR

/-- Tokens of a paged output among the places written (R162). -/
def View.tokens (v : View) (xs : List (Nat × Nat)) : List Nat :=
  if v.page.isSome then (xs.map (fun x => v.tokenOrg + if v.half = 0 then x.2 else x.1)).eraseDups else []

/-- Pages that a write of tokens walks (R157, R162). -/
def tokenPages (ts : List Nat) : List Nat := (ts.map (· / 128)).eraseDups

/-- The pages that a read of a block walks (R157): key blocks of a paged operand with a key below the length. -/
def View.walks (v : View) (s : State) (keyBlk : Nat) : List Nat :=
  match v.page with
  | none => []
  | some r =>
    match r.lpage s keyBlk with
    | .ok (lp, _) => if 128 * lp < v.seqLen && keyBlk < r.len then [lp] else []
    | .error _ => []

/-! ### Byte ranges (R101) -/

/-- The whole of a SPACE, for the modes whose range the sequencer does not work out (R101). A page lies in HBM or in Gallery
memory (R152). -/
def spaceSpan (c space : Nat) : Span :=
  if space = 0 then ⟨pocketBase + c * pocketWindow, pocketBase + (c + 1) * pocketWindow⟩
  else if space = 1 then ⟨galleryBase, galleryBase + 32 * gallerySize⟩
  else if space = 2 then ⟨0, hbmTop⟩
  else ⟨0, galleryBase + 32 * gallerySize⟩

/-- The byte range of rows r0 to r0 + nr − 1 and columns c0 to c0 + nc − 1 of a view (R101). -/
def View.span (v : View) (r0 nr c0 nc : Nat) : Span :=
  if v.page.isSome || v.d.addrMode ≠ 0 then spaceSpan v.c v.d.space
  else
    let swap := match v.role with | .opA => !v.d.trans | .opB => v.d.trans | _ => false
    let r1 := min (r0 + nr) v.rEnd
    let c1 := min (c0 + nc) v.cEnd
    if r1 ≤ r0 || c1 ≤ c0 then ⟨0, 0⟩
    else
      let at' := fun r c => let (u, w) := if swap then (c, r) else (r, c); v.base + u * v.d.rowStride + w * v.e
      let lo := canonAddr v.c (at' r0 c0)
      ⟨lo, lo + (at' (r1 - 1) (c1 - 1) - at' r0 c0) + v.e⟩

/-- Two ranges share a byte. -/
def Span.meets (a b : Span) : Bool := decide (a.lo < b.hi) && decide (b.lo < a.hi)

/-! ### Logical indices (R209) -/

/-- The offset of element (r, c) of a descriptor's tensor. -/
def View.logical (v : View) (problem r c : Nat) : Nat :=
  match v.page, v.geom with
  | some _, _ =>
    let t := v.tokenOrg + (if v.half = 0 then c else r)
    (2 * t + v.half) * 128 + (if v.half = 0 then r else c)
  | none, some g => raster g.outE (g.position g.outE r) * g.cSrc + c
  | none, none => problem * (v.d.rows * v.d.cols) + r * v.d.cols + c

/-! ### Writing elements -/

/-- The writes of converted elements: (row, column, code) to (address, bytes). A Flowstone output is written by blocks
(R198) and not here. -/
def View.places (v : View) (s : State) : List (Nat × Nat × Nat) → Except RdErr (List (Nat × List Byte))
  | [] => .ok []
  | (r, c, code) :: xs => do
    let l ← v.loc s r c
    let rest ← v.places s xs
    match l with
    | .byte a => .ok ((a, bytesLE v.e code) :: rest)
    | _ => .ok rest

/-- Joins writes that continue each other. -/
def joinWrites : List (Nat × List Byte) → List (Nat × List Byte)
  | [] => []
  | (a, bs) :: xs =>
    match joinWrites xs with
    | [] => [(a, bs)]
    | (a', bs') :: ys => if a + bs.length = a' then (a, bs ++ bs') :: ys else (a, bs) :: (a', bs') :: ys

/-- Stores a list of pieces, by a Gallery's units or by none of them, in a class of requests. -/
def State.storeAll (s : State) (ws : List (Nat × List Byte)) (who : Option Nat := none) (cls : Nat := clsCompute) : State :=
  match ws with
  | [] => s
  | (a, bs) :: xs => (s.store a bs who cls).storeAll xs who cls

/-! ### Sources of lost lines (R342, R343) -/

/-- The format that a tensor's bytes have: the save format where it is written once, in shared mode (R175). -/
def Tensor.stored (t : Tensor) : Nat := if t.p.saveMode = 1 then t.p.saveFmt else t.p.format

/-- A tensor's bytes (R96). -/
def Tensor.bytes (t : Tensor) : Nat := (t.p.rows - 1) * t.p.rowStride + t.p.cols * fmtBytes t.stored

/-- A source of R342 beside recomputation holds the line at an address: the buddy's mirror, or the peer of a transfer. -/
def State.lineSource (s : State) (a : Nat) : Bool :=
  s.xferSources.any (fun x => decide (x.1 ≤ a) && decide (a < x.1 + x.2.1)) ||
    (s.reg .modMirrorOk 0 == 1 &&
      s.tensors.any (fun t => t.mirrored && decide (t.p.base ≤ a) && decide (a < t.p.base + t.bytes)))

/-- The lines that a source holds are fetched again, in a range of granules. -/
def State.restoreMarks (s : State) (lo hi : Nat) : State :=
  { s with poison := s.poison.filter (fun e => decide (e.1 < lo) || decide (hi ≤ e.1) || !s.lineSource (e.1 * 64)) }

/-- A block of a narrowed stack whose bit in the refetch bitmap is still set (R343). -/
def State.refetchMarked (s : State) (b : Nat) : Bool :=
  (s.gallery (b / 0x100000)).refetch.contains b || s.lost.any (fun x => x.1 == b / 0x100000 && !x.2.fetched.contains b)

/-- A marked block is fetched again from the sources of R342 that hold its lines, and its bit is cleared. -/
def State.refetchBlock (s : State) (b : Nat) : State :=
  if s.refetchMarked b then
    let s := ((s.showBlock b).restoreMarks (1024 * b) (1024 * b + 1024)).modGallery (b / 0x100000) (fun x =>
      { x with refetch := x.refetch.filter (· != b) })
    { s with lost := s.lost.map (fun x => if x.1 = b / 0x100000 then (x.1, { x.2 with fetched := b :: x.2.fetched }) else x) }
  else s

/-- Some block may be marked. -/
def State.refetching (s : State) : Bool := !s.lost.isEmpty || s.gmem.any (fun e => !e.2.refetch.isEmpty)

/-- What a read of `[a, a + n)` waits for: every block of the range that is still marked is fetched first. -/
def State.refetchFirst (s : State) (a n : Nat) : State :=
  if n = 0 || hbmTop ≤ a || !s.refetching then s
  else (List.range ((a + n - 1) / 65536 - a / 65536 + 1)).foldl (fun s i => s.refetchBlock (a / 65536 + i)) s

/-- The same for reads at a list of addresses. -/
def State.refetchAt (s : State) (as : List Nat) : State :=
  if !s.refetching then s
  else (((as.filter (fun a => decide (a < hbmTop))).map (· / 65536)).eraseDups).foldl State.refetchBlock s

/-- Reads elements, after the blocks that they lie in have been fetched again where they are marked (R343). -/
def View.readFetched (v : View) (s : State) (ps : List (Nat × Nat)) : State × Except RdErr (List Elem1) :=
  match v.readAll s ps with
  | .error e => (s, .error e)
  | .ok xs =>
    if !s.refetching then (s, .ok xs)
    else
      let s := s.refetchAt ((xs.filter (·.code.isSome)).map (·.addr))
      (s, v.readAll s ps)

/-- The same for the tensors of a command, by their numbers. -/
def State.refetchTensors (s : State) (job : Nat) (ids : List Nat) : State :=
  ((ids.filterMap (fun id => s.tensors.find? (fun t => t.job == job && t.p.id == id))).filter (fun t => t.p.space != 3)).foldl
    (fun s t => s.refetchFirst t.p.base t.bytes) s

/-! ### Requests of reads (R224, R234) -/

/-- The lines of HBM that a list of reads touches, each once: a repeat of the line before is dropped first. -/
def linesOf256 (xs : List (Nat × Nat)) : List Nat :=
  ((xs.filter (fun x => decide (x.1 < hbmTop))).foldl (fun (l : List Nat) x =>
    (linesIn x.1 x.2).foldl (fun l a => if l.head? = some a then l else a :: l) l) []).reverse.eraseDups

/-- Reads of a Chamber over the line path, by address and length. -/
def State.readLines (s : State) (c cls : Nat) (xs : List (Nat × Nat)) : State :=
  let s := if s.soft.isEmpty then s else xs.foldl (fun s x => s.noteRead x.1 x.2) s
  (linesOf256 xs).foldl (fun s l => (s.readLine (some (c / 8)) cls 255 l).2) s

/-- The directory entry and the PTE of a logical page (R156, R157). -/
def PageRef.walkAddrs (r : PageRef) (s : State) (lp : Nat) : List Nat :=
  let d := r.hdr.dir + 8 * (lp / 4096)
  [d, s.num d 8 / 32768 * 32768 + 8 * (lp % 4096)]

/-- Pages that a Chamber walks: each entry is a Drip read, and one whose line is not in the Gallery cache is a miss (R157, R172). -/
def State.walkPages (s : State) (c : Nat) (r : PageRef) (lps : List Nat) : State :=
  (lps.flatMap (r.walkAddrs s)).foldl (fun s a =>
    let (hit, s) := s.dripRead (c / 8) a 8
    if hit then s else s.bump .chWalkMisses c 1) (s.bump .chWalks c lps.length)

/-- The walks of a view's pages. -/
def State.walkView (s : State) (c : Nat) (v : View) (lps : List Nat) : State :=
  match v.page with
  | some r => s.walkPages c r lps
  | none => s

end Sys2Proof.Machine
end

