-- ==== Sys2Proof/Machine/SfReal.lean ====
section
/-!
DEFINITION. The exact values of the functions of R109 as far as R110 needs them: approximations in fixed point, with
relative errors far below 2^−60, from which the special-function unit's two or four possible results are told (R107, R110,
R113, R118). Constants are mathematical ones.
-/
namespace Sys2Proof.Machine

/-- 1.0 with 128 fraction bits. -/
def fxOne : Nat := 2 ^ 128

/-- ln 2 with 128 fraction bits. -/
def fxLn2 : Nat := 0xb17217f7d1cf79abc9e3b39803f2f6af

/-- log2 e with 200 fraction bits. -/
def fxLog2e : Nat := 0x171547652b82fe1777d0ffda0d23a7d11d6aef551bad2b4b116

/-- 2/π with 1,400 fraction bits. -/
def fxTwoOverPi : Nat :=
  0xa2f9836e4e441529fc2757d1f534ddc0db6295993c439041fe5163abdebbc561b7246e3a424dd2e006492eea09d1921cfe1deb1cb129a73e *
    2 ^ 952 +
  0xe88235f52ebb4484e99c7026b45f7e413991d639835339f49c845f8bbdf9283b1ff897ffde05980fef2f118b5a0a6d1f6d367ecf27cb09b7 *
    2 ^ 504 +
  0x4f463f669e5fea2d7527bac7ebe5f17b3d0739f78a5292ea6bfb5fb11f8d5d0856033046fc7b6babf0cfbc209af4361da9e391615ee61b086599855f14a068

/-- π/2 with 256 fraction bits. -/
def fxHalfPi : Nat := 0x1921fb54442d18469898cc51701b839a252049c1114cf98e804177d4c76273644

/-- 2/√π and 1/√(2π) with 128 fraction bits. -/
def fxTwoOverSqrtPi : Nat := 0x120dd750429b6d11ae3a914fed7fd8688
def fxInvSqrtTwoPi : Nat := 0x662114cf50d942343f2cf1402eae38bf

/-- `x × 2^n` rounded toward −∞. -/
def shiftFloor (x : Int) (n : Int) : Int := if n ≥ 0 then x * 2 ^ n.toNat else x / 2 ^ (-n).toNat

/-- A finite value with 128 fraction bits, rounded toward −∞; 0 for the others. -/
def Num.fix : Num → Int
  | .fin s m e => shiftFloor (if s then -(m : Int) else m) (e + 128)
  | _ => 0

/-! ### Exponentials and logarithms -/

/-- Horner's scheme for e^y with n terms left. -/
def expTerms (y : Nat) : Nat → Nat → Nat
  | 0, acc => acc
  | n + 1, acc => expTerms y n (fxOne + y * acc / fxOne / (n + 1))

/-- 2^t for t with 128 fraction bits. -/
def realExp2 (t : Int) : Num :=
  .fin false (expTerms ((t % fxOne).toNat * fxLn2 / fxOne) 40 fxOne) (t / fxOne - 128)

/-- e^v of a finite value. -/
def realExp : Num → Num
  | .fin s m e => realExp2 (shiftFloor ((if s then -(m : Int) else m) * fxLog2e) (e - 72))
  | _ => .nan

/-- Σ z^(2k)/(2k+1) over the n lowest k, z² with 128 fraction bits. -/
def atanhTerms (z2 : Nat) : Nat → Nat → Nat
  | 0, acc => acc
  | n + 1, acc => atanhTerms z2 n (fxOne / (2 * n + 1) + z2 * acc / fxOne)

/-- ln of the significand of a positive value, in [1, 2), with 128 fraction bits. -/
def lnSig (m : Nat) : Nat :=
  let l := Nat.log2 m
  let x := if l ≤ 128 then m * 2 ^ (128 - l) else m / 2 ^ (l - 128)
  let z := (x - fxOne) * fxOne / (x + fxOne)
  2 * z * atanhTerms (z * z / fxOne) 45 0 / fxOne

/-- A number of units of 2^−128 as a value. -/
def fixNum (x : Int) : Num := .fin (decide (x < 0)) x.natAbs (-128)

/-- log2 and ln of a positive finite value with 128 fraction bits. -/
def realLog2 (m : Nat) (e : Int) : Num := fixNum (lead m e * fxOne + ((lnSig m * fxLog2e / 2 ^ 200 : Nat) : Int))
def realLog (m : Nat) (e : Int) : Num := fixNum (lead m e * fxLn2 + ((lnSig m : Nat) : Int))

/-! ### SIGMOID, TANH, ERF and GELU -/

def realOne : Num := .fin false 1 0

/-- 1/(1 + e^−v). -/
def realSigmoid (v : Num) : Num :=
  let e := realExp v.abs.neg
  if v.isNeg then e.div (realOne.add e) else realOne.div (realOne.add e)

/-- A magnitude times a factor c with 128 fraction bits, less than the magnitude itself. -/
def scaledDown (v : Num) (c : Int) : Num := v.mul (fixNum (c - 1))

/-- Below this magnitude the series at zero serve. -/
def smallArg (v : Num) : Bool := v.abs.lt (.fin false 1 (-10))

/-- tanh v for v ≠ 0. -/
def realTanh (v : Num) : Num :=
  if smallArg v then
    let w := (v.mul v).fix
    let w2 := w * w / fxOne
    scaledDown v (fxOne - w / 3 + 2 * w2 / 15 - 17 * (w2 * w / fxOne) / 315)
  else
    let e := realExp (v.abs.mul (.fin true 2 0))
    let m := (realOne.sub e).div (realOne.add e)
    if v.isNeg then m.neg else m

/-- Σ (2w)^k/(3 × 5 × … × (2k+1)), w with 128 fraction bits. -/
def erfTerms (w : Nat) : Nat → Nat → Nat
  | 0, acc => acc
  | n + 1, acc => erfTerms w n (fxOne + 2 * w * acc / (2 * n + 3) / fxOne)

/-- erf √w times √w-free factor: 2/√π × e^−w × the series, to be multiplied by the argument. -/
def erfFactor (w : Num) : Num :=
  ((Num.fin false fxTwoOverSqrtPi (-128)).mul (realExp w.neg)).mul (fixNum ((erfTerms w.fix.toNat 200 fxOne : Nat) : Int))

/-- erf v for |v| below 8. -/
def realErf (v : Num) : Num := v.mul (erfFactor (v.mul v))

/-- √(1/2) with 128 fraction bits. -/
def fxSqrtHalf : Nat := 0xb504f333f9de6484597d89b3754abe9f

/-- The continued fraction of Mills' ratio times its argument, from the n-th level, in 1/u with 128 fraction bits. -/
def millsTerms (inv : Nat) : Nat → Nat → Nat
  | 0, d => d
  | n + 1, d => millsTerms inv n (fxOne + (n + 1) * inv * fxOne / d)

/-- v × Φ(v) for v ≠ 0. -/
def realGelu (v : Num) : Num :=
  let a := v.abs
  let u := v.mul v
  if !v.isNeg then
    match a with
    | .fin _ m e =>
      if (Num.fin false 10 0).lt a then .fin false (m * 2 ^ 64 - 1) (e - 64)
      else (a.mul (realOne.add (realErf (a.mul (.fin false fxSqrtHalf (-128)))))).mul (.fin false 1 (-1))
    | x => x
  else if a.lt (.fin false 6 0) then
    ((a.mul (realOne.sub (realErf (a.mul (.fin false fxSqrtHalf (-128)))))).mul (.fin true 1 (-1)))
  else if (Num.fin false 64 0).lt a then .fin true 1 (-2000)
  else
    let inv := (realOne.div u).fix.toNat
    let phi := (Num.fin false fxInvSqrtTwoPi (-128)).mul (realExp (u.mul (.fin true 1 (-1))))
    (phi.div (fixNum ((millsTerms inv 160 fxOne : Nat) : Int))).neg

/-! ### SIN and COS -/

/-- Σ (−w)^k/((2k+p)!/p!) for p = 1 (sine over its argument) or 0 (cosine), w with 256 fraction bits. -/
def trigTerms (p : Nat) (w : Nat) : Nat → Nat → Nat
  | 0, acc => acc
  | n + 1, acc => trigTerms p w n (2 ^ 256 - w * acc / 2 ^ 256 / ((2 * n + p + 1) * (2 * n + p + 2)))

/-- The quadrant and the reduced angle, with 256 fraction bits, of a positive value (R110, R112). -/
def reduceAngle (m : Nat) (e : Int) : Nat × Int :=
  let t := (shiftFloor ((m * fxTwoOverPi : Nat) : Int) (e - 1400 + 256)).toNat
  let q := (t + 2 ^ 255) / 2 ^ 256
  let f : Int := (t : Int) - (q * 2 ^ 256 : Nat)
  (q % 4, if f < 0 then -((f.natAbs * fxHalfPi / 2 ^ 256 : Nat) : Int) else ((f.natAbs * fxHalfPi / 2 ^ 256 : Nat) : Int))

/-- sin and cos of a reduced angle. -/
def trigSin (r : Int) : Num :=
  let a := r.natAbs
  (Num.fin (decide (r < 0)) a (-256)).mul (.fin false (trigTerms 1 (a * a / 2 ^ 256) 24 (2 ^ 256)) (-256))
def trigCos (r : Int) : Num :=
  let a := r.natAbs
  .fin false (trigTerms 0 (a * a / 2 ^ 256) 24 (2 ^ 256)) (-256)

/-- sin v for v ≠ 0. -/
def realSin (v : Num) : Num :=
  if smallArg v then
    let w := (v.mul v).fix
    let w2 := w * w / fxOne
    scaledDown v (fxOne - w / 6 + w2 / 120 - w2 * w / fxOne / 5040)
  else
    match v with
    | .fin s m e =>
      let (q, r) := reduceAngle m e
      let y := if q % 2 = 0 then trigSin r else trigCos r
      if (decide (q ≥ 2)) != s then y.neg else y
    | x => x

/-- cos v for v ≠ 0. -/
def realCos (v : Num) : Num :=
  if smallArg v then
    let w := (v.mul v).fix
    let w2 := w * w / fxOne
    fixNum (fxOne - w / 2 + w2 / 24 - w2 * w / fxOne / 720 - 1)
  else
    match v with
    | .fin _ m e =>
      let (q, r) := reduceAngle m e
      let y := if q % 2 = 0 then trigCos r else trigSin r
      if q = 1 || q = 2 then y.neg else y
    | x => x

end Sys2Proof.Machine
end

