-- ==== Sys2Proof/Machine/Sfu.lean ====
section
/-!
DEFINITION. The special-function unit (05): argument forming, the functions of R109 with their special cases, bounds
and exact results, and GAUSS (R212). A function is evaluated from the coefficients of the active image (R434), which are
published apart from the spec: free values (log 11), held within what R107, R110, R111 and R118 say of the results.
-/
namespace Sys2Proof.Machine

/-- What a function gave: the value, its numeric flags and whether a domain case arose (R111). -/
structure SfOut where
  value : Acc44
  flags : Nat
  domain : Bool
deriving DecidableEq, Repr

def accOne (neg : Bool) : Acc44 := acc44 neg 1023 0

/-- The exact integer part of a value toward −∞, none for infinities and NaN. -/
def Num.floor : Num → Option Int
  | .fin s m e =>
    if e ≥ 0 then some (if s then -((m * 2 ^ e.toNat : Nat) : Int) else ((m * 2 ^ e.toNat : Nat) : Int))
    else
      let d : Nat := 2 ^ (-e).toNat
      if s then some (-(((m + d - 1) / d : Nat) : Int)) else some (((m / d : Nat) : Int))
  | _ => none

/-- True when a finite value is an integer. -/
def Num.isInt : Num → Bool
  | .fin _ m e => decide (e ≥ 0) || m % 2 ^ (-e).toNat == 0
  | _ => false

/-- 2^n as a value. -/
def Num.pow2 (n : Int) : Num := .fin false 1 n

def Num.ofInt (n : Int) : Num := .fin (decide (n < 0)) n.natAbs 0

/-! ### Evaluation from a table image (R112, R118, R434) -/

/-- A value in ACC44, nearest-even. -/
def accHold (x : Num) : Num := accNum (accRound false x).1

/-- A value to 64 significant bits, nearest-even (R112). -/
def sig64 : Num → Num
  | .fin s m e => if m = 0 then .fin s 0 0 else .fin s (rneUnits m e (lead m e - 63)) (lead m e - 63)
  | x => x

/-- Horner's scheme over the coefficients of a segment, from that of the highest degree down, with a rounding after every
multiply and every add (R434). -/
def horner (img : SfBank) (func seg : Nat) (r : Num) : Nat → Num → Num
  | 0, acc => acc
  | n + 1, acc => horner img func seg r n (accHold ((accHold (acc.mul r)).add (accNum (Config.sfCoef img.body func seg n))))

/-- The polynomial of a segment at a reduced argument. -/
def segPoly (img : SfBank) (func seg deg : Nat) (r : Num) : Num :=
  horner img func seg (accHold r) deg (accNum (Config.sfCoef img.body func seg deg))

/-- An odd polynomial of degree 2·half + 1: the argument times a polynomial in its square. -/
def segOdd (img : SfBank) (func seg half : Nat) (r : Num) : Num :=
  accHold ((accHold r).mul (segPoly img func seg half (r.mul r)))

/-- Which of the segments of width 1/per from `lo` holds a value. -/
def segOf (v lo : Num) (per : Nat) : Nat := (((v.sub lo).mul (Num.ofInt per)).floor.getD 0).toNat

/-- EXP2 of a finite value: n + r, 8 segments, degree 5. -/
def evalExp2 (img : SfBank) (t : Num) : Num :=
  let n := t.floor.getD 0
  let r := t.sub (Num.ofInt n)
  (segPoly img 0 (segOf r Num.zero 8) 5 r).mul (Num.pow2 n)

/-- The product x' × log2 e that EXP reduces: to 64 bits, or in the D1 image to FP32 (R112, R118). -/
def expArg (img : SfBank) (x : Num) : Num :=
  let t := x.mul (.fin false fxLog2e (-200))
  if img.kind = 1 then fp32 (toFP32 t) else sig64 t

def evalExp (img : SfBank) (x : Num) : Num := evalExp2 img (expArg img x)

/-- LOG2 of a positive value: e + log2 m, m in [0.75, 1.5), 16 segments, degree 6; the segment that holds 1 as (m − 1) × P(m − 1). -/
def evalLog2 (img : SfBank) (m : Nat) (e : Int) : Num :=
  let l := lead m e
  let low := decide (2 * m < 3 * 2 ^ Nat.log2 m)
  let sig : Num := .fin false m (e - (if low then l else l + 1))
  let j := segOf sig (.fin false 3 (-2)) 64 / 3
  let one := Num.ofInt 1
  let p := if j = 5 then accHold ((accHold (sig.sub one)).mul (segPoly img 2 j 6 (sig.sub one))) else segPoly img 2 j 6 sig
  p.add (Num.ofInt (if low then l else l + 1))

/-- LOG: LOG2 times ln 2 to 64 bits. -/
def evalLog (img : SfBank) (m : Nat) (e : Int) : Num := (evalLog2 img m e).mul (sig64 (.fin false fxLn2 (-128)))

/-- RECIP: ±2^e × m, m in [1, 2), 16 segments, degree 5. -/
def evalRecip (img : SfBank) : Num → Num
  | .fin s m e =>
    let sig : Num := .fin false m (-(Nat.log2 m : Int))
    let p := (segPoly img 4 (segOf sig (Num.ofInt 1) 16) 5 sig).mul (Num.pow2 (-(lead m e)))
    if s then p.neg else p
  | _ => .nan

/-- RSQRT of a positive value: 4^e × m, m in [1, 4), 24 segments, degree 5. -/
def evalRsqrt (img : SfBank) (m : Nat) (e : Int) : Num :=
  let h := lead m e / 2
  let sig : Num := .fin false m (e - 2 * h)
  (segPoly img 5 (segOf sig (Num.ofInt 1) 8) 5 sig).mul (Num.pow2 (-h))

/-- SIGMOID as 1/(1 + e^−x'). -/
def evalSigmoid (img : SfBank) (x : Num) : Num :=
  evalRecip img (accHold ((Num.ofInt 1).add (accHold (evalExp img x.neg))))

/-- TANH: odd; below 0.5 four segments, degree 9; above it 1 − 2/(1 + e^(2|x'|)). -/
def evalTanh (img : SfBank) (x : Num) : Num :=
  let a := x.abs
  let y :=
    if a.lt (Num.pow2 (-1)) then segOdd img 7 (segOf a Num.zero 8) 4 a
    else
      let d := accHold ((Num.ofInt 1).add (accHold (evalExp img (a.mul (Num.ofInt 2)))))
      (Num.ofInt 1).sub ((accHold (evalRecip img d)).mul (Num.ofInt 2))
  if x.isNeg then y.neg else y

/-- ERF: odd; ±1 from 4 on; below it 16 segments of width 1/4, or 12 of width 1/3 in the D1 image, degree 7, the core odd. -/
def evalErf (img : SfBank) (x : Num) : Num :=
  let a := x.abs
  let j := segOf a Num.zero (if img.kind = 1 then 3 else 4)
  let y := if (Num.ofInt 4).le a then Num.ofInt 1 else if j = 0 then segOdd img 8 0 3 a else segPoly img 8 j 7 a
  if x.isNeg then y.neg else y

/-- GELU: x' × Φ(x'), through ERF from 0 on, from its own 32 segments on [−8, 0), by x' × φ(x') × R(1/x'²)/|x'| below −8. -/
def evalGelu (img : SfBank) (x : Num) : Num :=
  let half := fun (y : Num) => y.mul (Num.pow2 (-1))
  if !x.isNeg then
    let erf := accHold (evalErf img (accHold (x.mul (.fin false fxSqrtHalf (-128)))))
    x.mul (accHold (half ((Num.ofInt 1).add erf)))
  else if (Num.ofInt (-8)).le x then x.mul (segPoly img 9 (segOf x (Num.ofInt (-8)) 4) 7 x)
  else
    let u := accHold (x.mul x)
    let phi := accHold ((accHold (evalExp img (half u.neg))).mul (.fin false fxInvSqrtTwoPi (-128)))
    (phi.mul (segPoly img 9 32 4 (accHold ((Num.ofInt 1).div u)))).neg

/-- SIN and COS of q × π/2 + r: one segment per function and quadrant, degree 9 odd and 8 even. -/
def evalTrig (img : SfBank) (cos : Bool) : Num → Num
  | .fin s m e =>
    let (q, r) := reduceAngle m e
    let v : Num := .fin (decide (r < 0)) r.natAbs (-256)
    let sinPart := (q % 2 == 1) == cos
    let y := if sinPart then segOdd img 10 q 4 v else segPoly img 11 q 4 (v.mul v)
    let neg := if cos then q == 1 || q == 2 else (decide (q ≥ 2)) != s
    if neg then y.neg else y
  | _ => .nan

/-- A D1 function that is within 2 ulp; the others, and every native one, are within 1 (R110, R118). -/
def sfTwoUlp (img : SfBank) (func : Nat) : Bool := img.kind == 1 && (func == 1 || func == 6 || func == 8 || func == 9)

/-- The evaluation `h` of a function whose exact value is not on the SF grid, rounded to it and held within the bound that R110
and R118 say the published images meet: one of the two grid values about the exact one, or of the four of a 2-ulp function
(log 11). A listed exception of the D1 image has its result there (R118). -/
def sfHeld (img : SfBank) (func : Nat) (x : Option Acc44) (h : Num) : Num → Num
  | .fin s m e =>
    let q := lead m e - 23
    let n := if e ≥ q then m * 2 ^ (e - q).toNat else m / 2 ^ (q - e).toNat
    let lo := if sfTwoUlp img func then n - 1 else n
    let hi := if sfTwoUlp img func then n + 2 else n + 1
    let r := if img.kind = 1 then (x.bind (Config.d1Exception img.body func)).elim h accNum else h
    match accNum (sfRound false r).1 with
    | .fin s' m' e' =>
      let k := if s' != s then 0 else rneUnits m' e' q
      .fin s (max lo (min hi k)) q
    | _ => .fin s lo q
  | y => y

/-- A magnitude below the smallest normal ACC44 value (R111). -/
def sfTiny : Num → Bool
  | .fin _ m e => decide (lead m e < -1022)
  | _ => false

/-- A result rounded to the SF grid (R107). -/
def sfOut (strict : Bool) (x : Num) : SfOut :=
  let (v, o) := sfRound strict x
  ⟨v, nfWhen o nfAccOverflow, false⟩

/-- A domain case that saturates to the SF maximum of a sign: an infinity in STRICT numerics (R111). -/
def sfPole (strict neg : Bool) : SfOut :=
  if strict then ⟨accInf neg, 0, false⟩ else ⟨sfMax neg, nfAccOverflow, true⟩

/-- A domain case that gives +0, or a NaN in STRICT numerics (R111). -/
def sfUndef (strict : Bool) : SfOut := if strict then ⟨accNan, 0, false⟩ else ⟨accZero, 0, true⟩

/-- EXP2 and EXP of a finite argument v; `x` is its code, none for a value between two codes (R110, R111). -/
def sfExp (img : SfBank) (func : Nat) (strict : Bool) (x : Option Acc44) (v : Num) : SfOut :=
  let past : SfOut := if strict then ⟨accInf false, 0, false⟩ else ⟨sfMax false, nfAccOverflow, false⟩
  let pick := fun h y => if sfTiny y then ⟨accZero, 0, false⟩ else sfOut strict (sfHeld img func x h y)
  if v.isZero then sfOut strict (Num.ofInt 1)
  else if func = 0 then
    match v.floor with
    | none => sfUndef strict
    | some n =>
      if n ≥ 1024 then past
      else if n < -1022 then ⟨accZero, 0, false⟩
      else if v.isInt then sfOut strict (Num.pow2 n)
      else pick (evalExp2 img v) (realExp2 v.fix)
  -- ln 2 × 1024 lies between 709 and 710, ln 2 × 1022 between 708 and 709
  else if (Num.ofInt 710).le v then past
  else if v.le (Num.ofInt (-709)) then ⟨accZero, 0, false⟩
  else pick (evalExp img v) (realExp v)

/-- LOG2 and LOG of a finite argument. The D1 LOG multiplies the D1 LOG2 by ln 2 and rounds again (R118). -/
def sfLog (img : SfBank) (func : Nat) (strict : Bool) (x : Acc44) (v : Num) : SfOut :=
  match v with
  | .fin s m e =>
    if m = 0 then (if strict then ⟨accInf true, 0, false⟩ else ⟨sfMax true, nfAccOverflow, true⟩)
    else if s then sfUndef strict
    else
      let log2 := if m = 2 ^ Nat.log2 m then Num.ofInt (lead m e) else sfHeld img 2 (some x) (evalLog2 img m e) (realLog2 m e)
      if func = 2 then sfOut strict log2
      else if m = 2 ^ Nat.log2 m && lead m e == 0 then ⟨accZero, 0, false⟩
      else if img.kind = 1 then sfOut strict ((accNum (sfOut strict log2).value).mul (.fin false fxLn2 (-128)))
      else sfOut strict (sfHeld img 3 (some x) (evalLog img m e) (realLog m e))
  | _ => sfUndef strict

/-- RECIP of a finite argument: exact for a power of two (R110). -/
def sfRecip (img : SfBank) (strict : Bool) (x : Acc44) (v : Num) : SfOut :=
  match v with
  | .fin s m e =>
    if m = 0 then sfPole strict s
    else if m = 2 ^ Nat.log2 m then sfOut strict (.fin s 1 (-(e + Nat.log2 m)))
    else sfOut strict (sfHeld img 4 (some x) (evalRecip img v) ((Num.fin false 1 0).div (.fin s m e)))
  | _ => sfUndef strict

/-- Integer square root by bisection on `n` bits. -/
def isqrtBits (m : Nat) : Nat → Nat → Nat
  | 0, r => r
  | n + 1, r => let t := r + 2 ^ n; isqrtBits m n (if t * t ≤ m then t else r)

/-- RSQRT of a finite argument: exact for powers of four (R110). -/
def sfRsqrt (img : SfBank) (strict : Bool) (x : Acc44) (v : Num) : SfOut :=
  match v with
  | .fin s m e =>
    if m = 0 then sfPole strict s
    else if s then sfUndef strict
    else
      let l := lead m e
      if m = 2 ^ Nat.log2 m && l % 2 == 0 then sfOut strict (Num.pow2 (-(l / 2)))
      else
        -- 1/x as n·2^q with q even, then the integer root of n (at least 40 bits)
        match (Num.fin false 1 0).div (.fin false m e) with
        | .fin _ n q =>
          let (n, q) := if q % 2 = 0 then (n * 2 ^ 20, q - 20) else (n * 2 ^ 21, q - 21)
          let r := isqrtBits n (Nat.log2 n / 2 + 1) 0
          sfOut strict (sfHeld img 5 (some x) (evalRsqrt img m e) (.fin false (2 * r + 1) (q / 2 - 1)))
        | _ => sfUndef strict
  | _ => sfUndef strict

/-- SIGMOID, TANH, ERF, GELU, SIN and COS of a finite argument, with their limits and their values at zero (R110 to
R112). -/
def sfOther (img : SfBank) (func : Nat) (strict : Bool) (x : Acc44) (v : Num) : SfOut :=
  let one := Num.ofInt 1
  let signed := fun (y : Num) => if v.isNeg then y.neg else y
  let pick := fun h y =>
    if sfTiny y then (⟨acc44 y.isNeg 0 0, 0, false⟩ : SfOut) else sfOut strict (sfHeld img func (some x) h y)
  if v.isZero then
    match func with
    | 6 => sfOut strict (Num.pow2 (-1))
    | 11 => sfOut strict one
    | _ => ⟨acc44 v.isNeg 0 0, 0, false⟩
  else
    match func with
    | 6 => if (Num.fin false 1733 0).le (v.mul (Num.ofInt 100)) then sfOut strict one else pick (evalSigmoid img v) (realSigmoid v)
    | 7 => if (Num.fin false 902 0).le (v.abs.mul (Num.ofInt 100)) then sfOut strict (signed one) else pick (evalTanh img v) (realTanh v)
    | 8 => if (Num.ofInt 4).le v.abs then sfOut strict (signed one) else pick (evalErf img v) (realErf v)
    | 9 => pick (evalGelu img v) (realGelu v)
    | 10 => pick (evalTrig img false v) (realSin v)
    | _ => pick (evalTrig img true v) (realCos v)

/-- A function at an infinity (R111). -/
def sfInf (func : Nat) (neg : Bool) : Acc44 :=
  match func with
  | 0 => if neg then accZero else accInf false
  | 1 => if neg then accZero else accInf false
  | 2 => if neg then accNan else accInf false
  | 3 => if neg then accNan else accInf false
  | 4 => acc44 neg 0 0
  | 5 => if neg then accNan else accZero
  | 6 => if neg then accZero else accOne false
  | 7 => accOne neg
  | 8 => accOne neg
  | 9 => if neg then acc44 true 0 0 else accInf false
  | _ => accNan

/-- The functions 0x00 to 0x0B at an argument (R109 to R112); `img` is the image of the active bank. -/
def sfEval (img : SfBank) (strict : Bool) (func : Nat) (x : Acc44) : SfOut :=
  match accNum x with
  | .nan => ⟨accNan, 0, false⟩
  | .inf s => ⟨sfInf func s, 0, false⟩
  | v =>
    if func = 0 ∨ func = 1 then sfExp img func strict (some x) v
    else if func = 2 ∨ func = 3 then sfLog img func strict x v
    else if func = 4 then sfRecip img strict x v
    else if func = 5 then sfRsqrt img strict x v
    else if func = 7 ∧ img.kind = 1 then
      -- D1: 2 s − 1 with s the D1 SIGMOID of 2x' (R118)
      let (x2, _) := accRound strict (v.mul (Num.ofInt 2))
      let sg := sfOther img 6 strict x2 (accNum x2)
      sfOut strict (((accNum sg.value).mul (Num.ofInt 2)).sub (Num.ofInt 1))
    else sfOther img func strict x v

/-- The argument x' of a lane (R107): lane × `IN_SCALE` rounded in ACC44; a subnormal scale acts as zero in default
numerics. -/
def sfArg (strict : Bool) (scale : Nat) (lane : Acc44) : Acc44 × Nat :=
  let sc := if !strict && fpClass fmtFP32 fpFP32 scale == .subnormal then Num.zero else fp32 scale
  accRoundF strict ((accNum lane).mul sc)

/-- One lane of a function: argument, evaluation, flags of both (R107). -/
def sfLane (img : SfBank) (strict : Bool) (func scale : Nat) (lane : Acc44) : SfOut :=
  let (x, f) := sfArg strict scale lane
  let o := sfEval img strict func x
  { o with flags := nfOr f o.flags }

/-- GAUSS on a lane with the generator's word (R212). -/
def gaussLane (img : SfBank) (strict : Bool) (scale : Nat) (word : Nat) (lane : Acc44) : SfOut :=
  let (x, f) := sfArg strict scale lane
  let b1 := word % 2 ^ 32
  let b2 := word / 2 ^ 32 % 2 ^ 32
  let u1 := (accRound strict (.fin false (2 * b1 + 1) (-33))).1
  let l := sfEval img strict 2 u1
  let q := sfOut strict ((accNum l.value).mul (fp32 0xBFB17218))
  let r := sfEval img strict 5 q.value
  let s := sfOut strict ((accNum q.value).mul (accNum r.value))
  let a := (accRound strict ((Num.fin false b2 (-32)).mul (fp32 0x40C90FDB))).1
  let c := sfEval img strict 11 a
  let z := sfOut strict ((accNum s.value).mul (accNum c.value))
  let o := sfOut strict ((accNum x).add (accNum z.value))
  ⟨o.value, nfOr f o.flags, l.domain || r.domain || c.domain⟩

end Sys2Proof.Machine
end

