-- ==== Sys2Proof/Machine/Vector.lean ====
section
/-!
DEFINITION. The vector unit (R93): the operations of a VOP word on 512 lanes, and the softmax and row-statistics rules
of 05 on the rows of a set.
-/
namespace Sys2Proof.Machine

/-- Lanes and the numeric flags that forming them raised. -/
abbrev Lanes := List Acc44 × Nat

/-- A list of lane results as lanes and flags. -/
def gatherLanes (l : List (Acc44 × Nat)) : Lanes := (l.map (·.1), l.foldl (fun f x => nfOr f x.2) 0)

/-- The `VOP` codes that R93 defines. -/
def vopKnown (op : Nat) : Bool := decide (op ≤ 0x0A) || (decide (0x10 ≤ op) && decide (op ≤ 0x12)) || op == 0x20

/-- The larger of two values, +0 above −0; a NaN wins (R93). -/
def accMaxOf (a b : Acc44) : Acc44 :=
  let x := accNum a
  let y := accNum b
  match x.cmp y with
  | none => accNan
  | some .lt => b
  | some .gt => a
  | some .eq => if x.isNeg then b else a

/-- The smaller of two values; of a +0 and a −0 it is −0 (log 104); a NaN wins (R93). -/
def accMinOf (a b : Acc44) : Acc44 :=
  let x := accNum a
  let y := accNum b
  match x.cmp y with
  | none => accNan
  | some .lt => a
  | some .gt => b
  | some .eq => if x.isNeg then a else b

/-- A sign change or a magnitude; a NaN is the canonical one (R61). -/
def accSign (f : Num → Bool) (a : Acc44) : Acc44 :=
  match accNum a with
  | .nan => accNan
  | x => if f x then 0x80000000000#44 ||| a else 0x7FFFFFFFFFF#44 &&& a

/-- The lanes that an operation takes: DST, SRC1 and SRC2 (R93). -/
def vopOperands (op : Nat) (d a b : Acc44) : List Acc44 :=
  if op = 0x00 || op = 0x07 || op = 0x08 || op = 0x20 then [a]
  else if op = 0x04 || op = 0x0A then [d, a, b] else [a, b]

/-- An operation on one lane of DST, SRC1 and SRC2 (R93): a NaN operand gives the canonical quiet NaN (R61, R93). -/
def vopLane (strict : Bool) (op : Nat) (d a b : Acc44) : Acc44 × Nat :=
  if (vopOperands op d a b).any (fun x => accNum x == .nan) then (accNan, 0) else
  match op with
  | 0x00 => (a, 0)
  | 0x01 => accRoundF strict ((accNum a).add (accNum b))
  | 0x02 => accRoundF strict ((accNum a).sub (accNum b))
  | 0x03 => accRoundF strict ((accNum a).mul (accNum b))
  | 0x04 => accRoundF strict ((accNum d).add ((accNum a).mul (accNum b)))
  | 0x05 => (accMaxOf a b, 0)
  | 0x06 => (accMinOf a b, 0)
  | 0x07 => (accSign (fun _ => false) a, 0)
  | 0x08 => (accSign (fun x => !x.isNeg) a, 0)
  | 0x09 => (if (accNum b).lt (accNum a) then accOne false else accZero, 0)
  | 0x0A => (if (accNum d).isZero then b else a, 0)
  | 0x20 => toFp32Lane strict a
  | _ => (a, 0)

/-- A row reduction over the lanes of a row group, in ascending column (R93). -/
def rowReduce (strict : Bool) (op : Nat) (row : List Acc44) : Acc44 × Nat :=
  match op with
  | 0x10 => row.foldl (fun acc x => let (v, f) := accRoundF strict ((accNum acc.1).add (accNum x)); (v, nfOr acc.2 f))
      (accZero, 0)
  | _ =>
    let row := if op = 0x12 then row.map (accSign (fun _ => false)) else row
    match row with
    | [] => (accZero, 0)
    | x :: xs => (xs.foldl accMaxOf x, 0)

/-- The n-th row group of 128 lanes. -/
def rowGroup (v : List Acc44) (n : Nat) : List Acc44 := (v.drop (128 * n)).take 128

/-- A VOP on 512 lanes (R93). -/
def vopRun (strict : Bool) (op : Nat) (d a b : List Acc44) : Lanes :=
  if 0x10 ≤ op ∧ op ≤ 0x12 then
    let rs := (List.range 4).map (fun n => rowReduce strict op (rowGroup a n))
    (rs.flatMap (fun r => List.replicate 128 r.1), rs.foldl (fun f r => nfOr f r.2) 0)
  else gatherLanes ((d.zip (a.zip b)).map (fun x => vopLane strict op x.1 x.2.1 x.2.2))

/-! ### Softmax and row statistics (R119 to R125) -/

/-- What an SMX word did to one row: the row, its lanes, whether its range was set now, and numeric flags. -/
structure SmxRow where
  row : RsRow
  lanes : List Acc44
  ranged : Bool
  flags : Nat

/-- The mask value, −∞ in STRICT numerics: excluded whatever the lengths (R120). -/
def laneMasked (strict : Bool) (a : Acc44) : Bool := a == accMask || (strict && a == accInf true)

/-- The score x' of a lane, clamped to ±709, with which side it passed (R121, R122). -/
def smxScore (strict : Bool) (scale : Nat) (a : Acc44) : Num × Option Bool × Nat :=
  let (x, f) := sfArg strict scale a
  let v := accNum x
  if (Num.ofInt 709).lt v then (Num.ofInt 709, some false, f)
  else if v.lt (Num.ofInt (-709)) then (Num.ofInt (-709), some true, f)
  else (v, none, f)

/-- A sum taken into a row's `RS_SUM` (R121): saturation, +∞ and NaN set `SUM_SAT` and `RANGE`, and later additions
leave the sum as it stands. -/
def rsAdd (strict : Bool) (r : RsRow) (part : Acc44) (partSat : Bool) : RsRow :=
  if r.sat then r
  else
    let (v, o) := accRound strict ((accNum r.sum).add (accNum part))
    if partSat || o then { r with sum := if strict then v else accMax false, range := true, sat := true }
    else if (accNum v).isFinite then { r with sum := v }
    else { r with sum := v, range := true, sat := true }

/-- SMX_SUM on one row group: `inc` tells which columns the lengths include (R121). -/
def smxSumRow (img : SfBank) (strict : Bool) (scale : Nat) (r : RsRow) (lanes : List Acc44) (inc : Nat → Bool) : SmxRow :=
  let xs := (lanes.zip (List.range 128)).filter (fun x => inc x.2 && !laneMasked strict x.1)
  let terms := xs.map (fun x =>
    let (v, side, f) := smxScore strict scale x.1
    let t := if side = some true then accZero else (sfEval img strict 1 (accRound strict v).1).value
    (t, side.isSome, f))
  let (part, sat) := terms.foldl (fun (acc : Acc44 × Bool) t =>
    let (v, o) := accRound strict ((accNum acc.1).add (accNum t.1)); (v, acc.2 || o)) (accZero, false)
  let clamped := terms.any (fun t => t.2.1)
  let r' := if xs.isEmpty then r else rsAdd strict r part sat
  let r' := { r' with terms := min (r'.terms + xs.length) (2 ^ 32 - 1), range := r'.range || clamped }
  -- a block partial or a sum that saturates in default numerics (R45)
  let ovf := nfWhen (sat || (!strict && r'.sat && !r.sat)) nfAccOverflow
  ⟨r', List.replicate 128 accZero, clamped || (r'.sat && !r.sat), terms.foldl (fun f t => nfOr f t.2.2) ovf⟩

/-- EXP of d = x' − `RS_LN`, formed exactly (R125). -/
def smxExp (img : SfBank) (strict : Bool) (x : Acc44) (ln : Nat) : SfOut :=
  let d := (accNum x).sub (fp32 ln)
  let a := (accRound strict d).1
  if d.isFinite && (accNum a).cmp d != some .eq then sfExp img 1 strict none d else sfEval img strict 1 a

/-- SMX_PROB on one row group (R125). -/
def smxProbRow (img : SfBank) (strict : Bool) (scale : Nat) (r : RsRow) (lanes : List Acc44) (inc : Nat → Bool) : SmxRow :=
  let outs := (lanes.zip (List.range 128)).map (fun x =>
    if !(inc x.2) || laneMasked strict x.1 then (accZero, false, 0)
    else
      let (v, side, f) := smxScore strict scale x.1
      if side = some true then (accZero, true, f)
      else
        let o := smxExp img strict (accRound strict v).1 r.ln
        (o.value, side.isSome, nfOr f o.flags))
  let clamped := outs.any (fun o => o.2.1)
  ⟨{ r with range := r.range || clamped }, outs.map (·.1), clamped, outs.foldl (fun f o => nfOr f o.2.2) 0⟩

/-- RS_FINISH on a row (R123): the sum on the SF grid and its natural logarithm as FP32, with the numeric flags and the domain
case that they raise (R93, R107, R111). The logarithm of a zero sum is the negative SF maximum, which is held at the negative
largest finite FP32 (log 109). -/
def rsFinish (img : SfBank) (strict : Bool) (r : RsRow) : RsRow × Nat × Bool :=
  if r.terms = 0 then ({ r with sum := accZero, ln := 0 }, 0, false)
  else
    let s := sfOut strict (accNum r.sum)
    let l := sfEval img strict 3 s.value
    ({ r with sum := s.value, ln := toFP32 (accNum l.value) }, nfOr s.flags l.flags, l.domain)

def rsFinishRow (img : SfBank) (strict : Bool) (r : RsRow) : RsRow := (rsFinish img strict r).1

/-- The record of a row (R123, R124): `LN_SUM`, `SUM_SIG`, `SUM_EXP`, `RANGE`, `SUM_SAT`, `TERMS`. -/
def rsRecord (r : RsRow) : List Byte :=
  let sum := match accNum r.sum with
    | .nan => (0x7FC00000, 0)
    | .inf _ => (0x7F800000, 0)
    | x =>
      let v := if r.sum = accMax false then sfMax false else (sfRound false x).1
      match accNum v with
      | .fin _ m e =>
        if m = 0 then (0, 0)
        else
          let l := lead m e
          (toFP32 (.fin false m (e - l)), unsigned 16 l)
      | _ => (0, 0)
  bytesLE 4 r.ln ++ bytesLE 4 sum.1 ++ bytesLE 2 sum.2 ++
    bytesLE 2 ((if r.range then 1 else 0) + (if r.sat then 2 else 0)) ++ bytesLE 4 r.terms

/-- The row that 16 bytes of a record give (R123, R124). -/
def rsOfRecord (strict : Bool) (bs : List Byte) : RsRow :=
  let sig := fieldLE bs 4 4
  let ex := signed 16 (fieldLE bs 8 2)
  let fl := fieldLE bs 10 2
  let base : RsRow := { ln := fieldLE bs 0 4, range := bit fl 0, sat := bit fl 1, terms := fieldLE bs 12 4 }
  match fp32 sig with
  | .nan => if strict then { base with sum := accNan } else { base with sum := accZero, sat := true, range := true }
  | .inf _ => if strict then { base with sum := accInf false } else { base with sum := accMax false, sat := true, range := true }
  | .fin s m e => { base with sum := (accRound strict (.fin s m (e + ex))).1 }

/-- A record's row holds +∞ or a NaN, which default numerics replaces (R123). -/
def rsBad (strict : Bool) (bs : List Byte) : Bool := !strict && !(fp32 (fieldLE bs 4 4)).isFinite

/-- RS_ACC of a row (R123). -/
def rsAccRow (strict : Bool) (r x : RsRow) : RsRow :=
  let y := rsAdd strict r x.sum false
  { y with terms := min (y.terms + x.terms) (2 ^ 32 - 1), range := y.range || x.range, sat := y.sat || x.sat }

/-- The flag of an RS_ACC whose sum saturates in default numerics (R45). -/
def rsAccFlags (strict : Bool) (r x : RsRow) : Nat :=
  nfWhen (!strict && (rsAdd strict r x.sum false).sat && !r.sat) nfAccOverflow

/-- The 32 bytes a BOUNDARY saves for a row (R335). -/
def rsSave (r : RsRow) : List Byte :=
  bytesLE 8 (accSpill r.sum) ++ bytesLE 4 r.ln ++ bytesLE 4 r.terms ++
    bytesLE 1 ((if r.range then 1 else 0) + (if r.sat then 2 else 0)) ++ List.replicate 15 0

/-- The row that a save area's 32 bytes give (R335). -/
def rsRestore (bs : List Byte) : RsRow :=
  let fl := fieldLE bs 16 1
  { sum := accRefill (fieldLE bs 0 8), ln := fieldLE bs 8 4, terms := fieldLE bs 12 4, range := bit fl 0, sat := bit fl 1 }

end Sys2Proof.Machine
end

