-- ==== Sys2Proof/Machine/Expand.lean ====
section
/-!
DEFINITION. The words and tables of a strand in memory, and the expansion of a loop nest into BIND, LOAD, SWEEP and BOUNDARY
words, problem by problem (R94, R131 to R137, R139, R144 to R147, R191).
-/
namespace Sys2Proof.Machine

/-- Address of word n of a strand's program (R94). -/
def Strand.wordAddr (t : Strand) (c n : Nat) : Nat := canonAddr c (t.prog + 32 + 8 * n)

/-- Word n of a strand's program as it stands in memory. -/
def State.progWord (s : State) (c i n : Nat) : Nat := s.num ((s.strand c i).wordAddr c n) 8

/-- The address of a counter record is one of Gallery memory (R102). -/
def State.counterOk (s : State) (a : Nat) : Bool := decide (regionOf a = some .gallery) && s.mapped a 16

/-- Address of a ready counter of a strand's counter table (R94). -/
def State.ctrAddr (s : State) (c i ctr : Nat) : Nat := canonAddr c (s.num (canonAddr c ((s.strand c i).ctrBase + 8 * ctr)) 8)

/-- The counter that a WAIT or a SIGNAL names: its table entry and its record can be read, and the record is one of Gallery
memory (R87, R94, R102). -/
def State.counterAt (s : State) (c i ctr : Nat) : Except RdErr Nat := do
  let a := canonAddr c (← s.rd (canonAddr c ((s.strand c i).ctrBase + 8 * ctr)) 8)
  if !s.counterOk a then .error (.addr a) else if s.poisoned a 16 then .error (.poison a) else .ok a

/-- The 64 bytes of entry d of a strand's descriptor table (R94). -/
def State.descBytes (s : State) (c i d : Nat) : List Byte := s.bytes (canonAddr c ((s.strand c i).descBase + 64 * d)) 64

/-- The first entry of a strand's descriptor table, among those that a word names, whose read is uncorrectable (R87). -/
def State.entryPoison (s : State) (c i : Nat) (ds : List Nat) : Option Nat :=
  (ds.map (fun d => canonAddr c ((s.strand c i).descBase + 64 * d))).find? (fun a => s.poisoned a 64)

/-- What a strand has in force outside a NEST: the length registers (R97). -/
def State.strandCtx (s : State) (c : Nat) : NestCtx := { lens := s.lens c }

/-- What is in force for the word that a strand issues: that of the NEST which emitted it, else the registers (R135). -/
def State.wordCtx (s : State) (c i : Nat) : NestCtx :=
  match (s.strand c i).emit with | e :: _ => e.ctx | [] => s.strandCtx c

/-- The loop-nest descriptor that 64 bytes spell (R131). -/
def NestDesc.of (bs : List Byte) : NestDesc :=
  let w := natLE bs
  { level := bits w 1 0, order := bits w 4 2, batch := bits w 6 5, bankStart := bits w 7 7, inner := bits w 15 8
    aDesc := bits w 23 16, bDesc := bits w 31 24, outDesc := bits w 39 32, spillOut := bits w 47 40
    spillIn := bits w 55 48, tagBase := bits w 63 56, mExt := bits w 83 64, nExt := bits w 115 96
    kExt := bits w 151 128, mOrg := bits w 179 160, nOrg := bits w 211 192, kOrg := bits w 247 224
    bndEvery := bits w 271 256, batchCount := bits w 319 288, batchList := bits w 383 320, foldBlk := bits w 403 384
    foldStride := bits w 463 416, bndNoBase := bits w 511 464 }

/-- The operand pair that two delivered formats form (R40, R66). -/
def pairOf (fa fb : Nat) : Option Nat := (List.range 6).find? (fun p => pairFormats p == some (fa, fb))

/-! ### The walk (R133) -/

/-- The origins of `n` / `step` tiles from `org` on. -/
def origins (org n step : Nat) : List Nat := (List.range (n / max 1 step)).map (fun i => org + i * step)

/-- Triples (m, n, k) of three axes in a loop order (R131). -/
def inOrder (order : Nat) (ms ns ks : List Nat) : List (Nat × Nat × Nat) :=
  match order with
  | 0 => ms.flatMap (fun m => ns.flatMap (fun n => ks.map (fun k => (m, n, k))))
  | 1 => ns.flatMap (fun n => ms.flatMap (fun m => ks.map (fun k => (m, n, k))))
  | 2 => ms.flatMap (fun m => ks.flatMap (fun k => ns.map (fun n => (m, n, k))))
  | 3 => ns.flatMap (fun n => ks.flatMap (fun k => ms.map (fun m => (m, n, k))))
  | 4 => ks.flatMap (fun k => ms.flatMap (fun m => ns.map (fun n => (m, n, k))))
  | _ => ks.flatMap (fun k => ns.flatMap (fun n => ms.map (fun m => (m, n, k))))

/-- The Pocket-level tiles of a chain in the order of its levels, by their origins. -/
def nestLeaves : List NestDesc → Nat × Nat × Nat → List (Nat × Nat × Nat)
  | o :: i :: rest, p =>
    (inOrder o.order (origins p.1 o.mExt i.mExt) (origins p.2.1 o.nExt i.nExt) (origins p.2.2 o.kExt i.kExt)).flatMap
      (nestLeaves (i :: rest))
  | _, p => [p]

/-- What the walk meets: blocks passed over, counted in `CH_SKIP_TILES` or `CH_GROUP_SKIPS`, or a bank run. -/
inductive NestItem where
  | skip (tiles : Nat)
  | run (m n : Nat) (ks : List Nat) (init last zeroFed : Bool) (groupSkips : Nat)
deriving DecidableEq, Repr

/-- One problem's bounds (R135): first and last M and N element, the end of the blocks that are the problem's own (R146), kept K
blocks, and the group of a mode 3 operand B: channel blocks per tap and q of R191. -/
structure NestBounds where
  mLo : Nat
  mEnd : Nat
  mTop : Nat
  nLo : Nat
  nEnd : Nat
  nTop : Nat
  keptK : Nat
  group : Option (Nat × Nat)
deriving DecidableEq, Repr

/-- K blocks that a run visits for output block n (R191). -/
def NestBounds.visits (b : NestBounds) (n k : Nat) : Bool :=
  match b.group with
  | none => true
  | some (per, q) => k % max 1 per / q == n / q

/-- One output block of a leaf (R133, R139, R191). -/
def nestBlock (top : NestDesc) (b : NestBounds) (kExt m n k0 : Nat) : List NestItem :=
  let kEnd := min (top.kOrg + top.kExt) b.keptK
  if b.mEnd ≤ 128 * m || b.nEnd ≤ 128 * n then [.skip kExt]
  else if kEnd ≤ top.kOrg then
    if k0 = top.kOrg then [.skip (kExt - 1), .run m n [top.kOrg] true true true 0] else [.skip kExt]
  else if kEnd ≤ k0 then [.skip kExt]
  else
    let hi := min (k0 + kExt) kEnd
    let all := (List.range (hi - k0)).map (fun j => k0 + j)
    let ks := all.filter (b.visits n)
    let init := k0 == top.kOrg
    let last := decide (kEnd ≤ hi)
    let far := NestItem.skip (k0 + kExt - hi)
    if ks.isEmpty then [far, .run m n [hi - 1] init last true (all.length - 1)]
    else [far, .run m n ks init last false (all.length - ks.length)]

/-- The items of one Pocket-level tile, in the Pocket level's order (R133). -/
def nestLeaf (top leaf : NestDesc) (b : NestBounds) (p : Nat × Nat × Nat) : List NestItem :=
  let ms := (List.range leaf.mExt).map (fun j => p.1 + j)
  let ns := (List.range leaf.nExt).map (fun j => p.2.1 + j)
  ((inOrder leaf.order ms ns [p.2.2]).filter (fun x =>
    decide (b.mLo ≤ 128 * x.1) && decide (128 * x.1 < b.mTop) && decide (b.nLo ≤ 128 * x.2.1) && decide (128 * x.2.1 < b.nTop))).flatMap
    (fun x => nestBlock top b leaf.kExt x.1 x.2.1 x.2.2)

/-! ### Problems (R144 to R146) -/

/-- What problem `p` has in force: that of its list entry, checked as R145 says, or of its fold (R144 to R146). -/
def nestEntry (s : State) (c : Nat) (top : NestDesc) (lens : List Nat) (base : Nat → Nat) (p : Nat) : Entry :=
  match top.batch with
  | 0 => .ok { lens := lens }
  | 1 =>
    let at' := canonAddr c (top.batchList + 48 * p)
    match s.rdBytes at' 48 with
    | .error e => .bad e
    | .ok bs =>
      let keep := 0xFFFFFFFFFFFFFFFF
      let ok := fun v => v == keep || (decide (v < 2 ^ 48) && decide (v % 64 = 0))
      let a := fieldLE bs 0 8
      let b := fieldLE bs 8 8
      let o := fieldLE bs 16 8
      if !(ok a && ok b && ok o && zeroLE bs 36 12) then .bad (.addr at')
      else
        let spill := fun d => if d = 0xFF then [] else [(d, o + base d - base top.outDesc)]
        .ok { lens := lens, problem := p, listed := p
              bases := (if a = keep then [] else [(top.aDesc, a)]) ++ (if b = keep then [] else [(top.bDesc, b)]) ++
                (if o = keep then [] else (top.outDesc, o) :: (spill top.spillOut ++ spill top.spillIn))
              mLen := fieldLE bs 24 4, nLen := fieldLE bs 28 4, kLen := fieldLE bs 32 4 }
  | 2 => .ok { lens := lens, problem := p, mOrg := 128 * (top.mOrg + p * top.foldBlk)
               bases := [(top.bDesc, base top.bDesc + p * top.foldStride)] }
  | _ => .ok { lens := lens, problem := p, nOrg := 128 * (top.nOrg + p * top.foldBlk)
               bases := [(top.aDesc, base top.aDesc + p * top.foldStride)] }

/-- Problems of a NEST. -/
def NestDesc.problems (top : NestDesc) : Nat := if top.batch = 0 then 1 else top.batchCount

/-- A descriptor's view where only its bounds are asked: a page reference or a geometry record that fails stops the first LOAD or
BIND that names it, and not the NEST (R161, R189). -/
def boundsView (s : State) (c di : Nat) (bs : List Byte) (role : Role) (x : NestCtx) : View :=
  match mkView s c di bs role x with | .ok v => v | .error _ => baseView c di bs role x

/-- The end of the key blocks of a score run that begin below the sequence length, in elements (R160). -/
def View.keyEnd (v : View) (s : State) : Nat :=
  match v.page with
  | none => v.cEnd
  | some r =>
    match (List.range (ceilDiv v.cEnd 128)).find? (fun j =>
        match r.lpage s j with | .ok p => decide (v.seqLen ≤ 128 * p.1) | .error _ => false) with
    | some j => min v.cEnd (128 * j)
    | none => v.cEnd

/-- The bounds of a problem (R135, R160, R191). -/
def nestBounds (s : State) (c i : Nat) (top : NestDesc) (x : NestCtx) : NestBounds :=
  let a := boundsView s c top.aDesc (s.descBytes c i top.aDesc) .opA x
  let b := boundsView s c top.bDesc (s.descBytes c i top.bDesc) .opB x
  let o := boundsView s c top.outDesc (s.descBytes c i top.outDesc) .out x
  let isScore := b.page.isSome && b.half == 0
  let fold := 128 * top.foldBlk
  { mLo := x.mOrg
    mEnd := min a.rEnd o.rEnd
    mTop := if top.batch = 2 then x.mOrg + fold else 2 ^ 40
    nLo := x.nOrg
    nEnd := if isScore then b.keyEnd s else min b.cEnd o.cEnd
    nTop := if top.batch = 3 then x.nOrg + fold else 2 ^ 40
    keptK := ceilDiv (min a.cEnd b.rEnd) 128
    group := match b.geom with
      | some g => if g.lower = 3 then some (ceilDiv g.cSrc 128, max 1 (g.group / 128)) else none
      | none => none }

/-! ### Emission (R133, R134, R136) -/

/-- What the expansion has gathered. -/
structure Expansion where
  words : List Emit := []
  runs : Nat := 0
  bank : Nat := 0
  skips : Nat := 0
  groupSkips : Nat := 0
deriving DecidableEq, Repr

/-- The words of one bank run. -/
def runWords (top : NestDesc) (pair bank m n : Nat) (ks : List Nat) (init last : Bool) : List EWord :=
  let tag := top.tagBase + bank
  let lo := ks.headD 0
  let hi := ks.getLastD 0
  (.bind tag (if last then top.outDesc else top.spillOut) m n) ::
    ((if init then [] else [.load top.spillIn 2 bank m n]) ++
     ks.flatMap (fun k =>
      [.load top.aDesc 0 0 k m, .load top.bDesc 1 0 k n, .sweep pair bank (init && k == lo) (k == hi) k tag]))

/-- The words of a run as emitted: the run is counted with the SWEEP that ends it (R133, R151). -/
def emitRun (x : NestCtx) (zero spill : Bool) (m n runs : Nat) (ws : List EWord) : List Emit :=
  ws.map (fun w =>
    { word := w, ctx := x, zeroFed := zero, m := m, n := n, spill := spill
      runs := match w with | .sweep _ _ _ true _ _ => runs | .boundary _ => runs | _ => runs - 1 })

/-- Adds an item; the first `resume` runs emit nothing (R136). -/
def Expansion.add (e : Expansion) (top : NestDesc) (pair resume : Nat) (x : NestCtx) : NestItem → Expansion
  | .skip n => if e.runs < resume then e else { e with skips := e.skips + n }
  | .run m n ks init last zero gs =>
    let runs := e.runs + 1
    if runs ≤ resume then { e with runs := runs, bank := 1 - e.bank }
    else
      let bnd := if top.bndEvery ≠ 0 && runs % top.bndEvery = 0 then [EWord.boundary (top.bndNoBase + runs)] else []
      { words := e.words ++ emitRun x zero (!last) m n runs (runWords top pair e.bank m n ks init last ++ bnd)
        runs := runs, bank := 1 - e.bank, skips := e.skips, groupSkips := e.groupSkips + gs }

/-- The expansion of one problem (R133). -/
def expand (s : State) (c i : Nat) (chain : List NestDesc) (top leaf : NestDesc) (pair resume : Nat) (x : NestCtx)
    (e : Expansion) : Expansion :=
  ((nestLeaves chain (top.mOrg, top.nOrg, top.kOrg)).flatMap (nestLeaf top leaf (nestBounds s c i top x))).foldl
    (fun e it => e.add top pair resume x it) e

/-- The chain of loop-nest descriptors that a NEST names, outermost first (R131), as bytes. -/
def State.chainBytes (s : State) (c i : Nat) : Nat → Nat → List (List Byte)
  | 0, d => [s.descBytes c i d]
  | n + 1, d =>
    let bs := s.descBytes c i d
    let nd := NestDesc.of bs
    if nd.level = 0 || nd.inner = 0xFF then [bs] else bs :: s.chainBytes c i n nd.inner

/-- The plan's descriptors, outermost first. -/
def NestPlan.descs (p : NestPlan) : List NestDesc := p.chain.map NestDesc.of
def NestPlan.top (p : NestPlan) : NestDesc := NestDesc.of (p.chain.headD [])
def NestPlan.leaf (p : NestPlan) : NestDesc := NestDesc.of (p.chain.getLastD [])

/-- The entry of a problem of a plan. -/
def State.planEntry (s : State) (c i : Nat) (p : NestPlan) (n : Nat) : Option Entry :=
  if n < p.top.problems then
    some (nestEntry s c p.top p.lens (fun d => (Desc.of (s.descBytes c i d)).base) n)
  else none

/-- The plan reads the entry of problem n, one ahead of its use (R144, R145). -/
def State.readEntry (s : State) (c i : Nat) (p : NestPlan) (n : Nat) : NestPlan × State :=
  ({ p with next := n, entry := s.planEntry c i p n },
   if p.top.batch = 1 && decide (n < p.top.problems) then
     let a := canonAddr c (p.top.batchList + 48 * n) / 32 * 32
     ([a, a + 32].foldl (fun s a => (s.dripRead (c / 8) a 32).2) s).bump .chBatchEntries c 1
   else s)

/-- The plan's next problem is expanded, and the entry after it is read; one whose entry failed becomes the word that stops the
strand (R133, R144, R145). -/
def State.nestStep (s : State) (c i : Nat) (p : NestPlan) (x : Entry) : State :=
  match x with
  | .bad e =>
    s.modStrand c i (fun t => { t with emit := [{ word := .stop e, ctx := { lens := [] }, runs := p.runs }]
                                       nest := some { p with entry := none } })
  | .ok ctx =>
    let e := expand s c i p.descs p.top p.leaf p.pair p.resume ctx { runs := p.runs, bank := p.bank }
    let (p', s) := s.readEntry c i { p with runs := e.runs, bank := e.bank } (p.next + 1)
    let s := (s.bump .chSkipTiles c e.skips).bump .chGroupSkips c e.groupSkips
    let s := s.setReg .chNestRuns c i (max (s.reg .chNestRuns c i) (min p.resume e.runs))
    s.modStrand c i (fun t => { t with emit := e.words, nest := some p' })

/-- A NEST whose last word has issued: the `PC` passes it (R133, R151). -/
def State.nestDone (s : State) (c i : Nat) : State :=
  ((s.modStrand c i (fun t => { t with nest := none })).setReg .chPc c i (s.reg .chPc c i + 1)).setReg .chNestActive c i 0

/-- Expands problems up to one that emits words; a NEST with none left is done. -/
def State.nestAdvance (c i : Nat) : Nat → State → State
  | 0, s => s.nestDone c i
  | n + 1, s =>
    match (s.strand c i).nest.bind (fun p => p.entry.map (fun x => (p, x))) with
    | none => s.nestDone c i
    | some (p, x) =>
      let s := s.nestStep c i p x
      if (s.strand c i).emit.isEmpty then State.nestAdvance c i n s else s

/-- Problems that a strand's NEST has left. -/
def Strand.nestLeft (t : Strand) : Nat := match t.nest with | some p => p.top.problems - p.next | none => 0

end Sys2Proof.Machine
end

