-- ==== Sys2Proof/Machine/Issue.lean ====
section
/-!
DEFINITION. The chamber sequencer: which word may issue (R99), the readiness scheduler (R100), what happens to a strand
that an error stops (R87, R161, R189, R209), and the writes a read waits for (R101).
-/
namespace Sys2Proof.Machine

/-! Values of `STATE` (R106). -/
def psEmpty : Nat := 0
def psAdmitting : Nat := 1
def psReady : Nat := 2
def psWaiting : Nat := 3
def psRunning : Nat := 4
def psDone : Nat := 5
def psRefused : Nat := 6

/-! Kinds of events that go up the control tree (R20, R106, R330). -/
def evAddrErr : Nat := 1
def evPage : Nat := 2
def evGeom : Nat := 3
def evFlow : Nat := 4
def evUncorr : Nat := 5
def evIdxRange : Nat := 6
def evFacetWord : Nat := 7
def evCheckFail : Nat := 8
def evPoison : Nat := 9
def evWaitTimeout : Nat := 10
def evAdmitRefused : Nat := 11
def evGmask : Nat := 12
def evEpoch : Nat := 13
def evTable : Nat := 14
def evRetire : Nat := 15
def evOther : Nat := 16

/-! ### Look-ahead (R99) -/

/-- The first unsatisfied WAIT before the next SWEEP with `INIT` = 1, the next NEST or the next END: its counter's index
and address and its target (R99). `n` words are left from index `pc`. A WAIT whose counter cannot be read holds nothing back:
it stops its strand when it issues (R87). A SIGNAL that stands before the WAIT issues first (R193 to R195; log 114). -/
def State.waitAhead (s : State) (c i : Nat) : Nat → Nat → Option (Nat × Nat × Nat)
  | 0, _ => none
  | n + 1, pc =>
    let w := s.progWord c i pc
    let op := w % 256
    if op = 0x50 then
      match s.counterAt c i (bits w 15 8) with
      | .error _ => s.waitAhead c i n (pc + 1)
      | .ok a =>
        if s.count a ≥ bits w 63 16 then s.waitAhead c i n (pc + 1) else some (bits w 15 8, a, bits w 63 16)
    else if op = 0x7F || op = 0x61 || op = 0x51 || (op = 0x10 && bit w 12) then none
    else s.waitAhead c i n (pc + 1)

/-- The unsatisfied WAIT that keeps a strand from being eligible. -/
def State.heldBy (s : State) (c i : Nat) : Option (Nat × Nat × Nat) :=
  let t := s.strand c i
  if t.emit.isEmpty then s.waitAhead c i (t.words - s.reg .chPc c i) (s.reg .chPc c i) else none

/-! ### The scheduler (R99, R100) -/

/-- A strand that could run but for WAITs and holds. -/
def State.strandLive (s : State) (c i : Nat) : Bool :=
  let t := s.strand c i
  !t.stopped && !t.ended && (s.reg .chState c i == psReady || s.reg .chState c i == psRunning)

/-- A strand is eligible (R99). -/
def State.eligible (s : State) (c i : Nat) : Bool :=
  s.strandLive c i && s.chamberRuns c && (s.heldBy c i).isNone

/-- `IDLE` as the strands now stand (R106). -/
def State.syncIdle (s : State) (c : Nat) : State := s.put .chIdle c (if (List.range 4).any (s.eligible c) then 0 else 1)

/-- A strand waits on a counter: `STATE` 3, and a watch with the counter's steward where one of its 64 is free (R103,
R235). -/
def State.park (s : State) (c i ctr a target : Nat) : State :=
  let s := (s.setReg .chState c i psWaiting).setReg .chWaitCtr c i ctr
  let s := s.modStrand c i (fun t => { t with waitAddr := a, waitTarget := target, timedOut := false, waitSince := s.now })
  let g := galleryOf a
  if (s.gallery g).watches.length < 64 then
    s.modGallery g (fun x => { x with watches := x.watches ++ [(a, target, c, i)] })
  else s

/-- The strands of a Chamber that a WAIT ahead keeps from running are set waiting on it; a strand with an open run keeps
the Chamber (R100). -/
def State.parkAll (s : State) (c : Nat) : State :=
  (List.range 4).foldl (fun s i =>
    if s.strandLive c i && (s.strand c i).runs.isEmpty then
      match s.heldBy c i with
      | some (ctr, a, target) => s.park c i ctr a target
      | none => s
    else s) s

/-- Whether strand i goes before strand j: priority, then the running strand, then the longest wait since its last
issue, then the lower number (R100). -/
def State.goesBefore (s : State) (c running i j : Nat) : Bool :=
  let p := fun k => s.reg .chPriority c k
  let l := fun k => (s.strand c k).lastIssue
  if p i ≠ p j then decide (p i > p j)
  else if i = running then true
  else if j = running then false
  else if l i ≠ l j then decide (l i < l j)
  else decide (i < j)

/-- The eligible strand that the scheduler takes (R100). -/
def State.pick (s : State) (c running : Nat) : Option Nat :=
  ((List.range 4).filter (s.eligible c)).foldl (fun best i =>
    match best with
    | none => some i
    | some j => if s.goesBefore c running i j then some i else some j) none

/-- A switch point of the Chamber (R100). -/
def State.switchPoint (s : State) (c : Nat) : State :=
  -- STATE of a strand that gives up the Chamber and stays eligible is still RUNNING (log 106)
  let running := s.reg .chCurStrand c
  let s := s.parkAll c
  match s.pick c running with
  | none => (s.put .chCurStrand c 4).put .chIdle c 1
  | some i =>
    let s := (s.put .chCurStrand c i).put .chIdle c 0
    match (s.chamber c).lastStrand with
    | some l => if l = i then s else (s.bump .chStrandSwitch c 1).modChamber c (fun x => { x with lastStrand := some i })
    | none => s.modChamber c (fun x => { x with lastStrand := some i })

/-- With no strand issuing, the scheduler takes one as soon as one is eligible. -/
def State.settle (s : State) (c : Nat) : State := if s.reg .chCurStrand c = 4 then s.switchPoint c else s

/-! ### Issue -/

/-- Whether strand i of Chamber c may issue a word now: it has the Chamber, it is READY or RUNNING, nothing holds the
Chamber, and where a NEST is expanding the word is the one it emits next (R98, R99, R133). -/
def State.mayIssue (s : State) (c i : Nat) (e : Option EWord) : Bool :=
  s.reg .chCurStrand c == i && s.chamberRuns c && s.strandLive c i &&
    (match (s.strand c i).emit with | [] => true | x :: _ => some x.word == e)

/-- The registers of R151 as an emitted word leaves them. -/
def State.nestRegs (s : State) (c i : Nat) (e : Emit) : State :=
  let s := ((s.setReg .chNestM c i e.m).setReg .chNestN c i e.n).setReg .chNestBatch c i e.ctx.problem
  let s := match e.word with | .sweep _ _ _ _ k _ => s.setReg .chNestK c i k | _ => s
  let before := s.reg .chNestRuns c i
  let s := if e.runs > before then (s.bump .chNestRunsTotal c (e.runs - before)).setReg .chNestRuns c i e.runs else s
  match e.word with
  | .sweep _ _ _ true _ _ => if e.spill then s.bump .chSpillRuns c 1 else s
  | _ => s

/-! ### Errors that stop a strand -/

/-- The offset of the Chamber's error register that an event of a strand changes (R83, R106, R172, R185, R202, R217). -/
def errOffset (kind : Nat) : Nat :=
  if kind = evPage then 0x500 else if kind = evGmask then 0x680 else if kind = evGeom || kind = evFlow then 0x700
  else if kind = evIdxRange then 0x904 else if kind = evFacetWord || kind = evCheckFail || kind = evPoison then 0x84
  else if kind = evTable then 0x304 else 0x108

/-- An event of a strand: its number, its `PC` and a datum (R106); with a log entry of class 0x01 (R326). -/
def State.strandEvent (s : State) (c i kind datum : Nat) : State :=
  let s := s.log 0 c (if kind = evAdmitRefused || kind = evFacetWord then 0x0102 else 0x0101)
    (bytesLE 4 (s.regWord .ch c (errOffset kind)) ++ bytesLE 4 (s.reg .chPc c i) ++ bytesLE 1 i)
  s.raise 0 c kind [i, s.reg .chPc c i, datum]

/-- A strand stops on an error; where it has the Chamber, the Chamber passes to another (R87, R100). -/
def State.stopStrand (s : State) (c i kind datum : Nat) : State :=
  let s := s.modStrand c i (fun t => { t with stopped := true })
  let s := s.strandEvent c i kind datum
  if s.reg .chCurStrand c = i then s.switchPoint c else s

/-- The bits of `CH_PAGE_ERR` (R172). -/
def pageErrFields : List Field :=
  [.chPageInvalid, .chPageStale, .chPageFormat, .chListOrder, .chPageRange, .chRefErr, .chPageScale]

def State.pageErrBits (s : State) (c : Nat) : Nat :=
  (List.range 7).foldl (fun a b => a + s.reg (pageErrFields.getD b .chRefErr) c * 2 ^ b) 0

/-- A walk error: its bit, and its record while every bit was clear (R161). -/
def State.pageError (s : State) (c i : Nat) (e : PageErr) : State :=
  let s := if s.pageErrBits c = 0 then
      ((((((s.put .chErrLpage c e.lpage).put .chErrGenFound c e.genFound).put .chErrGenWant c e.genWant).put .chErrStrand c
        i).put .chErrTableId c e.tableId).put .chErrListPos c e.listPos)
    else s
  let s := s.flag (pageErrFields.getD e.bit .chRefErr) c
  s.stopStrand c i evPage (2 ^ e.bit)

/-- A geometry record or a Flowstone block was bad (R189, R202); the record is kept while `GEOM_ERR` is clear. -/
def State.geomError (s : State) (c i a : Nat) (flow : Bool) : State :=
  let s := if s.reg .chGeomErr c = 0 then s.put .chGeomErrAddr c a else s
  if flow then (s.flag .chFsErr c).stopStrand c i evFlow a else (s.flag .chGeomErr c).stopStrand c i evGeom a

/-- A fault of class 0x01 of a Chamber: `LAST_FAULT_TS` (R338, R356). -/
def State.faultTime (s : State) (c : Nat) : State :=
  (s.modChamber c (fun x => { x with prevFault := s.reg .chLastFaultTs c })).put .chLastFaultTs c s.now

/-- An uncorrectable read by a requester other than the feed (R87, R236, R237). -/
def State.uncorrStop (s : State) (c i a : Nat) : State :=
  let s := s.memUncorr a
  let s := if regionOf a = some .pocket then (s.flag .chPocketUncorr c).faultTime c else s
  s.stopStrand c i evUncorr a

/-- What an access that stopped does to its strand. -/
def State.rdFail (s : State) (c i : Nat) : RdErr → State
  | .addr a => (s.flag .chAddrErr c).stopStrand c i evAddrErr a
  | .page e => s.pageError c i e
  | .geom a => s.geomError c i a false
  | .flow a => s.geomError c i a true
  | .poison a => s.uncorrStop c i a

/-- A word has issued: the strand is RUNNING and is the one that issued last (R100, R106). -/
def State.noteIssue (s : State) (c i : Nat) (issued : Bool) : State :=
  let s := s.modChamber c (fun x => { x with issues := x.issues + 1 })
  let s := s.modStrand c i (fun t => { t with lastIssue := (s.chamber c).issues })
  let s := if s.reg .chState c i = psReady then s.setReg .chState c i psRunning else s
  if issued then s.bump .chIssued c 1 i else s

/-! ### Outstanding writes of a strand (R101) -/

/-- The range that a DRAINING bank's Store will write. -/
def State.bankSpan (s : State) (c : Nat) (b : BankData) : List Span :=
  match b.bound with
  | none => []
  | some o =>
    match mkView s c o.desc o.bytes .out o.ctx o.tokenOrg with
    | .error _ => [spaceSpan c (Desc.of o.bytes).space]
    | .ok v => [v.span (128 * o.blkM) 128 (128 * o.blkN) 128]

/-- `BANK0_STATE` or `BANK1_STATE`. -/
def bankField (b : Nat) : Field := if b = 0 then .chBank0State else .chBank1State

/-- The ranges of a strand's writes that are not complete: tiles in the Store's buffer and DRAINING banks. -/
def State.writesOut (s : State) (c i : Nat) : List Span :=
  let x := s.chamber c
  (x.store.filter (fun t => t.strand == i)).map (·.span) ++
    ((List.range 2).filter (fun b => s.reg (bankField b) c == 2 && (x.bank b).owner == i)).flatMap
      (fun b => s.bankSpan c (x.bank b))

/-- Every earlier word of a strand has completed: no drain, verdict or write of it is left (R100, R104). -/
def State.quiet (s : State) (c i : Nat) : Bool := (s.writesOut c i).isEmpty

/-- A list entry that failed stops its strand once the problems before it have completed (R145). -/
def State.nestStop (s : State) (c i : Nat) : State :=
  match (s.strand c i).emit with
  | x :: _ =>
    (match x.word with
     | .stop e => if s.quiet c i && !(s.strand c i).stopped then s.rdFail c i e else s
     | _ => s)
  | [] => s

/-- The strand passes its word: the emitted word goes, or the `PC` advances. A skipped word is not issued (R97, R98,
R106). The last word of a problem is followed by those of the next. -/
def State.passWord (s : State) (c i : Nat) (issued : Bool) : State :=
  let t := s.strand c i
  let s := match t.emit with
    | [] => s.setReg .chPc c i (s.reg .chPc c i + 1)
    | e :: rest =>
      let s := s.modStrand c i (fun t => { t with emit := rest })
      let s := s.nestRegs c i e
      if rest.isEmpty then State.nestAdvance c i t.nestLeft s else s
  (s.noteIssue c i issued).nestStop c i

/-- A logical index reached 2^56 (R209). -/
def State.idxRange (s : State) (c i : Nat) : State := (s.flag .chIdxRange c).stopStrand c i evIdxRange 0

/-- A SWEEP or a refill LOAD is refused at issue: the error bit, `OWN_HOLD` and the event (R67, R78). -/
def State.facetRefuse (s : State) (c i : Nat) (f : Field) : State :=
  ((s.flag f c).ownHold c).stopStrand c i evFacetWord 0

/-! ### Reads and levels -/

/-- A read of a range must wait for an earlier write of its strand (R101). -/
def State.mustWait (s : State) (c i : Nat) (r : Span) : Bool := (s.writesOut c i).any (·.meets r)

/-- `WRITES_OUT` follows the tracked ranges of all strands (R106). -/
def State.syncWrites (s : State) (c : Nat) : State :=
  s.put .chWritesOut c (min 15 (((List.range 4).map (fun i => (s.writesOut c i).length)).foldl (· + ·) 0))

/-- The feed queue levels: of the words that have been delivered and not popped, up to eight stand in a queue (R71, R83). -/
def State.syncFeed (s : State) (c : Nat) : State :=
  let lvl := fun (f : Strand → List Tile) =>
    min 8 (((List.range 4).flatMap (fun i => (f (s.strand c i)).map (·.words.length))).foldl (· + ·) 0)
  (s.put .chAfeedLevel c (lvl (·.feedA))).put .chBfeedLevel c (lvl (·.feedB))

/-- The table image that serves a Chamber: that of the active bank, of the kind that `ACTIVE_KIND` shows (R116). A bank that
no load has filled holds no image (log 54). -/
def State.sfImage (s : State) (c : Nat) : SfBank :=
  let x := s.chamber c
  { ((if s.reg .chActiveBank c = 0 then x.sf0 else x.sf1).getD {}) with kind := s.reg .chActiveKind c }

/-- A pending table bank becomes active at an epoch boundary (R116). -/
def State.switchTables (s : State) (c : Nat) (inFlight : Bool) : State :=
  if s.reg .chLoadState c ≠ 2 then s
  else
    let bank := 1 - s.reg .chActiveBank c
    let b := (if bank = 0 then (s.chamber c).sf0 else (s.chamber c).sf1).getD {}
    let epoch := (s.reg .chSfEpoch c + 1) % 65536
    let s := (((s.put .chActiveBank c bank).put .chActiveKind c b.kind).put .chSfTableCrc c b.crc).put .chSfEpoch c epoch
    let s := s.log 0 c 0x0401 (bytesLE 2 c ++ bytesLE 2 epoch)
    (s.put .chLoadState c (if inFlight then 3 else 0)).raise 0 c evEpoch [epoch, s.now]

/-- STRICT numerics of a strand's job (R25). -/
def State.strandStrict (s : State) (c i : Nat) : Bool := s.strict (s.strand c i).job

end Sys2Proof.Machine
end

