-- ==== Sys2Proof/Machine/Stores.lean ====
section
/-!
DEFINITION. The Store's conversion of elements in a Chamber: rounding with the bits of the element's logical index (R53
to R61, R208 to R210), and the Flowstone encoder (R198).
-/
namespace Sys2Proof.Machine

/-- The 128-bit seed of a strand's stochastic Stores and GAUSS (R208, R217). -/
def State.seed (s : State) (c i : Nat) : Nat := s.reg .chSrSeedLo c i + s.reg .chSrSeedHi c i * 2 ^ 64

/-- What a list of conversions did beside its codes: numeric flags, words formed, draws, zero cuts, and whether an index
reached 2^56. -/
structure StoreTally where
  flags : Nat := 0
  words : Nat := 0
  draws : Nat := 0
  zeroCuts : Nat := 0
  idxRange : Bool := false
deriving DecidableEq, Repr

/-- An element at (row, column) with its converted code. -/
structure Placed where
  row : Nat
  col : Nat
  code : Nat
deriving DecidableEq, Repr

/-- Where the random bits of a stochastic Store come from (R208, R209). -/
structure Draws where
  version : Nat
  seed : Nat
  stream : Nat
  idxBase : Nat
deriving DecidableEq, Repr

/-- The draws of a Store of strand i through descriptor `di` (R208, R217). -/
def State.draws (s : State) (c i di : Nat) : Draws :=
  ⟨s.reg .chRngMode c, s.seed c i, (s.reg .chSrStream c i + di) % 2 ^ 64, s.reg .chSrIdxBase c i⟩

/-- Converts one value of element index `off` (R53 to R61, R209, R210). -/
def convertOne (strict : Bool) (format rnd : Nat) (dr : Draws) (off : Nat) (x : Acc44) : Stored × Bool :=
  let idx := dr.idxBase + off
  let word := elemWord dr.version dr.seed dr.stream idx
  (storeConvert strict format rnd (drawBits word) x, rnd == 2 && decide (idx ≥ 2 ^ 56))

/-- Converts the elements of a tile or of a VSTORE through a view. -/
def convertAll (strict : Bool) (v : View) (problem : Nat) (dr : Draws) (xs : List (Nat × Nat × Acc44)) :
    List Placed × StoreTally :=
  xs.foldr (fun x (acc : List Placed × StoreTally) =>
    let (o, bad) := convertOne strict v.d.format v.d.rnd dr (v.logical problem x.1 x.2.1) x.2.2
    let t := acc.2
    (⟨x.1, x.2.1, o.code⟩ :: acc.1,
     { flags := nfOr t.flags o.flags, words := t.words + o.words, draws := t.draws + (if o.drew then 1 else 0)
       zeroCuts := t.zeroCuts + (if o.zeroCut then 1 else 0), idxRange := t.idxRange || bad })) ([], {})

/-- The counters and flags of conversions of strand i (R62, R217). -/
def State.tally (s : State) (c i : Nat) (t : StoreTally) : State :=
  let s := s.numFlags c i t.flags
  ((s.bump .chRngWords c t.words).bump .chSrDraws c t.draws).bump .chSrZeroCut c t.zeroCuts

/-! ### Flowstone encoding (R198) -/

/-- A slice that holds an infinity or a NaN, for which the spec states no encoding (log 47). -/
def flowOpenSlice (b : Nat) (codes : List Nat) : Nat × List Nat × Nat :=
  let w := Config.flowOpen b codes
  (w % 256, (List.range 16).map (fun i => w / 2 ^ (8 + b * i) % 2 ^ b), w / 2 ^ (8 + 16 * b) % 17)

/-- The codes of one slice of 16 values and its `EXP`, with the clamps (R198). -/
def flowSlice (b : Nat) (stored : List Nat) (xs : List Num) : Nat × List Nat × Nat :=
  if xs.any (fun x => match x with | .fin _ _ _ => false | _ => true) then flowOpenSlice b stored else
  let mags := xs.map Num.abs
  let a := mags.foldl (fun m x => if m.lt x then x else m) Num.zero
  match a with
  | .fin _ m e =>
    if m = 0 then (0, xs.map (fun _ => 0), 0)
    else
      let ex := max (lead m e) (-127)
      let lim : Int := 2 ^ (b - 1) - 1
      let qs := xs.map (fun x =>
        match x with
        | .fin s n q =>
          let u := rneUnits n q (ex + 2 - b)
          let i : Int := if s then -(u : Int) else u
          if i > lim then (lim, 1) else if i < -lim then (-lim, 1) else (i, 0)
        | .inf _ => ((0 : Int), 0)
        | .nan => ((0 : Int), 0))
      ((ex + 128).toNat, qs.map (fun q => unsigned b q.1), (qs.map (·.2)).foldl (· + ·) 0)
  | _ => flowOpenSlice b stored

/-- The bytes of a block from its 64 stored codes, and the clamps (R198). -/
def flowEncode (rate format : Nat) (codes : List Nat) : List Byte × Nat :=
  let b := if rate = 1 then 7 else 3
  let vals := codes.map (codeValue format)
  let sl := (List.range 4).map (fun i => flowSlice b ((codes.drop (16 * i)).take 16) ((vals.drop (16 * i)).take 16))
  let exps := sl.foldr (fun x acc => x.1 + 256 * acc) 0
  let qs := (sl.flatMap (fun x => x.2.1)).foldr (fun q acc => q + 2 ^ b * acc) 0
  (bytesLE (flowBytes rate) (exps + 2 ^ 32 * qs), sl.foldl (fun n x => n + x.2.2) 0)

/-- The blocks that converted elements fill: block address, element index and code. -/
def flowGroups (v : View) (s : State) : List Placed → Except RdErr (List (Nat × List (Nat × Nat)))
  | [] => .ok []
  | x :: xs => do
    let rest ← flowGroups v s xs
    match (← v.loc s x.row x.col) with
    | .flow a i =>
      if rest.any (fun g => g.1 == a) then .ok (rest.map (fun g => if g.1 = a then (a, (i, x.code) :: g.2) else g))
      else .ok ((a, [(i, x.code)]) :: rest)
    | _ => .ok rest

/-- Elements of a Flowstone map that the block of an element holds: those inside the map's extents (R197). -/
def flowInMap (e : List Nat) (ch r c : Nat) : Nat :=
  let o := split3 e r
  let n := fun (ext x : Nat) => min 4 (ext - x / 4 * 4)
  n (e.getD 1 1) (o.getD 1 0) * n (e.getD 2 1) (o.getD 2 0) *
    (if e.getD 0 1 = 1 then n ch c else n (e.getD 0 1) (o.getD 0 0))

/-- A block that converted elements fill: its address, its bytes and clamps, and whether they are all that the map has in it. -/
structure FlowBlock where
  addr : Nat
  bytes : List Byte
  clamps : Nat
  whole : Bool
deriving DecidableEq, Repr

/-- The Flowstone blocks of converted elements (R198); an element that is not among them is encoded as zero. -/
def View.blocksOf (v : View) (s : State) (g : Geom) (xs : List Placed) : Except RdErr (List FlowBlock) := do
  let gs ← flowGroups v s xs
  .ok (gs.map (fun b =>
    let codes := (List.range 64).map (fun i => ((b.2.find? (fun p => p.1 == i)).map (·.2)).getD (zeroCode v.d.format))
    let (bs, n) := flowEncode v.d.fsRate v.d.format codes
    let inMap := match xs.find? (fun x => (match v.loc s x.row x.col with | .ok (.flow a _) => a == b.1 | _ => false)) with
      | some x => flowInMap g.outE g.cSrc (raster g.outE (g.position g.outE x.row)) x.col
      | none => 64
    { addr := b.1, bytes := bs, clamps := n, whole := decide (inMap ≤ (b.2.map (·.1)).eraseDups.length) }))

/-- The writes of converted elements through a view, with the blocks and clamps of a Flowstone output. -/
def View.writesOf (v : View) (s : State) (xs : List Placed) : Except RdErr (List (Nat × List Byte) × Nat × Nat) :=
  match (if v.d.fsRate ≠ 0 then v.geom else none) with
  | some g => do
    let bs ← v.blocksOf s g xs
    .ok (bs.map (fun b => (b.addr, b.bytes)), bs.length, (bs.map (·.clamps)).foldl (· + ·) 0)
  | none => do
    let ws ← v.places s (xs.map (fun x => (x.row, x.col, x.code)))
    .ok (joinWrites ws, 0, 0)

/-- Bytes of a list of writes. -/
def writesLen (ws : List (Nat × List Byte)) : Nat := (ws.map (fun w => w.2.length)).foldl (· + ·) 0

end Sys2Proof.Machine
end

