-- ==== Sys2Proof/Machine/Load.lean ====
section
/-!
DEFINITION. The Load, COPY, VLOAD, VSTORE and the refill of a bank (R58, R78, R88, R95, R101, R139, R157, R440, R441).
-/
namespace Sys2Proof.Machine

/-! ### The words ahead (R139, R439) -/

/-- The LOAD, SWEEP and BIND words among program words, as a NEST would emit them. -/
def ewordOf (w : Nat) : Option EWord :=
  match w % 256 with
  | 0x01 => some (.load (bits w 15 8) (bits w 17 16) (bits w 18 18) (bits w 43 20) (bits w 63 44))
  | 0x10 => some (.sweep (bits w 10 8) (bits w 11 11) (bit w 12) (bit w 13) (bits w 39 16) (bits w 47 40))
  | 0x20 => some (.bind (bits w 15 8) (bits w 23 16) (bits w 43 24) (bits w 63 44))
  | _ => none

/-- The words of a program from index `pc` to its END. -/
def State.progAhead (s : State) (c i : Nat) : Nat → Nat → List EWord
  | 0, _ => []
  | n + 1, pc =>
    let w := s.progWord c i pc
    if w % 256 = 0x7F then []
    else
      match ewordOf w with
      | some e => e :: s.progAhead c i n (pc + 1)
      | none => s.progAhead c i n (pc + 1)

/-- The words that strand i issues next, the present one first: those a NEST has emitted, else those of the program. -/
def State.ahead (s : State) (c i : Nat) : List EWord :=
  let t := s.strand c i
  if t.emit.isEmpty then s.progAhead c i (t.words - s.reg .chPc c i) (s.reg .chPc c i) else t.emit.map (·.word)

/-- What a feed LOAD says of an operand: its block and the bounds in force. -/
structure OpInfo where
  blkK : Nat
  blkMN : Nat
  kEnd : Nat
  mnEnd : Nat
  isScore : Bool := false
  score : Option ScoreRef := none
deriving DecidableEq, Repr

def Tile.info (t : Tile) : OpInfo := ⟨t.blkK, t.blkMN, t.kEnd, t.mnEnd, t.isScore, t.score⟩

/-- The key block of a paged operand, with its positions (R158, R159, R166); none for an operand that is not paged. -/
def View.score (v : View) (s : State) (blkK blkMN : Nat) : Except RdErr (Option ScoreRef) :=
  match v.page with
  | none => .ok none
  | some r =>
    let j := match v.role with | .opA => (if v.half = 0 then blkK else blkMN) | _ => (if v.half = 0 then blkMN else blkK)
    if j < r.len then (r.lpage s j).map (fun p => some ⟨128 * p.1, v.seqLen, true, r.mask, r.window, v.qOrg⟩)
    else .ok (some ⟨0, v.seqLen, false, r.mask, r.window, v.qOrg⟩)

/-- The operand that a feed LOAD names. -/
def View.info (v : View) (s : State) (blkK blkMN : Nat) : Except RdErr OpInfo := do
  let sc ← v.score s blkK blkMN
  let (k, mn) := match v.role with | .opA => (v.cEnd, v.rEnd) | _ => (v.rEnd, v.cEnd)
  .ok ⟨blkK, blkMN, k, mn, v.page.isSome && v.role == .opB && v.half == 0, sc⟩

/-- The n-th feed LOAD of a target among words. -/
def nthLoad (target : Nat) : Nat → List EWord → Option (Nat × Nat × Nat)
  | _, [] => none
  | n, .load d t _ k mn :: ws =>
    if t = target then (match n with | 0 => some (d, k, mn) | m + 1 => nthLoad target m ws) else nthLoad target n ws
  | n, _ :: ws => nthLoad target n ws

/-- The operand of a target for the n-th SWEEP ahead: of a delivered tile, else of the LOAD that will deliver it. -/
def State.opInfo (s : State) (c i : Nat) (role : Role) (n : Nat) (ws : List EWord) : Option OpInfo :=
  let t := s.strand c i
  let q := if role = .opA then t.feedA else t.feedB
  match q[n]? with
  | some x => some x.info
  | none =>
    match nthLoad (if role = .opA then 0 else 1) (n - q.length) ws with
    | none => none
    | some (d, k, mn) =>
      match mkView s c d (s.descBytes c i d) role (s.wordCtx c i) with
      | .error _ => none
      | .ok v => (v.info s k mn).toOption

/-- The words from the n-th SWEEP on. -/
def fromSweep : Nat → List EWord → List EWord
  | _, [] => []
  | n, .sweep p b i l k t :: ws =>
    (match n with | 0 => .sweep p b i l k t :: ws | m + 1 => fromSweep m ws)
  | n, _ :: ws => fromSweep n ws

/-- The `OUT_TAG` of the SWEEP that closes the run of a bank, from the n-th SWEEP on, and the last BIND of its tag before it. -/
def runTag (bank : Nat) : Nat → List EWord → List (Nat × Nat × Nat × Nat) → Option (Nat × Option (Nat × Nat × Nat))
  | _, [], _ => none
  | n, .bind t d m k :: ws, bs => runTag bank n ws ((t, d, m, k) :: bs)
  | n + 1, .sweep _ _ _ _ _ _ :: ws, bs => runTag bank n ws bs
  | 0, .sweep _ b _ last _ t :: ws, bs =>
    if b = bank && last then some (t, (bs.find? (fun x => x.1 == t)).map (fun x => (x.2.1, x.2.2.1, x.2.2.2)))
    else runTag bank 0 ws bs
  | n, _ :: ws, bs => runTag bank n ws bs

/-- The SWEEPs ahead up to the next BIND of a tag: bank, `LAST` and `OUT_TAG`. -/
def sweepsTo (tag : Nat) : List EWord → List (Nat × Bool × Nat)
  | [] => []
  | .bind t _ _ _ :: ws => if t = tag then [] else sweepsTo tag ws
  | .sweep _ b _ last _ t :: ws => (b, last, t) :: sweepsTo tag ws
  | _ :: ws => sweepsTo tag ws

/-- The run that a BIND's output ends: its bank, the number of its first SWEEP ahead, and whether that SWEEP opens it. -/
def bindRun (tag : Nat) (ws : List EWord) : Option (Nat × Nat × Bool) :=
  let xs := sweepsTo tag ws
  match xs.findIdx? (fun x => x.2.1 && x.2.2 == tag) with
  | none => none
  | some j =>
    let bank := (xs.getD j (0, false, 0)).1
    let before := (xs.take j).zip (List.range j)
    let from' := match (before.filter (fun x => x.1.1 == bank && x.1.2.1)).getLast? with | some x => x.2 + 1 | none => 0
    let n := match (before.drop from').find? (fun x => x.1.1 == bank) with | some x => x.2 | none => j
    some (bank, n, decide (from' ≠ 0))

/-! ### Masks of weight gradients (R181 to R183) -/

/-- What the mask record says of block (m, n): the frozen rows, and whether the whole block is frozen (R182). -/
inductive GmaskOut where
  | none
  | rows (rows : List Nat) (block : Bool)
  | recErr
  | range
deriving DecidableEq, Repr

/-- A mask header's checks (R183). -/
def gmaskHeaderOk (h : List Byte) : Bool :=
  zeroLE h 28 36 && fieldLE h 0 4 != 0 && fieldLE h 4 4 != 0 && decide (fieldLE h 8 8 % 16 = 0) &&
    decide (fieldLE h 16 8 % 8 = 0)

/-- The mask of a bound run, none where the BIND names neither masked descriptor (R182). -/
def State.gmaskOf (s : State) (c i desc m n : Nat) : Except RdErr GmaskOut := do
  if s.reg .chGmaskEn c i = 0 || !(s.reg .chGmaskOut c i == desc || s.reg .chGmaskSpill c i == desc) || desc = 0xFF then
    .ok .none
  else
    let h ← match (s.strand c i).gmask with
      | some h => pure h
      | none => s.rdBytes (canonAddr c (s.reg .chGmaskBase c i)) 64
    if !gmaskHeaderOk h then .ok .recErr
    else if m ≥ fieldLE h 0 4 || n ≥ fieldLE h 4 4 then .ok .range
    else
      let rm := fieldLE h 8 8
      let bm := fieldLE h 16 8
      let rowBits ← if rm = 0 then pure 0 else s.rd (canonAddr c (rm + 16 * m)) 16
      let b := m * fieldLE h 4 4 + n
      let blkByte ← if bm = 0 then pure 0 else s.rd (canonAddr c (bm + b / 8)) 1
      .ok (.rows ((List.range 128).filter (bit rowBits)) (bit blkByte (b % 8)))

/-- The entries of a mask's maps that a BIND of block (m, n) reads over the Drip path (R182, R234). -/
def maskReads (c : Nat) (h : List Byte) (m n : Nat) : List (Nat × Nat) :=
  if !gmaskHeaderOk h || decide (m ≥ fieldLE h 0 4) || decide (n ≥ fieldLE h 4 4) then []
  else [(fieldLE h 8 8, 16 * m, 16), (fieldLE h 16 8, (m * fieldLE h 4 4 + n) / 8, 1)].filterMap (fun x =>
    if x.1 = 0 then none else some (canonAddr c (x.1 + x.2.1), x.2.2))

/-- The output that the run of a bank drains to, as far as it is known: block, bounds, mask (R139, R182). -/
structure OutInfo where
  m : Nat
  n : Nat
  rEnd : Nat
  cEnd : Nat
  frozenRows : List Nat
  frozenBlock : Bool
deriving DecidableEq, Repr

def State.outInfoOf (s : State) (c : Nat) (o : Bound) : Option OutInfo :=
  match mkView s c o.desc o.bytes .out o.ctx o.tokenOrg with
  | .error _ => none
  | .ok v => some ⟨o.blkM, o.blkN, v.rEnd, v.cEnd, o.frozenRows, o.frozenBlock⟩

/-- The output of the run that the n-th SWEEP of the words `ws` continues on a bank. -/
def State.outInfo (s : State) (c i bank n : Nat) (ws : List EWord) : Option OutInfo :=
  match runTag bank n ws [] with
  | none => none
  | some (tag, some (d, m, n)) =>
    let fr := match s.gmaskOf c i d m n with | .ok (.rows r b) => (r, b) | _ => ([], false)
    s.outInfoOf c { tag := tag, desc := d, bytes := s.descBytes c i d, blkM := m, blkN := n, ctx := s.wordCtx c i
                    tokenOrg := 0, frozenRows := fr.1, frozenBlock := fr.2 }
  | some (tag, none) => ((s.strand c i).binds.find? (fun o => o.tag == tag)).bind (s.outInfoOf c)

/-! ### What is skipped (R139, R167, R182) -/

/-- How a run that opens is treated: beyond a bound, wholly masked, frozen. -/
structure RunFate where
  far : Bool := false
  masked : Bool := false
  frozen : Bool := false
  frozenRows : List Nat := []
deriving DecidableEq, Repr

/-- The fate of a run from its first operands and its output (R139 rule 5, R160, R167, R182). -/
def runFate (a b : Option OpInfo) (o : Option OutInfo) : RunFate :=
  let isScore := match b with | some b => b.isScore | none => false
  let farOp := fun (x : Option OpInfo) => match x with | some x => decide (x.mnEnd ≤ 128 * x.blkMN) | none => false
  let score := match b with | some b => b.score | none => none
  let farKey := isScore && (match score with | some r => r.inList && decide (r.seqLen ≤ r.keyOrg) | none => false)
  let farOut := match o with
    | some o => decide (o.rEnd ≤ 128 * o.m) || (!isScore && decide (o.cEnd ≤ 128 * o.n))
    | none => false
  let m := match o, a with | some o, _ => o.m | none, some a => a.blkMN | none, none => 0
  { far := farOp a || farOp b || farKey || farOut
    masked := isScore && (match score with | some r => r.allMasked m | none => false)
    frozen := match o with | some o => o.frozenBlock | none => false
    frozenRows := match o with | some o => o.frozenRows | none => [] }

def RunFate.skip (f : RunFate) : Bool := f.far || f.masked || f.frozen

/-- A K block of a SWEEP lies wholly beyond the K bound, or its key block's score run is wholly masked (R139 rule 1,
R167). -/
def beyondK (a b : Option OpInfo) (m : Option Nat) : Bool :=
  let far := fun (x : Option OpInfo) => match x with | some x => decide (x.kEnd ≤ 128 * x.blkK) | none => false
  let masked := match b with
    | some b =>
      (match b.score with
       | some r => !b.isScore && r.allMasked (m.getD (match a with | some a => a.blkMN | none => 0))
       | none => false)
    | none => false
  far a || far b || masked

/-- Whether the n-th SWEEP ahead of strand i will feed from its LOADs, or is skipped or zero-fed with no memory read. -/
def State.sweepReads (s : State) (c i n : Nat) : Bool :=
  let ws := s.ahead c i
  let a := s.opInfo c i .opA n ws
  let b := s.opInfo c i .opB n ws
  match fromSweep n ws with
  | .sweep _ bank _ _ _ _ :: _ =>
    let o := s.outInfo c i bank n ws
    let fate := runFate a b o
    let run := (s.strand c i).runs.find? (fun r => r.bank == bank)
    let skip := match run with | some r => (r.far || r.masked || r.frozen) || fate.skip | none => fate.skip
    !(skip || beyondK a b (o.map (·.m)))
  | _ => !beyondK a b none

/-! ### LOAD -/

/-- The check pair of a B word: w rounded to nearest-even FP32, W toward +∞, and whether one is out of range (R79). -/
def checkPair (strict : Bool) (fmt : Nat) (word : List Nat) : Nat × Nat × Bool :=
  let add := fun (acc : Acc44) (x : Num) => (accRound strict ((accNum acc).add x)).1
  let vals := word.map (codeValue fmt)
  let w := accNum (vals.foldl add accZero)
  let wa := accNum (vals.foldl (fun a x => add a x.abs) accZero)
  let o1 := fp32Over rneUnits w
  let o2 := fp32Over upUnits wa
  let sat := fun (neg : Bool) => (if neg then 0x80000000 else 0) + 0x7F7FFFFF
  (if o1 then sat w.isNeg else toFP32 w, if o2 then sat false else toFP32Up wa, o1 || o2)

/-- A tile of zero words that no memory read fed (R88, R139). -/
def zeroTile (deliver : Nat) (b : Bool) (o : OpInfo) : Tile :=
  { fmt := deliver, words := List.replicate 128 (List.replicate 128 (zeroCode deliver))
    checks := if b then List.replicate 128 (0, 0, false) else []
    blkK := o.blkK, blkMN := o.blkMN, kEnd := o.kEnd, mnEnd := o.mnEnd, isScore := o.isScore, score := o.score }

/-- A feed word from the elements read: codes, flags (R58, R60, R88). -/
def feedWord (strict : Bool) (stored deliver : Nat) (xs : List Elem1) : List Nat × Nat :=
  let r := xs.map (fun x => match x.code with | some k => loadConvert strict stored deliver k | none => (zeroCode deliver, 0))
  (r.map (·.1), r.foldl (fun f x => nfOr f x.2) 0)

/-- Adds a tile to a feed of strand i. -/
def State.deliver (s : State) (c i target : Nat) (t : Tile) : State :=
  (s.modStrand c i (fun x => if target = 0 then { x with feedA := x.feedA ++ [t] } else { x with feedB := x.feedB ++ [t] })).syncFeed c

/-- The granules of poisoned elements. -/
def poisonGrains (xs : List Elem1) : List Nat :=
  xs.foldl (fun l x => if x.poisoned && !l.contains (x.addr / 64) then l ++ [x.addr / 64] else l) []

/-- Uncorrectable reads of the feed are recorded where their memory keeps them; one of HBM sends its event (R88, R236). -/
def State.feedUncorr (s : State) (c i : Nat) (xs : List Elem1) : State :=
  (poisonGrains xs).foldl (fun s g =>
    let s := s.memUncorr (64 * g)
    if regionOf (64 * g) = some .hbm then s.strandEvent c i evUncorr (64 * g) else s) s

/-- The vector unit forms w and W of a B tile in 32 vector cycles; those of a Pocket tile stay beside it until the tile is loaded
there again (R79, R82). -/
def State.formCheck (s : State) (c : Nat) (v : View) (sp : Span) : State :=
  if v.d.space = 0 && (s.chamber c).formed.contains sp then s
  else
    let s := s.bump .chVecCycles c 32
    if v.d.space = 0 then s.modChamber c (fun x => { x with formed := sp :: x.formed }) else s

/-- A write into a Pocket range: check values of the tiles in it no longer stand (R79). -/
def State.unform (s : State) (c : Nat) (sp : Span) : State :=
  s.modChamber c (fun x => { x with formed := x.formed.filter (fun y => !y.meets sp) })

/-- Decodes Flowstone blocks: those that the decoded-block cache of 1,024 blocks does not hold count in `CH_FS_DEC_BLOCKS`; the
oldest leave it (R200, R202; log 115). -/
def State.decodeBlocks (s : State) (c : Nat) (v : View) (xs : List Elem1) : State :=
  let bs := (flowBlocks xs).map (fun a => (a, s.bytes a (flowBytes v.d.fsRate)))
  let new := bs.filter (fun b => !(s.chamber c).decoded.contains b)
  (s.bump .chFsDecBlocks c new.length).modChamber c (fun x =>
    { x with decoded := (new ++ x.decoded.filter (fun y => !(new.any (fun b => b.1 == y.1)))).take 1024 })

/-- The counters of a read of elements (R106, R202), with the errors that its memory corrected (R87, R236, R237). -/
def State.countRead (s : State) (c : Nat) (v : View) (xs : List Elem1) : State :=
  let s := s.readLines c (if v.page.isSome then clsLatency else clsCompute) ((xs.filter (·.code.isSome)).map (fun x =>
    (x.addr, match x.blk with | some _ => flowBytes v.d.fsRate | none => v.e)))
  let s := s.bump .chLoadBytes c (readBytes v xs)
  (s.bump .chConvZeroElems c (xs.filter (·.zero)).length).decodeBlocks c v xs

/-- A LOAD of a tile into a feed queue whose words are read from memory. -/
def State.loadFeed (s : State) (c i desc target : Nat) (v : View) (o : OpInfo) (sp : Span) : State :=
  let strict := s.strandStrict c i
  let places := (List.range 128).flatMap (feedPlaces v.role o.blkK o.blkMN)
  match v.readFetched s places with
  | (s, .error e) => s.rdFail c i e
  | (s, .ok xs) =>
    let words := (List.range 128).map (fun k => (xs.drop (128 * k)).take 128)
    let conv := words.map (feedWord strict v.d.format v.d.deliver)
    let codes := conv.map (·.1)
    let t : Tile :=
      { zeroTile v.d.deliver (target == 1) o with
        words := codes
        poison := (List.range 128).filter (fun k => (words.getD k []).any (·.poisoned))
        checks := if target = 1 then codes.map (checkPair strict v.d.deliver) else []
        desc := desc, scale := v.scale
        poisonAddr := ((xs.find? (·.poisoned)).map (·.addr)).getD 0 }
    let s := s.feedUncorr c i xs
    let s := s.numFlags c i (conv.foldl (fun f x => nfOr f x.2) 0)
    let s := s.countRead c v xs
    let s := if v.d.trans then s.bump .chPrismTiles c 1 else s
    let s := if target = 1 then s.formCheck c v sp else s
    let key := if target = 0 then v.keyBlock o.blkMN o.blkK else v.keyBlock o.blkK o.blkMN
    ((s.walkView c v (v.walks s key)).deliver c i target t).passWord c i true

/-- What a LOAD says of an operand that is not read: its reference or its geometry record, where that fails, is not met
(R139, R161, R189). -/
def View.infoOr (v : View) (s : State) (blkK blkMN : Nat) : OpInfo :=
  match v.info s blkK blkMN with
  | .ok o => o
  | .error _ => let (k, mn) := match v.role with | .opA => (v.cEnd, v.rEnd) | _ => (v.rEnd, v.cEnd); ⟨blkK, blkMN, k, mn, false, none⟩

/-- Ends an operand's K range where that of the operand it meets in its SWEEP ends (R135, R140). -/
def State.jointK (s : State) (c i n target : Nat) (v : View) : View :=
  match s.opInfo c i (if target = 0 then .opB else .opA) n (s.ahead c i) with
  | some p => v.boundK p.kEnd
  | none => v

/-- A LOAD to a feed queue (R58, R88, R95, R139, R140). -/
def State.loadOperand (s : State) (c i desc target blkK blkMN : Nat) : State :=
  let role := if target = 0 then Role.opA else Role.opB
  let zeroFed := match (s.strand c i).emit with | e :: _ => e.zeroFed | [] => false
  let n := if target = 0 then (s.strand c i).feedA.length else (s.strand c i).feedB.length
  let bs := s.descBytes c i desc
  if zeroFed || !s.sweepReads c i n then
    let v := boundsView s c desc bs role (s.wordCtx c i)
    (s.deliver c i target { zeroTile v.d.deliver (target == 1) (v.infoOr s blkK blkMN) with desc := desc, scale := v.scale }).passWord c i zeroFed
  else
    match mkView s c desc bs role (s.wordCtx c i) with
    | .error e => s.rdFail c i e
    | .ok v =>
      let v := s.jointK c i n target v
      match v.info s blkK blkMN with
      | .error e => s.rdFail c i e
      | .ok o =>
        let span := if target = 0 then v.span (128 * blkMN) 128 (128 * blkK) 128 else v.span (128 * blkK) 128 (128 * blkMN) 128
        if s.mustWait c i span then s else s.loadFeed c i desc target v o span

/-- A range of a Pocket that a word names is checked as the word issues (R87). -/
def State.pocketCheck (s : State) (v : View) (sp : Span) : Option RdErr :=
  if v.d.space ≠ 0 || v.d.addrMode ≠ 0 || sp.hi ≤ sp.lo then none
  else if s.mapped sp.lo (sp.hi - sp.lo) then none else some (.addr sp.lo)

/-- A LOAD that refills a bank: it opens a run, whose first refill cycle comes when the bank is FREE (R67, R69, R78). -/
def State.loadRefill (s : State) (c i desc bank blkK blkMN : Nat) : State :=
  let t := s.strand c i
  if t.runs.any (fun r => r.bank == bank) then s.facetRefuse c i .chBankErr
  else
    let bs := s.descBytes c i desc
    let v := boundsView s c desc bs .out (s.wordCtx c i)
    let sp := v.span (128 * blkK) 128 (128 * blkMN) 128
    if s.mustWait c i sp then s
    else
        let ws := s.ahead c i
        let o := s.outInfo c i bank 0 ws
        let fate := runFate (s.opInfo c i .opA t.feedA.length ws) (s.opInfo c i .opB t.feedB.length ws) o
        let r : Run := { bank := bank, pair := none, lastK := none, kept := false, refilled := true
                         refill := if fate.skip then none else some (desc, bs, blkK, blkMN)
                         far := fate.far, masked := fate.masked, frozen := fate.frozen, frozenRows := fate.frozenRows
                         ctx := s.wordCtx c i }
        match if fate.skip then none else s.pocketCheck v sp with
        | some e => s.rdFail c i e
        | none => (s.modStrand c i (fun t => { t with runs := t.runs ++ [r] })).passWord c i (!fate.skip)

/-- LOAD (R95). A word that may not issue, a read that an earlier write overlaps, and the reserved TARGET 3, which
admission refuses (R98), leave the state as it is. -/
def execLoad (c i desc target bank blkK blkMN : Nat) (s : State) : Out :=
  let s0 := s.settle c
  if !s0.mayIssue c i (some (.load desc target bank blkK blkMN)) then .next s
  else
    match s0.entryPoison c i [desc] with
    | some a => .next (s0.rdFail c i (.poison a))
    | none =>
      if target ≤ 1 then .next (s0.loadOperand c i desc target blkK blkMN)
      else if target = 2 then .next (s0.loadRefill c i desc bank blkK blkMN)
      else .next s

/-! ### Refill (R78, R79) -/

/-- The rows of a refilled bank from the spill words read, 128 to a row. -/
def refillRows (xs : List Elem1) : List (List Acc44) :=
  (List.range 128).map (fun r => ((xs.drop (128 * r)).take 128).map (fun x =>
    match x.code with | some k => accRefill k | none => accZero))

/-- A sum in ACC44 from +0 in ascending index (R79). -/
def accSum (strict : Bool) (xs : List Num) : Acc44 := xs.foldl (fun a x => (accRound strict ((accNum a).add x)).1) accZero

/-- A run of a strand waits to refill a bank. -/
def State.refillOf (s : State) (c bank : Nat) : Option (Nat × Run) :=
  ((List.range 4).filterMap (fun i =>
    ((s.strand c i).runs.find? (fun r => r.bank == bank && r.refill.isSome)).map (fun r => (i, r)))).head?

/-- The 32 refill cycles of a bank whose refill LOAD has issued: the bank must be FREE; it becomes LIVE with the spilled
values (R68, R69, R78). -/
def execBankRefill (c bank : Nat) (s : State) : Out :=
  match s.refillOf c bank with
  | none => .next s
  | some (i, r) =>
    match r.refill with
    | none => .next s
    | some (desc, bs, blkK, blkMN) =>
      -- no bank is used again in a fault freeze (R76)
      if s.reg (bankField bank) c ≠ 0 || s.reg .chFaultFreeze c = 1 then .next s
      else
        match mkView s c desc bs .out r.ctx with
        | .error e => .next (s.rdFail c i e)
        | .ok v =>
          match v.readFetched s ((List.range 16384).map (fun n => (128 * blkK + n / 128, 128 * blkMN + n % 128))) with
          | (s, .error e) => .next (s.rdFail c i e)
          | (s, .ok xs) =>
            match xs.find? (·.poisoned) with
            | some x => .next (s.rdFail c i (.poison x.addr))
            | none =>
              let strict := s.strandStrict c i
              let rows := refillRows xs
              let b : BankData :=
                { owner := i, rows := rows, v := rows.map (fun row => accSum strict (row.map accNum))
                  sAbs := List.replicate 128 accZero
                  z := rows.map (fun row => accSum strict (row.map (fun a => (accNum a).abs))), refilled := true }
              let s := (s.modBank c bank (fun _ => b)).put (bankField bank) c 1
              let s := s.modStrand c i (fun t =>
                { t with runs := t.runs.map (fun x => if x.bank = bank then { x with refill := none } else x) })
              .next (s.countRead c v xs)

/-! ### COPY (R95, R201) -/

/-- The pieces that a COPY moves: bytes of each source element to its destination, and whole blocks where both maps are
Flowstone (R201). -/
def copyPieces (s : State) (vs vd : View) : List (Nat × Nat) → Except RdErr (List (Nat × Nat × Nat × Bool))
  | [] => .ok []
  | p :: ps => do
    let a ← vs.loc s p.1 p.2
    let rest ← copyPieces s vs vd ps
    match a with
    | .byte x =>
      (match (← vd.loc s p.1 p.2) with
       | .byte y => .ok ((x, y, vs.e, s.poisoned x vs.e) :: rest)
       | _ => .ok rest)
    | .flow x _ =>
      (match (← vd.loc s p.1 p.2) with
       | .flow y _ =>
         if rest.any (fun q => q.2.1 == y) then .ok rest
         else .ok ((x, y, flowBytes vs.d.fsRate, s.poisoned x (flowBytes vs.d.fsRate)) :: rest)
       | _ => .ok rest)
    | _ => .ok rest

/-- The pieces of a COPY, after the blocks that it reads have been fetched again where they are marked (R343). -/
def copyFetched (s : State) (vs vd : View) (xs : List (Nat × Nat)) : State × Except RdErr (List (Nat × Nat × Nat × Bool)) :=
  match copyPieces s vs vd xs with
  | .error e => (s, .error e)
  | .ok ps =>
    if !s.refetching then (s, .ok ps)
    else
      let s := s.refetchAt (ps.map (·.1))
      (s, copyPieces s vs vd xs)

/-- Token origin of a paged output (R158, R162). -/
def tokenOrgOf (s : State) (c : Nat) (d : Desc) (base : Nat) (lens : List Nat) : Nat :=
  if d.space ≠ 3 then 0
  else
    match readRef s (canonAddr c base) with
    | .error _ => 0
    | .ok r => if r.tokSel = 15 then 0 else lens.getD r.tokSel 0

/-- Tokens written through a paged output, and the pages walked for them (R162, R172). -/
def State.append (s : State) (c : Nat) (v : View) (xs : List (Nat × Nat)) : State :=
  let ts := v.tokens xs
  (s.bump .chAppendTokens c ts.length).walkView c v (tokenPages ts)

/-- The places of a block of rows and columns that lie inside a view. -/
def lanePlacesOf (v : View) (r0 nr c0 nc : Nat) : List (Nat × Nat) :=
  ((List.range nr).flatMap (fun r => (List.range nc).map (fun k => (r0 + r, c0 + k)))).filter
    (fun p => decide (p.1 < v.rEnd) && decide (p.2 < v.cEnd))

/-- COPY: one 128 × 128 block moved unchanged (R95). -/
def execCopy (c i srcDesc dstDesc blkRow blkCol : Nat) (s : State) : Out :=
  let s0 := s.settle c
  if !s0.mayIssue c i none then .next s
  else
    let ctx := s0.strandCtx c
    let db := s0.descBytes c i dstDesc
    let dd := Desc.of db
    match s0.entryPoison c i [srcDesc, dstDesc] with
    | some a => .next (s0.rdFail c i (.poison a))
    | none =>
    match mkView s0 c srcDesc (s0.descBytes c i srcDesc) .plain ctx,
        mkView s0 c dstDesc db .out ctx (tokenOrgOf s0 c dd dd.base ctx.lens) with
    | .error e, _ => .next (s0.rdFail c i e)
    | _, .error e => .next (s0.rdFail c i e)
    | .ok vs, .ok vd =>
      if s0.mustWait c i (vs.span (128 * blkRow) 128 (128 * blkCol) 128) then .next s
      else
        match copyFetched s0 vs vd ((List.range 16384).map (fun n => (128 * blkRow + n / 128, 128 * blkCol + n % 128))) with
        | (s0, .error e) => .next (s0.rdFail c i e)
        | (s0, .ok ps) =>
          match ps.find? (fun p => p.2.2.2) with
          | some p => .next (s0.rdFail c i (.poison p.1))
          | none =>
            let ws := joinWrites (ps.map (fun p => (p.2.1, s0.bytes p.1 p.2.2.1)))
            let n := writesLen ws
            let s := s0.readLines c (if vs.page.isSome then clsLatency else clsCompute) (ps.map (fun p => (p.1, p.2.2.1)))
            let s := (((s.storeAll ws (some (c / 8))).bump .chLoadBytes c n).bump .chStoreBytes c n)
            let s := s.unform c (vd.span (128 * blkRow) 128 (128 * blkCol) 128)
            let s := (s.walkView c vs (vs.walks s (vs.keyBlock blkRow blkCol))).append c vd
              ((lanePlacesOf vd (128 * blkRow) 128 (128 * blkCol) 128).filter (fun p => decide (p.1 < vs.rEnd) && decide (p.2 < vs.cEnd)))
            .next (s.passWord c i true)

/-! ### VLOAD and VSTORE (R95, R441) -/

/-- The value that VLOAD places in a lane for a stored code, with its flags (R60, R441; the delivered format of an
infinity is ACC44, log 16). -/
def vloadLane (strict : Bool) (f code : Nat) : Acc44 × Nat :=
  match fmtFp f with
  | some l =>
    let s := bit code (l.ebits + l.fbits)
    let zero : Acc44 := if s then 0x80000000000#44 else accZero
    match fpClass f l code with
    | .zero => (zero, 0)
    | .inf => if strict then (accInf s, 0) else (accMax s, nfInfIn)
    | .nan => if strict then (accNan, 0) else (accZero, nfNanIn)
    | .subnormal =>
      if !strict && (f == fmtBF16 || f == fmtG16 || f == fmtFP32) then (zero, nfSubnormalIn)
      else ((accRound strict (fpValue f l code)).1, 0)
    | .normal => ((accRound strict (fpValue f l code)).1, 0)
  | none =>
    if f = fmtSpill then (accRefill code, 0)
    else if code = lnsReserved f then (accZero, nfReservedCode)
    else ((accRound strict (codeValue f code)).1, 0)

/-- The 512 places of a VLOAD or VSTORE: four rows of a column block (R95). -/
def lanePlaces (row4 blkN : Nat) : List (Nat × Nat) :=
  (List.range 512).map (fun l => (4 * row4 + l / 128, 128 * blkN + l % 128))

/-- VLOAD (R88, R95, R441). -/
def execVload (c i desc dst row4 blkN : Nat) (s : State) : Out :=
  let s0 := s.settle c
  if !s0.mayIssue c i none then .next s
  else
    let bs := s0.descBytes c i desc
    match s0.entryPoison c i [desc] with
    | some a => .next (s0.rdFail c i (.poison a))
    | none =>
    match mkView s0 c desc bs .plain (s0.strandCtx c) with
    | .error e => .next (s0.rdFail c i e)
    | .ok v =>
      if s0.mustWait c i (v.span (4 * row4) 4 (128 * blkN) 128) then .next s
      else
        match v.readFetched s0 (lanePlaces row4 blkN) with
        | (s0, .error e) => .next (s0.rdFail c i e)
        | (s0, .ok xs) =>
          match xs.find? (·.poisoned) with
          | some x => .next (s0.rdFail c i (.poison x.addr))
          | none =>
            let strict := s0.strandStrict c i
            let ls := xs.map (fun x => match x.code with | some k => vloadLane strict v.d.format k | none => (accZero, 0))
            let s := s0.modChamber c (fun x => x.setVreg dst (ls.map (·.1)))
            let s := s.numFlags c i (ls.foldl (fun f x => nfOr f x.2) 0)
            let s := s.countRead c v xs
            let s := s.walkView c v (v.walks s (v.keyBlock (row4 / 32) blkN))
            let s := s.modStrand c i (fun t => { t with vload := some (desc, bs, row4, blkN) })
            .next (s.passWord c i true)

/-- A Flowstone block that a VSTORE fills only in part holds bytes that the spec does not state: free values (log 2). -/
def State.freeBlocks (s : State) (bs : List FlowBlock) : List (Nat × List Byte) × State :=
  bs.foldl (fun acc b =>
    if b.whole then (acc.1 ++ [(b.addr, b.bytes)], acc.2)
    else
      let (f, s) := acc.2.takeFree
      (acc.1 ++ [(b.addr, bytesLE b.bytes.length f)], s)) ([], s)

/-- The writes of a VSTORE, with its Flowstone blocks, the clamps of those that it fills, and the state with the free values taken
(R198). -/
def State.vstoreWrites (s : State) (v : View) (ps : List Placed) : Except RdErr (List (Nat × List Byte) × Nat × Nat × State) :=
  match (if v.d.fsRate ≠ 0 then v.geom else none) with
  | some g => do
    let bs ← v.blocksOf s g ps
    let (ws, s) := s.freeBlocks bs
    .ok (ws, bs.length, ((bs.filter (·.whole)).map (·.clamps)).foldl (· + ·) 0, s)
  | none => do
    let (ws, _, _) ← v.writesOf s ps
    .ok (ws, 0, 0, s)

/-- VSTORE (R95, R441, R208, R209). -/
def execVstore (c i desc src row4 blkN : Nat) (s : State) : Out :=
  let s0 := s.settle c
  if !s0.mayIssue c i none then .next s
  else
    let ctx := s0.strandCtx c
    let bs := s0.descBytes c i desc
    let d := Desc.of bs
    match s0.entryPoison c i [desc] with
    | some a => .next (s0.rdFail c i (.poison a))
    | none =>
    match mkView s0 c desc bs .out ctx (tokenOrgOf s0 c d d.base ctx.lens) with
    | .error e => .next (s0.rdFail c i e)
    | .ok v =>
      let lanes := (s0.chamber c).vreg src
      let xs := ((lanePlaces row4 blkN).zip lanes).filter (fun x => decide (x.1.1 < v.rEnd) && decide (x.1.2 < v.cEnd))
      let (ps, t) := convertAll (s0.strandStrict c i) v 0 (s0.draws c i desc) (xs.map (fun x => (x.1.1, x.1.2, x.2)))
      if t.idxRange then .next (s0.idxRange c i)
      else
        match s0.vstoreWrites v ps with
        | .error e => .next (s0.rdFail c i e)
        | .ok (ws, blocks, clamps, s) =>
          let s := (s.storeAll ws (some (c / 8))).tally c i t
          let s := s.bump .chStoreBytes c (writesLen ws)
          let s := (s.bump .chFsEncBlocks c blocks).bump .chFsClamps c clamps
          let s := (s.unform c (v.span (4 * row4) 4 (128 * blkN) 128)).append c v (ps.map (fun p => (p.row, p.col)))
          .next (s.passWord c i true)

end Sys2Proof.Machine
end

