-- ==== Sys2Proof/Machine/VecWords.lean ====
section
/-!
DEFINITION. The VOP and SFOP words, in strand order and in drain routines (R91 to R93, R107 to R125, R212, R213).
-/
namespace Sys2Proof.Machine

/-- What a VOP or SFOP word acts on beside its registers: the rows of its lanes in the row-statistics set, the columns
that the lengths include, and the element of each lane for GAUSS. -/
structure LaneCtx where
  /-- Row of the set for each row group. -/
  row : Nat → Nat
  /-- The lengths include row group n and column j (R120). -/
  incl : Nat → Nat → Bool
  /-- The generator word of lane l, and whether its index reached 2^56 (R213). -/
  word : Nat → Nat × Bool

/-- A VOP word on the vector registers (R93). An immediate that is an infinity, a NaN or subnormal is taken as its value, in
default numerics an infinity as the largest finite one with no flag (log 105). -/
def State.vop (s : State) (c i op dst src1 src2 : Nat) (imm : Bool) (immValue : Nat) : State :=
  let x := s.chamber c
  let strict := s.strandStrict c i
  let b := if imm then List.replicate 512 (accRound strict (fp32 immValue)).1 else x.vreg src2
  let (r, f) := vopRun strict op (x.vreg dst) (x.vreg src1) b
  ((s.modChamber c (fun x => x.setVreg dst r)).numFlags c i f).bump .chVecCycles c 1

/-- The counters of an SFOP (R92, R128). -/
def State.sfCount (s : State) (c : Nat) : State := (s.bump .chSfOps c 1).bump .chSfCycles c 4

/-- A function of R109 on 512 lanes. -/
def State.sfRun (s : State) (c i func dst src scale : Nat) : State :=
  let strict := s.strandStrict c i
  let outs := ((s.chamber c).vreg src).map (sfLane (s.sfImage c) strict func scale)
  let s := s.modChamber c (fun x => x.setVreg dst (outs.map (·.value)))
  let s := s.numFlags c i (outs.foldl (fun f o => nfOr f o.flags) 0)
  let s := if outs.any (·.domain) then s.flag .chSfDomain c else s
  s.sfCount c

/-- Row r of a strand's row-statistics set. -/
def Strand.rsRow (t : Strand) (r : Nat) : RsRow := t.rs.getD r {}

/-- SMX_SUM or SMX_PROB on four row groups (R120 to R122, R125). -/
def State.smxRun (s : State) (c i : Nat) (prob : Bool) (dst src scale : Nat) (l : LaneCtx) : State :=
  let strict := s.strandStrict c i
  let img := s.sfImage c
  let lanes := (s.chamber c).vreg src
  let outs := (List.range 4).map (fun n =>
    let r := (s.strand c i).rsRow (l.row n)
    let f := if prob then smxProbRow else smxSumRow
    (l.row n, f img strict scale r (rowGroup lanes n) (l.incl n), r.range))
  let s := s.modStrand c i (fun t =>
    { t with rs := outs.foldl (fun rs o => rs.set o.1 o.2.1.row) t.rs
             ranged := t.ranged || outs.any (fun o => o.2.1.ranged) })
  let s := s.modChamber c (fun x => x.setVreg dst (outs.flatMap (fun o => o.2.1.lanes)))
  let s := s.numFlags c i (outs.foldl (fun f o => nfOr f o.2.1.flags) 0)
  -- a row counts once, as its `RANGE` becomes 1 (R122, R128)
  let n := (outs.filter (fun o => o.2.1.ranged && !o.2.2)).length
  let s := if outs.any (fun o => o.2.1.ranged) then (s.flag .chSmxRange c).bump .chSmxRangeRows c n else s
  s.sfCount c

/-- GAUSS on 512 lanes (R212, R213). -/
def State.gaussRun (s : State) (c i dst src scale : Nat) (l : LaneCtx) : State :=
  let strict := s.strandStrict c i
  let lanes := (s.chamber c).vreg src
  let ws := (List.range 512).map l.word
  if ws.any (·.2) then s.idxRange c i
  else
    let outs := (lanes.zip ws).map (fun x => gaussLane (s.sfImage c) strict scale x.2.1 x.1)
    let s := s.modChamber c (fun x => x.setVreg dst (outs.map (·.value)))
    let s := s.numFlags c i (outs.foldl (fun f o => nfOr f o.flags) 0)
    let s := if outs.any (·.domain) then s.flag .chSfDomain c else s
    ((s.bump .chGaussLanes c 512).bump .chRngWords c 512).sfCount c

/-- The generator word of an element of a view (R213): under the D1 tables it comes from the D1-compatible generator (R212). -/
def State.gaussWord (s : State) (c i di problem : Nat) (v : View) (r cc : Nat) : Nat × Bool :=
  let idx := s.reg .chSrIdxBase c i + v.logical problem r cc
  let gen := if (s.sfImage c).kind = 1 then 1 else s.reg .chRngMode c
  (elemWord gen (s.seed c i) ((s.reg .chGaussStream c i + di) % 2 ^ 64) idx 0, decide (idx ≥ 2 ^ 56))

/-- The lanes of a word in strand order: the rows and elements of the strand's most recent VLOAD (R119, R213). Before any
VLOAD lane l is of row l/128 (log 108), and it has no element: its generator word is a free value (log 2). -/
def State.strandLanes (s : State) (c i : Nat) : LaneCtx :=
  match (s.strand c i).vload with
  | none => { row := fun n => n, incl := fun _ _ => true, word := fun l => (Config.free (s.fresh + l) % 2 ^ 128, false) }
  | some (di, bs, row4, blkN) =>
    let word := match mkView s c di bs .plain (s.strandCtx c) with
      | .ok v => fun l => s.gaussWord c i di 0 v (4 * row4 + l / 128) (128 * blkN + l % 128)
      | .error _ => fun l => (Config.free (s.fresh + l) % 2 ^ 128, false)
    { row := fun n => (4 * row4 + n) % 128, incl := fun _ _ => true, word := word }

/-! ### Strand words -/

/-- VOP (R93). A reserved `VOP` code is refused at admission (R98). -/
def execVop (c i op dst src1 src2 : Nat) (imm : Bool) (immValue : Nat) (s : State) : Out :=
  let s0 := s.settle c
  if !s0.mayIssue c i none then .next s
  else .next ((s0.vop c i op dst src1 src2 imm immValue).passWord c i true)

/-- A word that uses the tables: an uncorrectable table word stops its strand, as an uncorrectable Pocket read does (R87, R117). -/
def State.useTable (s : State) (c i : Nat) (k : State) : State :=
  if (s.sfImage c).bad then ((s.flag .chTableUncorr c).faultTime c).stopStrand c i evTable 0 else k

/-- SFOP with a function of R109. -/
def execSfop (c i func dst src inScale : Nat) (s : State) : Out :=
  let s0 := s.settle c
  if !s0.mayIssue c i none then .next s
  else .next (s0.useTable c i ((s0.sfRun c i func dst src inScale).passWord c i true))

/-- SMX_SUM in strand order (R119, R121). -/
def execSmxSum (c i dst src inScale : Nat) (s : State) : Out :=
  let s0 := s.settle c
  if !s0.mayIssue c i none then .next s
  else .next (s0.useTable c i ((s0.smxRun c i false dst src inScale (s0.strandLanes c i)).passWord c i true))

/-- SMX_PROB in strand order (R119, R125). -/
def execSmxProb (c i dst src inScale : Nat) (s : State) : Out :=
  let s0 := s.settle c
  if !s0.mayIssue c i none then .next s
  else .next (s0.useTable c i ((s0.smxRun c i true dst src inScale (s0.strandLanes c i)).passWord c i true))

/-- GAUSS in strand order (R212, R213). -/
def execGauss (c i dst src inScale : Nat) (s : State) : Out :=
  let s0 := s.settle c
  if !s0.mayIssue c i none then .next s
  else
    let s1 := s0.gaussRun c i dst src inScale (s0.strandLanes c i)
    if (s0.sfImage c).bad then .next (s0.useTable c i s1)
    else if (s1.strand c i).stopped then .next s1
    else
      let s1 := if (s0.strand c i).vload.isNone then { s1 with fresh := s1.fresh + 512 } else s1
      .next (s1.passWord c i true)

/-- RS_CLEAR (R119). -/
def execRsClear (c i : Nat) (s : State) : Out :=
  let s0 := s.settle c
  if !s0.mayIssue c i none then .next s
  else .next (((s0.modStrand c i (fun t => { t with rs := List.replicate 128 {} })).sfCount c).passWord c i true)

/-- RS_FINISH waits for every earlier drain of the strand's runs, then rounds the sums and forms their logarithms (R123). -/
def execRsFinish (c i : Nat) (s : State) : Out :=
  let s0 := s.settle c
  if !s0.mayIssue c i none || !s0.quiet c i then .next s
  else
    let strict := s0.strandStrict c i
    let rows := (s0.strand c i).rs.map (rsFinish (s0.sfImage c) strict)
    let s := (s0.modStrand c i (fun t => { t with rs := rows.map (·.1) })).numFlags c i (rows.foldl (fun f r => nfOr f r.2.1) 0)
    let s := if rows.any (·.2.2) then s.flag .chSfDomain c else s
    .next (s0.useTable c i ((s.sfCount c).passWord c i true))

/-- Address of record `index` of a strand (R123, R128). -/
def State.rsAddr (s : State) (c i index : Nat) : Nat := canonAddr c (s.reg .chRsBase c i + 2048 * index)

/-- RS_OUT waits in the same way and writes the set as a record (R123, R124). -/
def execRsOut (c i index : Nat) (s : State) : Out :=
  let s0 := s.settle c
  if !s0.mayIssue c i none || !s0.quiet c i then .next s
  else
    let a := s0.rsAddr c i index
    if !s0.mapped a 2048 then .next (s0.rdFail c i (.addr a))
    else
      let s := s0.store a ((s0.strand c i).rs.flatMap rsRecord)
      .next ((s.sfCount c).passWord c i true)

/-- Rows whose range a record or its addition has set, each with whether its `RANGE` stood before: reported as under R122 (R121,
R123). -/
def State.rowsRanged (s : State) (c i : Nat) (rows : List (Bool × Bool)) : State :=
  if rows.any (·.1) then
    ((s.flag .chSmxRange c).bump .chSmxRangeRows c (rows.filter (fun r => r.1 && !r.2)).length).modStrand c i
      (fun t => { t with ranged := true })
  else s

/-- RS_IN replaces the set with a record (R123). -/
def execRsIn (c i index : Nat) (s : State) : Out :=
  let s0 := s.settle c
  let a := s0.rsAddr c i index
  if !s0.mayIssue c i none || s0.mustWait c i ⟨a, a + 2048⟩ then .next s
  else
    match s0.rdBytes a 2048 with
    | .error e => .next (s0.rdFail c i e)
    | .ok bs =>
      let strict := s0.strandStrict c i
      let rec16 := fun r => (bs.drop (16 * r)).take 16
      let s := s0.modStrand c i (fun t => { t with rs := (List.range 128).map (fun r => rsOfRecord strict (rec16 r)) })
      let s := s.rowsRanged c i ((List.range 128).map (fun r => (rsBad strict (rec16 r), bit (fieldLE (rec16 r) 10 2) 0)))
      .next ((s.sfCount c).passWord c i true)

/-- RS_ACC adds a record to the set (R123). -/
def execRsAcc (c i index : Nat) (s : State) : Out :=
  let s0 := s.settle c
  let a := s0.rsAddr c i index
  if !s0.mayIssue c i none || s0.mustWait c i ⟨a, a + 2048⟩ then .next s
  else
    match s0.rdBytes a 2048 with
    | .error e => .next (s0.rdFail c i e)
    | .ok bs =>
      let strict := s0.strandStrict c i
      let rec16 := fun r => (bs.drop (16 * r)).take 16
      let rows := (List.range 128).map (fun r => ((s0.strand c i).rsRow r, rsOfRecord strict (rec16 r), rsBad strict (rec16 r)))
      let s := s0.modStrand c i (fun t => { t with rs := rows.map (fun x => rsAccRow strict x.1 x.2.1) })
      let sat := rows.map (fun x => (rsAdd strict x.1 x.2.1.sum false).sat && !x.1.sat)
      let s := s.numFlags c i (nfWhen (!strict && sat.any id) nfAccOverflow)
      let s := s.rowsRanged c i ((rows.zip sat).map (fun x => (x.1.2.2 || x.2, x.1.1.range)))
      .next ((s.sfCount c).passWord c i true)

end Sys2Proof.Machine
end

