-- ==== Sys2Proof/Machine/Facet.lean ====
section
/-!
DEFINITION. The Facet: BIND and SWEEP words, the drain of a bank and the verdict of its check (R63 to R84, R91, R139,
R162, R166, R167, R182, R198).
-/
namespace Sys2Proof.Machine

/-! ### BIND -/

/-- The BIND's output with what is in force (R95, R97, R162). -/
def State.boundOf (s : State) (c i tag desc m n : Nat) : Bound :=
  let ctx := s.wordCtx c i
  let bs := s.descBytes c i desc
  let d := Desc.of bs
  let base := match ctx.bases.find? (fun x => x.1 == desc) with | some x => x.2 | none => d.base
  { tag := tag, desc := desc, bytes := bs, blkM := m, blkN := n, ctx := ctx, tokenOrg := tokenOrgOf s c d base ctx.lens }

/-- What becomes of the run that a BIND's output ends: decided as the run opened, or by its first operands and this output
(R139, R167). -/
def State.bindFate (s : State) (c i : Nat) (v : View) (tag blkM blkN : Nat) : RunFate :=
  let ws := (s.ahead c i).drop 1
  let o : OutInfo := ⟨blkM, blkN, v.rEnd, v.cEnd, [], false⟩
  match bindRun tag ws with
  | none => runFate none none (some o)
  | some (bank, n, opens) =>
    match if opens then none else (s.strand c i).runs.find? (fun r => r.bank == bank) with
    | some r => { far := r.far || (runFate none none (some o)).far, masked := r.masked }
    | none => runFate (s.opInfo c i .opA n ws) (s.opInfo c i .opB n ws) (some o)

/-- The block that a BIND names lies wholly beyond the bounds of its run, or every lane of its score run is excluded, and the BIND
is skipped without issue (R97, R139, R167). -/
def State.bindFar (s : State) (c i : Nat) (v : View) (tag blkM blkN : Nat) : Bool :=
  let f := s.bindFate c i v tag blkM blkN
  f.far || f.masked

/-- The run of a BIND is a score run, whose output block is taken modulo the output's column blocks (R160). -/
def State.bindScore (s : State) (c i tag : Nat) : Bool :=
  let ws := (s.ahead c i).drop 1
  match bindRun tag ws with
  | none => false
  | some (_, n, _) => match s.opInfo c i .opB n ws with | some b => b.isScore | none => false

/-- The block column that a BIND's output takes: that of a score run modulo the output's column blocks (R160). -/
def State.bindBlkN (s : State) (c i : Nat) (o : Bound) (v : View) : Nat :=
  if s.bindScore c i o.tag then o.blkN % max 1 (ceilDiv v.d.cols 128) else o.blkN

/-- Binds an output to its tag. -/
def State.keepBound (s : State) (c i : Nat) (o : Bound) : State :=
  s.modStrand c i (fun t => { t with binds := o :: t.binds.filter (fun x => !(x.tag == o.tag)) })

/-- A BIND that issues: it checks its Pocket range (R87) and reads the gradient mask (R182, R183). The header is read once per
`GO`. -/
def State.bindIssue (s : State) (c i : Nat) (o : Bound) (v : View) : State :=
  match s.pocketCheck v (v.span (128 * o.blkM) 128 (128 * s.bindBlkN c i o v) 128) with
  | some e => s.rdFail c i e
  | none =>
    match s.gmaskOf c i o.desc o.blkM o.blkN with
    | .error e => s.rdFail c i e
    | .ok .none => (s.keepBound c i o).passWord c i true
    | .ok g =>
      let h := (s.strand c i).gmask.getD (s.bytes (canonAddr c (s.reg .chGmaskBase c i)) 64)
      let id := fieldLE h 24 4
      let s1 := ((maskReads c h o.blkM o.blkN).foldl (fun s a => (s.dripRead (c / 8) a.1 a.2).2) s).setReg .chGmaskId c i id
      match g with
      | .recErr => (s1.flag .chGmaskRecErr c).stopStrand c i evGmask id
      | .rows rows blk =>
        ((s1.modStrand c i (fun t => { t with gmask := some h })).keepBound c i
          { o with frozenRows := rows, frozenBlock := blk }).passWord c i (!blk)
      | _ => (s1.flag .chGmaskRange c).stopStrand c i evGmask id

/-- BIND names an output (R95); one whose run is skipped is skipped with it and checks nothing (R139, R167, R189). -/
def execBind (c i outTag desc blkM blkN : Nat) (s : State) : Out :=
  let s0 := s.settle c
  if !s0.mayIssue c i (some (.bind outTag desc blkM blkN)) then .next s
  else
    let o := s0.boundOf c i outTag desc blkM blkN
    match s0.entryPoison c i [desc] with
    | some a => .next (s0.rdFail c i (.poison a))
    | none =>
      if s0.bindFar c i (baseView c desc o.bytes .out o.ctx) outTag blkM blkN then .next ((s0.keepBound c i o).passWord c i false)
      else
        match mkView s0 c desc o.bytes .out o.ctx o.tokenOrg with
        | .error e => .next (s0.rdFail c i e)
        | .ok v => .next (s0.bindIssue c i o v)

/-! ### Steps (R63, R79) -/

/-- One row of the bank and its check unit while a SWEEP steps. -/
structure FacetRow where
  acc : List Acc44
  v : Acc44
  sAbs : Acc44
  void : Bool
deriving DecidableEq, Repr

/-- One step of one row: every Cell adds its product, the check unit its own (R44, R45, R63, R79); the row's check is
void on saturation and, in STRICT numerics, on an infinity or a NaN (R81). -/
def facetRowStep (strict : Bool) (fa fb : Nat) (bRow : List Nat) (w : Nat) (a : Nat) (r : FacetRow) : FacetRow × Bool :=
  let outs := (r.acc.zip bRow).map (fun x => accStep strict x.1 (cellProduct fa fb a x.2))
  let ovf := outs.any (·.2)
  let av := codeValue fa a
  let p := (accRound strict (av.mul (fp32 w))).1
  let special := strict && (outs.any (fun x => !(accNum x.1).isFinite) || !av.isFinite)
  ({ acc := outs.map (·.1), v := (accRound strict ((accNum r.v).add (accNum p))).1
     sAbs := (accRound strict ((accNum r.sAbs).add av.abs)).1, void := r.void || ovf || special }, ovf)

/-- Step k of a SWEEP over all 128 rows (R63): column k of A, row k of B. -/
def facetStep (strict : Bool) (fa fb : Nat) (rows : List FacetRow) (aCol bRow : List Nat) (w : Nat) : List FacetRow × Bool :=
  let outs := (rows.zip aCol).map (fun x => facetRowStep strict fa fb bRow w x.2 x.1)
  (outs.map (·.1), outs.any (·.2))

/-- The first `n` steps of a SWEEP in ascending k (R63, R64). -/
def facetSteps (strict : Bool) (fa fb : Nat) (aWords bWords : List (List Nat)) (ws : List Nat) :
    Nat → List FacetRow × Bool → List FacetRow × Bool
  | 0, r => r
  | n + 1, r =>
    let (rows, o) := facetSteps strict fa fb aWords bWords ws n r
    let (rows', o') := facetStep strict fa fb rows (aWords.getD n []) (bWords.getD n []) (ws.getD n 0)
    (rows', o || o')

/-- A bank's rows with their check units. -/
def BankData.facetRows (b : BankData) : List FacetRow :=
  (List.range 128).map (fun r => ⟨b.rows.getD r [], b.v.getD r accZero, b.sAbs.getD r accZero, b.voids.contains r⟩)

/-- A bank before the first step of an `INIT` run: +0 everywhere (R69, R79). -/
def freshBank (owner pair : Nat) : BankData :=
  { owner := owner, rows := List.replicate 128 (List.replicate 128 accZero), v := List.replicate 128 accZero
    sAbs := List.replicate 128 accZero, z := List.replicate 128 accZero, pair := pair }

/-- The bank after `n` steps of a SWEEP on it. -/
def BankData.sweep (b : BankData) (strict : Bool) (pair n : Nat) (aWords bWords : List (List Nat))
    (checks : List (Nat × Nat × Bool)) : BankData × Bool :=
  let (fa, fb) := (pairFormats pair).getD (0, 0)
  let (rows, o) := facetSteps strict fa fb aWords bWords (checks.map (·.1)) n (b.facetRows, false)
  let used := checks.take n
  let wm := used.foldl (fun m x => max m x.2.1) b.wmax
  let outRange := used.any (fun x => x.2.2)
  ({ b with rows := rows.map (·.acc), v := rows.map (·.v), sAbs := rows.map (·.sAbs), wmax := wm, pair := pair
            voids := (List.range 128).filter (fun r => outRange || (match rows[r]? with | some x => x.void | none => false))
            steps := b.steps + n }, o)

/-! ### Frozen clocks (R72 to R74) -/

/-- What the frozen clocks of a SWEEP add to the counters: total, A feed, B feed, bank. -/
structure Frozen where
  total : Nat := 0
  a : Nat := 0
  b : Nat := 0
  bank : Nat := 0
deriving DecidableEq, Repr

/-- The first clock in which the words up to `w` no longer hold a step back: `lead` clocks after the last becomes valid. -/
def lateNeed (lead : Nat) (late : List (Nat × Nat)) (w : Nat) : Nat :=
  late.foldl (fun m x => if x.1 ≤ w then max m (x.2 + lead) else m) 0

/-- The clock that pops word w of a SWEEP: its step w − 2 runs in it, or for words 0 and 1 step 126 or 127 of the SWEEP ahead
(R71, R72). It comes at the earliest in clock `next`; the answer is the clock after it and the counts of the clocks frozen
before it. Into empty register stages the first step comes four clocks after its words 0 to 2 and its bank are ready, and these
clocks are not frozen (R74). -/
def freezeStep (t : SweepTiming) (w next : Nat) (f : Frozen) : Nat × Frozen :=
  if !t.behind && decide (w < 2) then (next + 1, f)
  else
    let lead := if !t.behind && w == 2 then 4 else 2
    let na := lateNeed lead t.lateA w
    let nb := lateNeed lead t.lateB w
    let nk := if w = 2 && t.bankReady != 0 then t.bankReady + lead else 0
    let at' := max next (max na (max nb nk))
    let n := fun x => min at' x - next
    if !t.behind && w == 2 then (at' + 1, f)
    else (at' + 1, ⟨f.total + (at' - next), f.a + n na, f.b + n nb, f.bank + n nk⟩)

/-- The frozen clocks before the clocks that pop the first n words of a SWEEP; the last two words pop nothing behind them. -/
def frozenPops (t : SweepTiming) : Nat → Nat × Frozen
  | 0 => (2, {})
  | n + 1 => let (next, f) := frozenPops t n; freezeStep t n next f

/-- The frozen clocks of the first n steps of a SWEEP. -/
def frozenClocks (t : SweepTiming) (n : Nat) : Nat × Frozen := frozenPops t (n + 2)

def State.freezeCount (s : State) (c : Nat) (f : Frozen) : State :=
  (((s.bump .chFreezeTotal c f.total).bump .chFreezeAfeed c f.a).bump .chFreezeBfeed c f.b).bump .chFreezeBank c f.bank

/-! ### Fault freeze (R76) -/

/-- A fault freeze: the error bit, `OWN_HOLD`, the freeze, the event with a datum (R76). -/
def State.faultFreeze (s : State) (c i : Nat) (f : Field) (kind datum : Nat) : State :=
  ((((s.flag f c).ownHold c).flag .chFaultFreeze c).strandEvent c i kind datum)

/-! ### SWEEP (R66, R67, R139) -/

/-- Takes the head tile of each feed of a strand. -/
def State.popFeeds (s : State) (c i : Nat) : State :=
  (s.modStrand c i (fun t => { t with feedA := t.feedA.drop 1, feedB := t.feedB.drop 1 })).syncFeed c

/-- A tile less its first n words. -/
def Tile.popped (t : Tile) (n : Nat) : Tile :=
  { t with words := t.words.drop n, poison := (t.poison.filter (fun p => decide (n ≤ p))).map (· - n), checks := t.checks.drop n }

/-- Takes the first n words of each head tile; the others stay valid in the queues (R71). -/
def State.popWords (s : State) (c i n : Nat) : State :=
  let cut := fun (q : List Tile) => match q with | t :: ts => t.popped n :: ts | [] => []
  (s.modStrand c i (fun t => { t with feedA := cut t.feedA, feedB := cut t.feedB })).syncFeed c

/-- Replaces or adds the open run of a bank. -/
def State.putRun (s : State) (c i : Nat) (r : Run) : State :=
  s.modStrand c i (fun t => { t with runs := r :: t.runs.filter (fun x => !(x.bank == r.bank)) })

/-- Closes the open run of a bank. -/
def State.dropRun (s : State) (c i bank : Nat) : State :=
  s.modStrand c i (fun t => { t with runs := t.runs.filter (fun x => !(x.bank == bank)) })

/-- The error bit of R67 for a word that issues with the given `LAST`, in the order in which the rule lists the cases. -/
def sweepRefusal (w : SweepWord) (last : Bool) (run : Option Run) (bound : Bool) : Option Field :=
  let pairBad := decide (w.pair > 5) ||
    (match run with | some r => (match r.pair with | some p => decide (p ≠ w.pair) && !w.init | none => false) | none => false)
  let orderBad := !w.init &&
    (match run with | some r => (match r.lastK with | some k => decide (w.kBlock ≤ k) | none => false) | none => false)
  if pairBad then some .chPairErr
  else if !w.init && run.isNone then some .chBankErr
  else if orderBad then some .chOrderErr
  else if last && !bound then some .chTagErr
  else if w.reserved ≠ 0 then some .chPairErr
  else none

/-- The run's bank passes to the Drain: DRAINING, with the output that the tag names (R67, R68). -/
def State.closeRun (s : State) (c i bank tag : Nat) : State :=
  let o := (s.strand c i).binds.find? (fun x => x.tag == tag)
  let s := s.modBank c bank (fun b => { b with bound := o })
  let s := ((s.put (bankField bank) c 2).dropRun c i bank).syncWrites c
  if (s.strand c i).runs.isEmpty then s.switchPoint c else s

/-- A SWEEP that is skipped: its tiles go, it is counted, and the run stays open or closes (R139, R167, R182). A word of a run that
`LAST` has closed before it, as `closed` says, changes no run. -/
def State.skipSweep (s : State) (c i : Nat) (w : SweepWord) (fate : RunFate) (closed : Bool) (r : Run) : State :=
  let s := s.popFeeds c i
  let s := if fate.far || (fate.frozen && !fate.masked) || !fate.skip then s.bump .chSkipTiles c 1 else s
  let s := if fate.masked && w.last then s.bump .chMaskSkips c 1 else s
  let s := if fate.frozen && !fate.far && w.last then s.bump .chGmaskSkips c 1 else s
  if closed then s.passWord c i false
  else if !w.last then (s.putRun c i r).passWord c i false
  else if fate.skip || !r.kept then
    let s := (s.dropRun c i w.bank).passWord c i false
    if (s.strand c i).runs.isEmpty then s.switchPoint c else s
  else if !((s.strand c i).binds.any (fun o => o.tag == w.outTag)) then s.facetRefuse c i .chTagErr
  else (s.passWord c i false).closeRun c i w.bank w.outTag

/-- The two register stages hold steps n and n + 1 of a tile pair (R71). -/
def stageWord (bank : Nat) (a b : List (List Nat)) (checks : List (Nat × Nat × Bool)) (n : Nat) : StageWord :=
  ⟨a.getD n [], b.getD n [], checks.getD n (0, 0, false), n, bank⟩

/-- A poisoned word p of a SWEEP stops the Facet: the clock that pops it never comes (R71, R72). The words before it are popped, in a
SWEEP behind another the first of them while steps 126 and 127 of that one run; those steps that its words 0 and 1 held back are
undone. The stages hold the two words popped last. -/
def State.stopFacet (s : State) (c i : Nat) (behind : Bool) (p : Nat) (w : Nat → StageWord) : State :=
  let s := s.popWords c i (if behind || decide (2 < p) then p else 0)
  let hold := fun (s : State) (o d : StageWord) =>
    ((s.modChamber c (fun x => { x with operand := some o, driver := some d })).put .chStepBank c o.bank).put .chCurStep c o.step
  if 2 ≤ p then (if behind || decide (2 < p) then hold s (w (p - 2)) (w (p - 1)) else s)
  else
    match behind, (s.chamber c).tail with
    | true, some t =>
      if s.reg (bankField t.bank) c = 0 then s
      else
        let b := if p = 0 then t.before126 else t.before127
        let s := ((s.modBank c t.bank (fun x => { b with bound := x.bound })).put (bankField t.bank) c 1).syncWrites c
        let s := s.put .chSweepCount c (s.reg .chSweepCount c - 1)
        if p = 0 then hold s t.w126 t.w127 else hold s t.w127 (w 0)
    | _, _ => s

/-- The steps of a SWEEP that has issued (R63, R69, R71 to R76, R79). Once it has ended and nothing follows, the register stages are
empty; `CUR_STEP` and `STEP_BANK` keep its last step and its bank (log 111). -/
def State.runSweep (s : State) (c i : Nat) (w : SweepWord) (t : SweepTiming) (zero init last : Bool) (r : Run)
    (a b : Tile) : State :=
  let strict := s.strandStrict c i
  let (fa, fb) := (pairFormats w.pair).getD (0, 0)
  let aWords := if zero then List.replicate 128 (List.replicate 128 (zeroCode fa)) else a.words
  let aWords := if r.frozenRows.isEmpty then aWords
    else aWords.map (fun col => (col.zip (List.range 128)).map (fun x => if r.frozenRows.contains x.2 then zeroCode fa else x.1))
  let bWords := if zero then List.replicate 128 (List.replicate 128 (zeroCode fb)) else b.words
  let checks := if zero then List.replicate 128 (0, 0, false) else b.checks
  let bad := if zero then [] else a.poison ++ b.poison
  let p := bad.foldl min 130
  let stop := p - 2
  let bank0 := if init then freshBank i w.pair else (s.chamber c).bank w.bank
  let (bank, ovf) := bank0.sweep strict w.pair stop aWords bWords checks
  let mark := fun (x : BankData) =>
    { x with kblocks := x.kblocks + 1, owner := i, qBlk := if b.isScore then b.blkMN else 0
             score := if b.isScore then b.score else x.score, mEnd := min x.mEnd a.mnEnd
             nEnd := if b.isScore then x.nEnd else min x.nEnd b.mnEnd }
  let bank := mark bank
  let word := stageWord w.bank aWords bWords checks
  let before := fun n => mark (bank0.sweep strict w.pair n aWords bWords checks).1
  -- without a step the bank keeps its state (R68)
  let s := if stop = 0 then s
    else
      let s := (s.modBank c w.bank (fun _ => bank)).put (bankField w.bank) c 1
      s.numFlags c i (nfWhen ovf nfAccOverflow)
  let s := s.freezeCount c (frozenPops t p).2
  let s := if p = 130 then
      ((s.popFeeds c i).modChamber c (fun x =>
        { x with operand := none, driver := none
                 tail := some ⟨w.bank, before 126, before 127, word 126, word 127⟩ })).put .chStepBank c w.bank |>.put .chCurStep c 127
    else s.stopFacet c i t.behind p word
  let s := s.putRun c i { r with pair := some w.pair, lastK := some w.kBlock, kept := true }
  let s := s.passWord c i true
  if stop < 128 then
    let s := if t.behind || decide (2 < p) then s.flag .chFrozen c else s
    let at' := if a.poison.isEmpty then b.poisonAddr else a.poisonAddr
    let s := if regionOf at' = some .pocket then s.faultTime c else s
    s.faultFreeze c i .chPoison evPoison at'
  else
    let s := s.bump .chSweepCount c 1
    let s := if zero then s.bump .chZeroRuns c 1 else s
    if last then s.closeRun c i w.bank w.outTag else s

/-- The refill of a run is still to come, or its bank does not permit the first step (R68, R72). -/
def State.bankReady (s : State) (c : Nat) (init : Bool) (r : Run) : Bool :=
  let st := s.reg (bankField r.bank) c
  if init then st == 0 else st == 1 && r.refill.isNone

/-- The run that a SWEEP opens or continues. -/
def runOf (run : Option Run) (w : SweepWord) (fate : RunFate) (ctx : NestCtx) : Run :=
  match run with
  | some r => r
  | none => { bank := w.bank, pair := none, lastK := none, kept := false, far := fate.far, masked := fate.masked
              frozen := fate.frozen, frozenRows := fate.frozenRows, ctx := ctx }

/-- The SWEEPs of a run that follow the n-th SWEEP ahead are all skipped, up to the one that carries `LAST`, whose `OUT_TAG` is the
answer (R139, rule 3). -/
def State.restSkipped (s : State) (c i bank : Nat) (m : Option Nat) (all : List EWord) : Nat → List EWord → Option Nat
  | _, [] => none
  | n, .sweep _ b _ last _ tag :: ws =>
    if b ≠ bank then s.restSkipped c i bank m all (n + 1) ws
    else if !beyondK (s.opInfo c i .opA n all) (s.opInfo c i .opB n all) m then none
    else if last then some tag
    else s.restSkipped c i bank m all (n + 1) ws
  | n, _ :: ws => s.restSkipped c i bank m all n ws

/-- The `OUT_TAG` with which a SWEEP that runs ends its run: its own, or, where every later SWEEP of the run is skipped, that of the
one which carries `LAST` (R67, R139 rule 3). `here` are the words ahead, the SWEEP first. -/
def State.closing (s : State) (c i : Nat) (w : SweepWord) (nested : Bool) (m : Option Nat) (here : List EWord) : Option Nat :=
  if w.last then some w.outTag
  else if nested then none
  else (s.restSkipped c i w.bank m here 1 (here.drop 1)).filter (fun tag => (s.strand c i).binds.any (fun q => q.tag == tag))

/-- SWEEP (R63 to R82, R139). It waits while a tile or its bank is not there. -/
def execSweep (c i : Nat) (w : SweepWord) (t : SweepTiming) (s : State) : Out :=
  let s0 := s.settle c
  if !s0.mayIssue c i (some (.sweep w.pair w.bank w.init w.last w.kBlock w.outTag)) then .next s
  else
    let x := s0.strand c i
    let ws := s0.ahead c i
    let run := x.runs.find? (fun r => r.bank == w.bank)
    let a := s0.opInfo c i .opA 0 ws
    let b := s0.opInfo c i .opB 0 ws
    let here := EWord.sweep w.pair w.bank w.init w.last w.kBlock w.outTag :: ws.drop 1
    let o := s0.outInfo c i w.bank 0 here
    let fate := match run with
      | some r => if r.kept then {} else { far := r.far, masked := r.masked, frozen := r.frozen, frozenRows := r.frozenRows }
      | none => if w.init then runFate a b o else {}
    let r := runOf run w fate (s0.wordCtx c i)
    let nested := match x.emit with | e :: _ => e.zeroFed | [] => false
    let bound := fun tag => x.binds.any (fun q => q.tag == tag)
    let beyond := !nested && beyondK a b (o.map (·.m))
    let zero := nested || (beyond && w.last && !r.kept && (run.isSome || w.init))
    let w' := match s0.closing c i w nested (o.map (·.m)) here with | some tag => { w with last := true, outTag := tag } | none => w
    match x.feedA, x.feedB with
    | ta :: _, tb :: _ =>
      if fate.skip || (beyond && !zero) then .next (s0.skipSweep c i w fate (run.isNone && !w.init) r)
      else
        match sweepRefusal w w'.last run (bound w'.outTag) with
        | some f => .next (s0.facetRefuse c i f)
        | none =>
          let init := !r.refilled && !r.kept
          -- an INIT word on a bank that a run of the strand holds waits for FREE (R72)
          if s0.bankReady c init r && !(w.init && (r.kept || r.refilled)) then .next (s0.runSweep c i w' t zero init w'.last r ta tb) else .next s
    | _, _ =>
      match sweepRefusal w w.last run (bound w.outTag) with
      | some f => .next (s0.facetRefuse c i f)
      | none => .next s

/-! ### The drain (R77, R79 to R81, R91, R166) -/

/-- The combined factor of an output and the two operand scales (R49), read from the descriptors that it names. -/
def State.scales (s : State) (c i : Nat) (o : Bound) (v : View) : Nat × Nat × Nat :=
  let sc := fun d role =>
    match mkView s c d (s.descBytes c i d) role o.ctx with
    | .ok v => v.scale
    | .error _ => (Desc.of (s.descBytes c i d)).scale
  (sc v.d.aDesc .opA, sc v.d.bDesc .opB, v.scale)

/-- One word of a drain routine (R91). -/
def State.routineWord (s : State) (c i w : Nat) (l : LaneCtx) : State :=
  if w % 256 = 0x30 then s.vop c i (bits w 13 8) (bits w 18 14) (bits w 23 19) (bits w 28 24) (bit w 29) (bits w 63 32)
  else
    let func := bits w 13 8
    let dst := bits w 18 14
    let src := bits w 23 19
    let scale := bits w 63 32
    if func = 0x20 then s.smxRun c i false dst src scale l
    else if func = 0x21 then s.smxRun c i true dst src scale l
    else if func = 0x30 then s.gaussRun c i dst src scale l
    else s.sfRun c i func dst src scale

/-- The words of an output's drain routine (R91, R96). -/
def State.routine (s : State) (c i : Nat) (d : Desc) : List Nat :=
  if d.spill then [] else (List.range d.drainLen).map (fun n => s.progWord c i (d.drainWord + n))

/-- What the drain of a bank has gathered: the elements for the Store, amax and numeric flags. -/
structure Drained where
  elems : List (Nat × Nat × Acc44) := []
  amax : Nat := 0
  flags : Nat := 0
deriving DecidableEq, Repr

/-- amax of the logical values acc × scaleA × scaleB of included elements (R50). -/
def amaxOf (sa sb : Nat) (xs : List Acc44) : Nat :=
  xs.foldl (fun m a =>
    max m (amaxCode (((accNum a).mul (fp32 sa)).mul (fp32 sb)))) 0

/-- Row and column of lane l of unload cycle u of block (m, n) (R119). -/
def laneRow (m u l : Nat) : Nat := 128 * m + 4 * u + l / 128
def laneCol (n l : Nat) : Nat := 128 * n + l % 128

/-- One unload cycle: scale, mask, amax, routine, and the values for the Store (R49, R50, R91, R166). -/
def State.unload (s : State) (c i : Nat) (o : Bound) (v : View) (b : BankData) (sc : Nat × Nat × Nat) (factor : Acc44)
    (n : Nat) (routine : List Nat) (acc : Drained) (u : Nat) : State × Drained :=
  let strict := s.strandStrict c i
  let vals := (List.range 4).flatMap (fun r => b.rows.getD (4 * u + r) [])
  let frozen := fun l => o.frozenRows.contains (4 * u + l / 128)
  let out := fun l => decide (laneRow o.blkM u l < v.rEnd) && decide (laneCol n l < v.cEnd)
  -- elements beyond A's M bound or B's N bound are none of the output's (R129, R135)
  let inB := fun l => out l && (v.d.spill || (decide (laneRow o.blkM u l < b.mEnd) && decide (laneCol n l < b.nEnd)))
  if v.d.spill then
    let es := ((List.range 512).zip vals).filter (fun x => inB x.1)
    (s, { acc with elems := acc.elems ++ es.map (fun x =>
      (laneRow o.blkM u x.1, laneCol n x.1, if frozen x.1 then accZero else x.2)) })
  else
    let masked := fun l =>
      match b.score with
      | some r => inB l && r.excludes (r.qOrg + laneRow o.blkM u l) (r.keyOrg + l % 128)
      | none => false
    let ys := ((List.range 512).zip vals).map (fun x =>
      if masked x.1 then (accMask, 0) else accRoundF strict ((accNum x.2).mul (accNum factor)))
    let counted := ((List.range 512).zip vals).filter (fun x => inB x.1 && !masked x.1 && !frozen x.1)
    let s := s.modChamber c (fun x => x.setVreg 0 (ys.map (·.1)))
    let lanes : LaneCtx :=
      { row := fun g => 4 * u + g, incl := fun g j => inB (128 * g + j)
        word := fun l => s.gaussWord c i o.desc o.ctx.listed v (laneRow o.blkM u l) (laneCol n l) }
    let s := routine.foldl (fun s w => s.routineWord c i w lanes) s
    let out := (s.chamber c).vreg 0
    let es := ((List.range 512).zip out).filter (fun x => inB x.1 && !frozen x.1)
    (s, { elems := acc.elems ++ es.map (fun x => (laneRow o.blkM u x.1, laneCol n x.1, x.2))
          amax := max acc.amax (amaxOf sc.1 sc.2.1 (counted.map (·.2)))
          flags := nfOr acc.flags (ys.foldl (fun f y => nfOr f y.2) 0) })

/-- All 32 unload cycles in order (R77). -/
def State.unloadAll (s : State) (c i : Nat) (o : Bound) (v : View) (b : BankData) (sc : Nat × Nat × Nat) (factor : Acc44)
    (n : Nat) (routine : List Nat) : State × Drained :=
  (List.range 32).foldl (fun (x : State × Drained) u => x.1.unload c i o v b sc factor n routine x.2 u) (s, {})

/-- τ of R80 as a value, for K steps. -/
def checkTau (pair k : Nat) : Num := (Num.pow2 (if pair ≤ 1 then -21 else -22)).add (.fin false k (-31))

/-- The check of row r of a drained bank: its sum, and whether it passes, fails or is void (R80, R81). -/
def checkRow (strict : Bool) (b : BankData) (r : Nat) : Acc44 × Bool × Bool :=
  let sum := accSum strict ((b.rows.getD r []).map accNum)
  let v := accNum (b.v.getD r accZero)
  let z := if b.refilled then accNum (b.z.getD r accZero) else Num.zero
  let lim := ((accNum (b.sAbs.getD r accZero)).mul (fp32 b.wmax)).add z
  let special := strict && (!(accNum sum).isFinite || !v.isFinite || !lim.isFinite)
  let void := b.voids.contains r || special || lim.lt (Num.pow2 (-1000))
  (sum, void, !void && ((checkTau b.pair b.steps).mul lim).lt ((accNum sum).sub v).abs)

/-- The block column of an output: that of a score run is taken modulo the output's column blocks (R160). -/
def outBlkN (b : BankData) (o : Bound) (v : View) : Nat :=
  if b.score.isSome then o.blkN % max 1 (ceilDiv v.d.cols 128) else o.blkN

/-- A bank becomes FREE (R68). -/
def State.freeBank (s : State) (c bank : Nat) : State := (s.modBank c bank (fun _ => {})).put (bankField bank) c 0

/-- The tile that a drain hands to the Store's buffer. -/
def State.storeTile (s : State) (c i bank : Nat) (b : BankData) (o : Bound) (v : Except RdErr View) : State × StoreTile :=
  let strict := s.strandStrict c i
  let chk := (List.range 128).map (checkRow strict b)
  let failRow := (List.range 128).find? (fun r => match chk[r]? with | some x => x.2.2 | none => false)
  let shown := fun (a : Option Acc44) => match a with | some a => toFP32 (accNum a) | none => 0
  let base : StoreTile :=
    { strand := i, bank := bank, span := ⟨0, 0⟩, writes := [], failRow := failRow
      rowSum := shown (failRow.bind (fun r => (chk[r]?).map (·.1))), checkSum := shown (failRow.bind (fun r => b.v[r]?))
      voidRows := (chk.filter (fun x => x.2.1)).length, pair := b.pair, kblocks := b.kblocks, tag := o.tag }
  match v with
  | .error e => (s, { base with err := some e })
  | .ok v =>
    let n := outBlkN b o v
    let sc := s.scales c i o v
    let (s, d) := s.unloadAll c i o v b sc (combinedScale strict sc.1 sc.2.1 sc.2.2) n (s.routine c i v.d)
    let (ps, t) := convertAll strict v o.ctx.listed (s.draws c i o.desc) d.elems
    let s := (s.tally c i t).numFlags c i d.flags
    let tokens := v.tokens (ps.map (fun p => (p.row, p.col)))
    let tile := { base with
      span := v.span (128 * o.blkM) 128 (128 * n) 128, amax := d.amax
      tokens := tokens.length
      maskRows := if v.d.spill then 0 else (o.frozenRows.filter (fun r => decide (128 * o.blkM + r < v.rEnd))).length }
    if t.idxRange then (s.idxRange c i, tile)
    else
      match v.writesOf s ps with
      | .error e => (s, { tile with err := some e })
      | .ok (ws, blocks, clamps) =>
        (s.walkView c v (tokenPages tokens), { tile with writes := ws, fsBlocks := blocks, fsClamps := clamps })

/-- The output of a drain, with what the drain reads of the strand's program beside it: the entries of its A and B operands and
the words of its routine (R87, R91, R96). -/
def State.drainView (s : State) (c : Nat) (b : BankData) (o : Bound) : Except RdErr View := do
  let v ← mkView s c o.desc o.bytes .out o.ctx o.tokenOrg
  let w := (s.strand c b.owner).wordAddr c v.d.drainWord
  if v.d.spill then .ok v
  else
    match s.entryPoison c b.owner [v.d.aDesc, v.d.bDesc] with
    | some a => .error (.poison a)
    | none => if v.d.drainLen ≠ 0 && s.poisoned w (8 * v.d.drainLen) then .error (.poison w) else .ok v

/-- The Fetch of a drain routine waits for an earlier Store write that overlaps its words (R101). -/
def State.routineWaits (s : State) (c : Nat) (b : BankData) (o : Bound) : Bool :=
  let d := Desc.of o.bytes
  let w := (s.strand c b.owner).wordAddr c d.drainWord
  !d.spill && d.drainLen != 0 &&
    (s.chamber c).store.any (fun t => t.strand == b.owner && t.span.meets ⟨w, w + 8 * d.drainLen⟩)

/-- The drain of a DRAINING bank: 32 unload cycles into the Store's buffer, which holds two tiles; the bank is then FREE
(R68, R77, R79, R91). -/
def execBankDrain (c bank : Nat) (s : State) : Out :=
  let b := (s.chamber c).bank bank
  -- in a fault freeze both banks keep their content and are not used again (R76)
  if s.reg (bankField bank) c ≠ 2 || (s.chamber c).store.length ≥ 2 || s.reg .chFaultFreeze c = 1 then .next s
  else
    match b.bound with
    | none => .next s
    | some o =>
      if s.routineWaits c b o then .next s else
      let v := s.drainView c b o
      let sf := (match v with | .ok v => s.routine c b.owner v.d | .error _ => []).any (fun w => w % 256 == 0x38)
      -- an uncorrectable table word freezes the Facet (R76, R117)
      if sf && (s.sfImage c).bad then .next ((s.faultTime c).faultFreeze c b.owner .chTableUncorr evTable 0) else
      let (s, tile) := s.storeTile c b.owner bank b o v
      let s := s.bump .chVecCycles c 1
      let s := s.modChamber c (fun x => { x with store := x.store ++ [tile] })
      -- a pending table bank becomes active in the clock after the 32nd unload cycle (R116)
      .next (((s.freeBank c bank).syncWrites c).switchTables c sf)

/-! ### The verdict (R80 to R84) -/

/-- A tile fails: it is discarded, its record kept while `CHECK_FAIL` was clear, and the Facet freezes (R76, R82, R84). -/
def State.checkFailed (s : State) (c : Nat) (t : StoreTile) (row : Nat) : State :=
  let s := s.put .chFailCount c (min 0xFF (s.reg .chFailCount c + 1))
  let s := if s.reg .chCheckFail c = 1 then s
    else
      ((((((((s.put .chFailRow c row).put .chFailBank c t.bank).put .chFailPair c t.pair).put .chFailKblocks c
        t.kblocks).put .chFailTag c t.tag).put .chFailTime c s.now).put .chFailRowsum c t.rowSum).put .chFailChecksum c
        t.checkSum)
  (s.faultTime c).faultFreeze c t.strand .chCheckFail evCheckFail row

/-- A tile passes: the Store writes its values (R82, R162, R163). The amax that it records stands in the strand alone: R96 names a
record in `AUX` and gives it no layout (R50; log 110). -/
def State.tilePassed (s : State) (c : Nat) (t : StoreTile) : State :=
  match t.err with
  | some e => s.rdFail c t.strand e
  | none =>
    let s := (s.storeAll t.writes (some (c / 8))).unform c t.span
    let s := s.bump .chStoreBytes c (writesLen t.writes)
    let s := s.bump .chAppendTokens c t.tokens
    let s := s.bump .chFsEncBlocks c t.fsBlocks
    let s := s.bump .chFsClamps c t.fsClamps
    let s := s.bump .chGmaskRows c t.maskRows
    s.modStrand c t.strand (fun x => { x with amax := max x.amax t.amax })

/-- The verdict on the oldest tile of the Store's buffer (R82). -/
def execCheckVerdict (c : Nat) (s : State) : Out :=
  match (s.chamber c).store with
  | [] => .next s
  | t :: rest =>
    let s := s.modChamber c (fun x => { x with store := rest })
    let s := s.put .chVoidCount c (min 0xFFFF (s.reg .chVoidCount c + t.voidRows))
    let s := match t.failRow with
      | some row => s.checkFailed c t row
      | none => if (s.strand c t.strand).stopped && t.writes.isEmpty then s else s.tilePassed c t
    .next ((List.range 4).foldl (fun s i => s.nestStop c i) ((s.syncWrites c).syncStops c))

end Sys2Proof.Machine
end

