-- ==== Sys2Proof/Machine/Admit.lean ====
section
/-!
DEFINITION. The admission scan of a stage program (R94 to R98, R132, R160, R200, R439, R440).
-/
namespace Sys2Proof.Machine

/-! ### Headers and words -/

/-- A stage-program header (R94). -/
structure ProgHeader where
  format : Nat
  wordCount : Nat
  descCount : Nat
  ctrCount : Nat
  stageId : Nat
  descBase : Nat
  ctrBase : Nat
deriving DecidableEq, Repr

def ProgHeader.of (bs : List Byte) : ProgHeader :=
  { format := fieldLE bs 0 1, wordCount := fieldLE bs 2 2, descCount := fieldLE bs 4 1, ctrCount := fieldLE bs 5 1
    stageId := fieldLE bs 6 2, descBase := fieldLE bs 8 8, ctrBase := fieldLE bs 16 8 }

/-- The header's own refusal (codes 0x07, 0x02 and 0x08 of R98). -/
def headerCode (bs : List Byte) (major : Nat) : Option Nat :=
  let h := ProgHeader.of bs
  if h.format ≠ (if major = 2 then 2 else 3) then some 0x07
  else if !zeroLE bs 1 1 || !zeroLE bs 24 8 || h.descBase ≥ 2 ^ 48 || h.ctrBase ≥ 2 ^ 48 then some 0x02
  else if h.wordCount = 0 then some 0x08
  else none

/-- The bits that a word of an opcode may use, none for an unknown opcode (R66, R95). -/
def wordMask (op : Nat) : Option Nat :=
  match op with
  | 0x00 => some 0xFF
  | 0x01 => some 0xFFFFFFFFFFF7FFFF
  | 0x02 => some 0xFFFFFFFFFFFFFFFF
  | 0x03 => some 0xFFFFFFFFFF1FFFFF
  | 0x10 => some 0x0000FFFFFFFF3FFF
  | 0x20 => some 0xFFFFFFFFFFFFFFFF
  | 0x30 => some 0xFFFFFFFF3FFFFFFF
  | 0x38 => some 0xFFFFFFFF00FFFFFF
  | 0x40 => some 0xFFFFFFFFFF1FFFFF
  | 0x50 => some 0xFFFFFFFFFFFFFFFF
  | 0x51 => some 0x0000FFFFFFFFFFFF
  | 0x52 => some 0xFFFFFFFFFFFF0FFF
  | 0x61 => some 0xFFFF
  | 0x70 => some 0xFFFFFFFFFFFF00FF
  | 0x71 => some 0xFF
  | 0x7F => some 0xFF
  | _ => none

/-- The `FUNC` codes of R109. -/
def funcKnown (f : Nat) : Bool := decide (f ≤ 0x0B) || f == 0x20 || f == 0x21 || f == 0x30 || (decide (0x28 ≤ f) && decide (f ≤ 0x2C))

/-- The row-statistics forms of the SFOP word (R123). -/
def funcRs (f : Nat) : Bool := decide (0x28 ≤ f) && decide (f ≤ 0x2C)

/-- The refusal that a word earns by itself (R95, R98, R107, R123): codes 0x01, 0x02, 0x04, 0x09. -/
def wordCode (w : Nat) : Option Nat :=
  let op := w % 256
  let fn := bits w 13 8
  match wordMask op with
  | none => some 0x01
  | some m =>
    if (op = 0x30 && !vopKnown fn) || (op = 0x38 && !funcKnown fn) then some 0x01
    else if w ||| m ≠ m || (op = 0x38 && (fn = 0x28 || fn = 0x29) && bits w 63 32 ≠ 0) then some 0x02
    else if op = 0x10 && bits w 10 8 > 5 then some 0x04
    else if (op = 0x01 && bits w 17 16 = 3) || (op = 0x38 && !funcRs fn && bits w 62 55 = 0xFF) then some 0x09
    else none

/-! ### Descriptors -/

/-- How a word uses a descriptor (R439). -/
inductive Use where
  | operand | output | copyDest
deriving DecidableEq, Repr

/-- What the scan reads beside the words. -/
structure ScanCtx where
  chamber : Nat
  h : ProgHeader
  /-- Indices named as operand descriptors, and as loop-nest descriptors. -/
  opnds : List Nat
  nests : List Nat
  lens : List Nat

/-- Entry d of the table that a header names. -/
def State.tableEntry (s : State) (x : ScanCtx) (d : Nat) : List Byte := s.bytes (canonAddr x.chamber (x.h.descBase + 64 * d)) 64

/-- Reserved fields of a descriptor under a use (R96, R160). -/
def descReserved (bs : List Byte) (u : Use) (alsoOpnd : Bool) : Bool :=
  let w0 := fieldLE bs 0 4
  let w8 := fieldLE bs 32 8
  let d := Desc.of bs
  bits w0 31 16 != 0 || !zeroLE bs 48 16 || decide (d.base ≥ 2 ^ 48) ||
    (match u with
     | .operand => bits w8 63 8 != 0
     | .output => bits w8 15 11 != 0 || bits w8 39 36 != 0 || (!alsoOpnd && d.deliver != 0)
     | .copyDest => bits w8 15 11 != 0 || bits w8 39 36 != 0 || (!alsoOpnd && d.deliver != 0)) ||
    (d.space == 3 && decide (d.aux ≥ 2)) || (d.addrMode == 2 && decide (d.aux ≥ 2 ^ 48))

/-- Reserved encodings of a descriptor under a use: code 0x09 (R48, R160, R200, R440). -/
def State.descBad (s : State) (c : Nat) (bs : List Byte) (u : Use) : Bool :=
  let d := Desc.of bs
  let isOut := u != .operand
  let g := Geom.of (s.bytes (canonAddr c d.aux) 64)
  let fsBad := d.fsRate != 0 &&
    (d.addrMode != 2 || !(d.format == fmtBF16 || d.format == fmtLNS16) || (if isOut then g.posOrder != 1 else decide (g.lower > 1)))
  let pagedBad := d.space == 3 &&
    (d.addrMode != 0 || d.trans || d.fsRate != 0 ||
     s.num (s.num (canonAddr c d.base) 8 + 8) 1 % 16 != d.format)
  d.addrMode == 3 || d.fsRate == 3 || fsBad || pagedBad || (isOut && d.trans) || (u == .output && d.rnd == 3) ||
    (d.space != 3 && !scaleOk d.scale)

/-- The refusal of a named descriptor (R439). -/
def State.descCode (s : State) (x : ScanCtx) (d : Nat) (u : Use) : Option Nat :=
  if d ≥ x.h.descCount then some 0x03
  else
    let bs := s.tableEntry x d
    if descReserved bs u (x.opnds.contains d) then some 0x02
    else if s.descBad x.chamber bs u || x.nests.contains d then some 0x09
    else none

/-- The lowest code, where one word earns several (log 17). -/
def lowCode (cs : List (Option Nat)) : Option Nat :=
  cs.foldl (fun m c => match m, c with | some a, some b => some (min a b) | none, c => c | m, none => m) none

/-- A feed LOAD's conversion, and the orientation of a pointer list (R58, R440). -/
def feedCode (bs : List Byte) (posA : Bool) : Option Nat :=
  let d := Desc.of bs
  let holdsK := d.ptrAxis = (if posA then 1 else 0)
  if !loadPairOk d.format d.deliver posA || d.deliver = fmtSpill then some 0x05
  else if d.addrMode = 1 && d.trans = holdsK then some 0x09
  else none

/-- A refill's conversion (R58). -/
def refillCode (bs : List Byte) : Option Nat :=
  let d := Desc.of bs
  if d.format = fmtSpill && d.deliver = fmtSpill then none else some 0x05

/-- The format of an output, VLOAD, VSTORE or COPY (R31): a reserved code above 7 has no conversion, and 0x05 refuses it (log 103). -/
def formatCode (bs : List Byte) : Option Nat := if (Desc.of bs).format > 7 then some 0x05 else none

/-- The drain routine of an output: where it lies (code 0x08; R440). -/
def routineCode (bs : List Byte) (firstEnd n : Nat) : Option Nat :=
  let d := Desc.of bs
  if d.spill || d.drainLen = 0 then none
  else if d.drainWord < firstEnd || d.drainWord + d.drainLen > n then some 0x08
  else none

/-- An output that a BIND or a NEST names: itself, and its A and B descriptors (R439), which a spill output does not use and for which
they are not checked (log 102). -/
def State.outCode (s : State) (x : ScanCtx) (d firstEnd n : Nat) : Option Nat :=
  if d ≥ x.h.descCount then some 0x03
  else
    let bs := s.tableEntry x d
    let o := Desc.of bs
    lowCode [s.descCode x d .output, formatCode bs, routineCode bs firstEnd n,
      if o.spill then none else s.descCode x o.aDesc .operand, if o.spill then none else s.descCode x o.bDesc .operand]

/-! ### Loop nests (R131, R132) -/

/-- The reserved bits of a loop-nest descriptor; in an inner one the outer fields too (R131, R132). -/
def nestReserved (bs : List Byte) (isInner : Bool) : Bool :=
  let w := natLE bs
  bits w 95 84 != 0 || bits w 127 116 != 0 || bits w 159 152 != 0 || bits w 191 180 != 0 || bits w 223 212 != 0 ||
    bits w 255 248 != 0 || bits w 287 272 != 0 || bits w 383 368 != 0 || bits w 415 404 != 0 ||
    (isInner && (bits w 7 5 != 0 || bits w 63 16 != 0 || bits w 511 160 != 0))

/-- The chain of descriptors from the named one, outermost first; at most three levels. -/
def State.nestChain (s : State) (x : ScanCtx) : Nat → Nat → List Nat
  | 0, d => [d]
  | n + 1, d =>
    if d ≥ x.h.descCount then [d]
    else
      let nd := NestDesc.of (s.tableEntry x d)
      if nd.level = 0 || nd.inner = 0xFF then [d] else d :: s.nestChain x n nd.inner

/-- Extents of one level against the next inner one (R132). -/
def nestStep (o i : NestDesc) : Bool :=
  decide (i.level < o.level) && decide (o.mExt % i.mExt = 0) && decide (o.nExt % i.nExt = 0) && decide (o.kExt % i.kExt = 0)

/-- Adjacent pairs of a chain. -/
def nestSteps : List NestDesc → Bool
  | o :: i :: rest => nestStep o i && nestSteps (i :: rest)
  | _ => true

/-- The reserved combinations of R132 over a chain (code 0x09). -/
def nestBad (ds : List NestDesc) : Bool :=
  match ds with
  | [] => true
  | top :: _ =>
    let last := ds.getLastD top
    ds.any (fun d => d.level == 3 || decide (d.order > 5) || d.mExt == 0 || d.nExt == 0 || d.kExt == 0) ||
    last.level != 0 || last.inner != 0xFF || decide (last.order > 1) || !nestSteps ds ||
    top.tagBase % 2 != 0 || decide (top.kOrg + top.kExt > 2 ^ 24) ||
    (top.batch == 2 && top.mExt != top.batchCount * top.foldBlk) ||
    (top.batch == 3 && top.nExt != top.batchCount * top.foldBlk) ||
    (top.batch != 0 && top.batchCount == 0) ||
    (decide (top.kExt > last.kExt) && (top.spillOut == 0xFF || top.spillIn == 0xFF))


/-- The refusal of a NEST (R132, R439). -/
def State.nestCode (s : State) (x : ScanCtx) (d firstEnd n : Nat) : Option Nat :=
  let chain := s.nestChain x 2 d
  if chain.any (fun k => decide (k ≥ x.h.descCount)) then some 0x03
  else
    let bytes := chain.map (s.tableEntry x)
    let ds := bytes.map NestDesc.of
    match bytes, ds with
    | b0 :: bs, top :: _ =>
      let a := s.tableEntry x top.aDesc
      let b := s.tableEntry x top.bDesc
      lowCode
        [ if nestReserved b0 false || bs.any (fun b => nestReserved b true) then some 0x02 else none,
          if nestBad ds || chain.any (fun k => x.opnds.contains k) then some 0x09 else none,
          s.descCode x top.aDesc .operand, feedCode a true,
          s.descCode x top.bDesc .operand, feedCode b false,
          if (pairOf (Desc.of a).deliver (Desc.of b).deliver).isNone then some 0x04 else none,
          s.outCode x top.outDesc firstEnd n,
          if top.spillOut = 0xFF then none else
            lowCode [s.outCode x top.spillOut firstEnd n,
              let o := Desc.of (s.tableEntry x top.spillOut); if o.format = 7 && o.spill then none else some 0x05],
          if top.spillIn = 0xFF then none else
            lowCode [s.descCode x top.spillIn .operand, refillCode (s.tableEntry x top.spillIn)] ]
    | _, _ => some 0x09

/-! ### The scan (R98) -/

/-- What the scan carries from word to word: pending feed LOADs (`DELIVER`), how many LOADs of each feed it has met, open
runs by bank, tags bound, whether the first END has passed. -/
structure Scan where
  a : List Nat := []
  b : List Nat := []
  na : Nat := 0
  nb : Nat := 0
  open0 : Bool := false
  open1 : Bool := false
  tags : List Nat := []
  ended : Bool := false
deriving DecidableEq, Repr

def Scan.setOpen (k : Scan) (bank : Nat) (v : Bool) : Scan := if bank = 0 then { k with open0 := v } else { k with open1 := v }

/-- What the program says as a whole: its words, its first END, its SWEEPs before it, and the words of drain routines. -/
structure ProgFacts where
  n : Nat
  firstEnd : Nat
  sweeps : Nat
  drains : List (Nat × Nat)
deriving DecidableEq, Repr

def ProgFacts.inDrain (p : ProgFacts) (i : Nat) : Bool := p.drains.any (fun r => decide (r.1 ≤ i) && decide (i < r.1 + r.2))

/-- A word of a drain routine: VOP or SFOP, no RS form, writing V0 or V24 to V31 (R91, R123). -/
def drainWordBad (w : Nat) : Bool :=
  let op := w % 256
  let dst := bits w 18 14
  !(op == 0x30 || op == 0x38) || (decide (1 ≤ dst) && decide (dst ≤ 23)) || (op == 0x38 && funcRs (bits w 13 8))

/-- The refusal that word i earns in its place, and the scan after it. The two tags of a NEST are those of the BINDs that it
emits (log 101). -/
def State.placeCode (s : State) (x : ScanCtx) (p : ProgFacts) (k : Scan) (i w : Nat) : Option Nat × Scan :=
  let op := w % 256
  let d1 := bits w 15 8
  let e1 := s.tableEntry x d1
    if p.inDrain i then (if drainWordBad w then some 0x0A else none, k)
    else
      match op with
      | 0x01 =>
        let t := bits w 17 16
        if t = 2 then
          (lowCode [s.descCode x d1 .operand, refillCode e1], k.setOpen (bits w 18 18) true)
        else
          let posA := t = 0
          let k' := if posA then { k with a := k.a ++ [(Desc.of e1).deliver], na := k.na + 1 }
            else { k with b := k.b ++ [(Desc.of e1).deliver], nb := k.nb + 1 }
          (lowCode [s.descCode x d1 .operand, feedCode e1 posA,
            if !k.ended && (if posA then k'.na else k'.nb) > p.sweeps then some 0x04 else none], k')
      | 0x02 =>
        let d2 := bits w 23 16
        (lowCode [s.descCode x d1 .operand, s.descCode x d2 .copyDest, formatCode e1,
          if (Desc.of e1).format = (Desc.of (s.tableEntry x d2)).format then none else some 0x05], k)
      | 0x03 => (lowCode [s.descCode x d1 .operand, formatCode e1], k)
      | 0x40 => (lowCode [s.descCode x d1 .output, formatCode e1], k)
      | 0x20 => (s.outCode x (bits w 23 16) p.firstEnd p.n, { k with tags := d1 :: k.tags })
      | 0x10 =>
        if k.ended then (none, k)
        else
          let last := bit w 13
          let pairBad := match k.a, k.b with
            | fa :: _, fb :: _ => decide (pairFormats (bits w 10 8) ≠ some (fa, fb))
            | _, _ => true
          let k' := { k with a := k.a.drop 1, b := k.b.drop 1 }
          let k' := if bit w 12 then k'.setOpen (bits w 11 11) true else k'
          let k' := if last then k'.setOpen (bits w 11 11) false else k'
          (lowCode [if pairBad then some 0x04 else none,
            if last && !k.tags.contains (bits w 47 40) then some 0x0B else none], k')
      | 0x50 => (lowCode [if d1 ≥ x.h.ctrCount then some 0x03 else none,
          if !k.ended && (k.open0 || k.open1) then some 0x06 else none], k)
      | 0x51 => (if d1 ≥ x.h.ctrCount then some 0x03 else none, k)
      | 0x61 =>
        let nd := NestDesc.of e1
        (s.nestCode x d1 p.firstEnd p.n, { k with tags := nd.tagBase :: (nd.tagBase + 1) :: k.tags })
      | 0x70 => (if !k.ended && (k.open0 || k.open1) then some 0x06 else none, k)
      | 0x7F => (if !k.ended && (k.open0 || k.open1) then some 0x06 else none, { k with ended := true })
      | _ => (none, k)

/-- The refusal of word i: the lowest of the codes that it earns by itself and in its place (log 17). -/
def State.scanWord (s : State) (x : ScanCtx) (p : ProgFacts) (k : Scan) (i w : Nat) : Option Nat × Scan :=
  match wordCode w with
  | some 0x01 => (some 0x01, k)
  | c => let r := s.placeCode x p k i w; (lowCode [c, r.1], r.2)

/-- The first refusal among the words from index i on. -/
def State.scanWords (s : State) (x : ScanCtx) (p : ProgFacts) : List Nat → Nat → Scan → Option (Nat × Nat)
  | [], _, _ => none
  | w :: ws, i, k =>
    match s.scanWord x p k i w with
    | (some c, _) => some (c, i)
    | (none, k') => s.scanWords x p ws (i + 1) k'

/-- The words of a program as they stand in memory. -/
def State.progWords (s : State) (a : Nat) : Nat → List Nat
  | 0 => []
  | n + 1 => s.num a 8 :: s.progWords (a + 8) n

/-- The operand entries that an output which a BIND or a NEST names has beside it: its `A_DESC` and `B_DESC` (R439). -/
def State.outOperands (s : State) (x : ScanCtx) (d : Nat) : List Nat :=
  let o := Desc.of (s.tableEntry x d)
  if d ≥ x.h.descCount || o.spill then [] else [o.aDesc, o.bDesc]

/-- The entries that a word names as operands and as outputs, directly or through another entry (R439). -/
def State.wordEntries (s : State) (x : ScanCtx) (w : Nat) : List Nat × List Nat :=
  match w % 256 with
  | 0x01 | 0x03 => ([bits w 15 8], [])
  | 0x02 => ([bits w 15 8], [bits w 23 16])
  | 0x20 => (s.outOperands x (bits w 23 16), [bits w 23 16])
  | 0x40 => ([], [bits w 15 8])
  | 0x61 =>
    if bits w 15 8 ≥ x.h.descCount then ([], [])
    else
      let n := NestDesc.of (s.tableEntry x (bits w 15 8))
      let outs := n.outDesc :: (if n.spillOut = 0xFF then [] else [n.spillOut])
      (n.aDesc :: n.bDesc :: ((if n.spillIn = 0xFF then [] else [n.spillIn]) ++ outs.flatMap (s.outOperands x)), outs)
  | _ => ([], [])

/-- The descriptors that words name as operands (R439). -/
def State.namedOperands (s : State) (x : ScanCtx) (ws : List Nat) : List Nat := ws.flatMap (fun w => (s.wordEntries x w).1)

/-- The loop-nest descriptors that words name, with their chains. -/
def State.namedNests (s : State) (x : ScanCtx) (ws : List Nat) : List Nat :=
  ws.flatMap (fun w => if w % 256 = 0x61 then s.nestChain x 2 (bits w 15 8) else [])

/-- Every entry of the descriptor table that the scan reads (R439). -/
def State.namedEntries (s : State) (x : ScanCtx) (ws : List Nat) : List Nat :=
  (ws.flatMap (fun w => let e := s.wordEntries x w; e.1 ++ e.2) ++ s.namedNests x ws).filter (fun d => decide (d < x.h.descCount))

/-- The drain routines that the bound outputs name: first word and length. -/
def State.drainRanges (s : State) (x : ScanCtx) (ws : List Nat) : List (Nat × Nat) :=
  ws.filterMap (fun w =>
    let d? := if w % 256 = 0x20 then some (bits w 23 16)
      else if w % 256 = 0x61 then some (NestDesc.of (s.tableEntry x (bits w 15 8))).outDesc else none
    match d? with
    | none => none
    | some d =>
      let o := Desc.of (s.tableEntry x d)
      if d < x.h.descCount && !o.spill && o.drainLen != 0 then some (o.drainWord, o.drainLen) else none)

/-- The scan of the program at an address for a job's contract: a refusal code and word index, or the header (R98). -/
def State.scan (s : State) (c prog major : Nat) : Except RdErr ((Nat × Nat) ⊕ ProgHeader) := do
  let hb ← s.rdBytes (canonAddr c prog) 32
  let h := ProgHeader.of hb
  match headerCode hb major with
  | some k => .ok (.inl (k, 0))
  | none =>
    let pa := canonAddr c (prog + 32)
    if !s.mapped pa (8 * h.wordCount) then .error (.addr pa)
    else if s.poisoned pa (8 * h.wordCount) then .error (.poison pa)
    else
      let ws := s.progWords pa h.wordCount
      let x0 : ScanCtx := { chamber := c, h := h, opnds := [], nests := [], lens := s.lens c }
      -- the table is read only where a word names it; the counter table is not read (R98, R439)
      let at' := (s.namedEntries x0 ws).map (fun d => canonAddr c (h.descBase + 64 * d))
      match at'.find? (fun a => !s.mapped a 64), at'.find? (fun a => s.poisoned a 64) with
      | some a, _ => .error (.addr a)
      | none, some a => .error (.poison a)
      | none, none =>
      let x := { x0 with opnds := s.namedOperands x0 ws, nests := s.namedNests x0 ws }
      let dr := s.drainRanges x ws
      let inDr := fun i => dr.any (fun r => decide (r.1 ≤ i) && decide (i < r.1 + r.2))
      let ix := (List.range ws.length).zip ws
      let fe := (ix.find? (fun y => y.2 % 256 == 0x7F && !inDr y.1)).map (·.1)
      let firstEnd := fe.getD h.wordCount
      let p : ProgFacts :=
        { n := h.wordCount, firstEnd := firstEnd
          sweeps := ((ws.take firstEnd).filter (fun w => w % 256 == 0x10)).length
          drains := dr }
      match s.scanWords x p ws 0 {} with
      | some r => .ok (.inl r)
      | none => if fe.isNone then .ok (.inl (0x08, 0)) else .ok (.inr h)

/-- The program at an address names G16: a SWEEP of a pair that has it, or an operand or output entry in it (R27, R32, R40). -/
def State.namesG16 (s : State) (c prog : Nat) : Bool :=
  let h := ProgHeader.of (s.bytes (canonAddr c prog) 32)
  let ws := s.progWords (canonAddr c (prog + 32)) h.wordCount
  let x : ScanCtx := { chamber := c, h := h, opnds := [], nests := [], lens := s.lens c }
  let g16 := fun d =>
    let e := Desc.of (s.tableEntry x d)
    decide (d < x.h.descCount) && (e.format == fmtG16 || e.deliver == fmtG16)
  ws.any (fun w =>
    (w % 256 == 0x10 && decide (3 ≤ bits w 10 8) && decide (bits w 10 8 ≤ 5)) ||
      (let e := s.wordEntries x w; (e.1 ++ e.2).any g16))

/-! ### GO and ADMISSION_SCAN -/

/-- The active table bank holds the image that a job's `SF_MODE` requires; a strand of no job takes any image (R117). -/
def State.imageReady (s : State) (c job : Nat) : Bool :=
  match (if s.reg .chActiveBank c = 0 then (s.chamber c).sf0 else (s.chamber c).sf1) with
  | none => false
  | some _ => match s.job? job with | some j => j.sfMode == s.reg .chActiveKind c | none => true

/-- The strand's own state at GO: nothing bound, open, fed or gathered (R105, R119, R62). -/
def Strand.fresh (t : Strand) (prog : Nat) : Strand :=
  { prog := prog, job := t.job, cmd := t.cmd, lastIssue := t.lastIssue }

/-- `GO` takes a program in: the strand is ADMITTING (R98). A retired Chamber accepts none (R16); a strand that is not
EMPTY, DONE or REFUSED ignores it with `ACCESS_ERR` (R105). -/
def State.go (s : State) (c i : Nat) : State :=
  let st := s.reg .chState c i
  if s.reg .chRetired c = 1 then s
  else if !(st == psEmpty || st == psDone || st == psRefused) then s.flag .chAccessErr c
  else
    let prog := s.reg .chProgAddr c i
    let s := s.modStrand c i (·.fresh prog)
    let s := { s with power := { s.power with busyAt := s.now } }
    let s := (((s.setReg .chState c i psAdmitting).setReg .chPc c i 0).setReg .chRefuseCode c i 0).setReg .chRefuseWord c i 0
    ((s.setReg .chIssued c i 0).setReg .chStrandNumFlags c i 0).setReg .chSigSinceBnd c i 0

/-- The `GO` bit of a strand (R98, R105). -/
def execGo (c i : Nat) (s : State) : Out := .next (s.go c i)

/-- A strand is refused at admission (R98). -/
def State.refuse (s : State) (c i code word : Nat) : State :=
  let s := ((s.setReg .chState c i psRefused).setReg .chRefuseCode c i code).setReg .chRefuseWord c i word
  let s := s.flag .chAdmitRefused c
  let s := s.log 0 c 0x0102 (bytesLE 4 (s.regWord .ch c 0x108) ++ bytesLE 4 0 ++ bytesLE 1 i)
  s.raise 0 c evAdmitRefused [i, 0, code]

/-- The contract's major version of a job, 3 where the strand serves none (R94, R98). -/
def State.jobMajor (s : State) (job : Nat) : Nat := match s.job? job with | some j => j.major | none => 3

/-- The scan of an ADMITTING strand's whole program: READY or REFUSED (R98). Fetch that cannot read the program stops
the strand as R87 says. While the active table bank does not hold the image of the job's `SF_MODE`, the strand is not admitted
(R117). -/
def State.admitScan (s : State) (c i : Nat) : State :=
  let t := s.strand c i
  if s.reg .chState c i ≠ psAdmitting || !s.imageReady c t.job then s
  else
    match s.scan c t.prog (s.jobMajor t.job) with
    | .error e => (s.setReg .chState c i psRefused).rdFail c i e
    | .ok (.inl (code, word)) => s.refuse c i code word
    | .ok (.inr h) =>
      let s := s.modStrand c i (fun t =>
        { t with words := h.wordCount, descBase := h.descBase, descCount := h.descCount, ctrBase := h.ctrBase
                 ctrCount := h.ctrCount, stageId := h.stageId })
      let gen := match s.job? t.job with | some j => j.generator | none => s.reg .chRngMode c
      ((s.setReg .chState c i psReady).put .chRngMode c gen).settle c

/-- ADMISSION_SCAN. -/
def execAdmissionScan (c i : Nat) (s : State) : Out := .next (s.admitScan c i)

end Sys2Proof.Machine
end

