-- ==== Sys2Proof/Machine/Nest.lean ====
section
/-!
DEFINITION. The NEST word (R131 to R137).
-/
namespace Sys2Proof.Machine

/-- The entries of the descriptor table that a NEST reads when it issues: its chain, its operands and its outputs. -/
def State.nestEntries (s : State) (c i desc : Nat) : List Nat :=
  let top := NestDesc.of (s.descBytes c i desc)
  desc :: (((s.chainBytes c i 2 desc).map NestDesc.of).filterMap (fun d => if d.level = 0 || d.inner = 0xFF then none else some d.inner) ++
    [top.aDesc, top.bDesc, top.outDesc])

/-- The plan of a NEST as it issues, with its first problem's entry read, and the state after that read (R131 to R136, R144). -/
def State.nestReady (s : State) (c i desc : Nat) : NestPlan × State :=
  let top := NestDesc.of (s.descBytes c i desc)
  let deliver := fun d => (Desc.of (s.descBytes c i d)).deliver
  let p : NestPlan :=
    { chain := s.chainBytes c i 2 desc, lens := s.lens c, bank := top.bankStart, resume := s.reg .chNestResume c i
      pair := (pairOf (deliver top.aDesc) (deliver top.bDesc)).getD 0 }
  let (p, s) := ((s.setReg .chNestResume c i 0).setReg .chNestRuns c i 0).readEntry c i p 0
  (p, (s.modStrand c i (fun t => { t with nest := some p })).setReg .chNestActive c i 1)

/-- NEST (R131 to R137): the words it emits then issue one by one, problem after problem, and its index stays the strand's `PC`
until the last has issued. -/
def execNest (c i desc : Nat) (s : State) : Out :=
  let s0 := s.settle c
  if !s0.mayIssue c i none then .next s
  else
    match s0.entryPoison c i (s0.nestEntries c i desc) with
    | some a => .next (s0.rdFail c i (.poison a))
    | none =>
      let (p, s) := s0.nestReady c i desc
      .next (((State.nestAdvance c i p.top.problems s).noteIssue c i true).nestStop c i)

end Sys2Proof.Machine
end

