-- ==== Sys2Proof/Machine/Control.lean ====
section
/-!
DEFINITION. The strand control words and events of a Chamber: WAIT, SIGNAL, LDLEN, BOUNDARY, FENCE, END, the end and the
abort of a strand, counter watches, the Pocket's patrol scrub and the special-function tables (R87, R97 to R105, R114 to
R117, R235, R335, R336).
-/
namespace Sys2Proof.Machine

/-- NOP (R95). -/
def execProgramNop (c i : Nat) (s : State) : Out :=
  let s0 := s.settle c
  if !s0.mayIssue c i none then .next s else .next (s0.passWord c i true)

/-! ### Counters (R102, R103, R234, R235) -/

/-- WAIT: passed once COUNT has reached the target; otherwise the strand waits, which is a switch point (R100, R102). -/
def execWait (c i ctr target : Nat) (s : State) : Out :=
  let s0 := s.settle c
  if !s0.mayIssue c i none then
    -- the scheduler has set the strand waiting on this word (R99)
    if s0.reg .chState c i = psWaiting && s.reg .chState c i ≠ psWaiting then .next s0 else .next s
  else
    match s0.counterAt c i ctr with
    | .error e => .next (s0.rdFail c i e)
    | .ok a =>
      if s0.count a ≥ target then .next (s0.passWord c i true) else .next ((s0.park c i ctr a target).switchPoint c)

/-- SIGNAL: once every earlier write is visible, the owning steward adds the increment in one step; the next `SIG_SKIP`
SIGNALs of a replay issue without adding (R102, R336). -/
def execSignal (c i ctr increment : Nat) (s : State) : Out :=
  let s0 := s.settle c
  if !s0.mayIssue c i none || !s0.quiet c i then .next s
  else
    match s0.counterAt c i ctr with
    | .error e => .next (s0.rdFail c i e)
    | .ok a =>
      let skip := s0.reg .chSigSkip c i
      let s := if skip = 0 then s0.counterAdd a increment else s0.setReg .chSigSkip c i (skip - 1)
      .next ((s.bump .chSigSinceBnd c 1 i).passWord c i true)

/-- A waiting strand runs again. -/
def State.wake (s : State) (c i : Nat) : State :=
  ((s.setReg .chState c i psReady).modStrand c i (fun t => { t with timedOut := false })).settle c

/-- A counter add has brought COUNT to the target of watches: each goes and its strand is woken (R235). -/
def execCounterWatchWake (g ctrAddr : Nat) (s : State) : Out :=
  let n := s.count ctrAddr
  let due := (s.gallery g).watches.filter (fun w => w.1 == ctrAddr && decide (w.2.1 ≤ n))
  let s := s.modGallery g (fun x => { x with watches := x.watches.filter (fun w => !(w.1 == ctrAddr && decide (w.2.1 ≤ n))) })
  .next (due.foldl (fun s w =>
    if s.reg .chState w.2.2.1 w.2.2.2 = psWaiting then s.wake w.2.2.1 w.2.2.2 else s) s)

/-- A waiting strand has a watch with its counter's steward. -/
def State.watched (s : State) (c i : Nat) : Bool :=
  let t := s.strand c i
  (s.gallery (galleryOf t.waitAddr)).watches.any (fun w => w.1 == t.waitAddr && w.2.2.1 == c && w.2.2.2 == i)

/-- A WAIT that found the 64 watches full polls its counter (R235). -/
def execWaitPoll (c i : Nat) (s : State) : Out :=
  let t := s.strand c i
  if s.reg .chState c i ≠ psWaiting || s.watched c i then .next s
  else
    let s := s.bump .glWatchPolls (galleryOf t.waitAddr % 32) 1
    if s.count t.waitAddr ≥ t.waitTarget then .next (s.wake c i) else .next s

/-- A WAIT has stayed unsatisfied for longer than `CH_WAIT_TIMEOUT` µs: the strand goes on waiting and the event names the
counter (R103). A µs is 2,000 ticks. -/
def execWaitTimeout (c i : Nat) (s : State) : Out :=
  let t := s.strand c i
  let limit := s.reg .chWaitTimeoutUs c
  if s.reg .chState c i ≠ psWaiting || t.timedOut || limit = 0 || s.now ≤ t.waitSince + 2000 * limit then .next s
  else
    let s := (s.flag .chWaitTimeout c).modStrand c i (fun t => { t with timedOut := true })
    .next (s.strandEvent c i evWaitTimeout (s.reg .chWaitCtr c i))

/-! ### Lengths, fences and boundaries -/

/-- LDLEN (R97): the length is in force for every later word. -/
def execLdlen (c i len addr : Nat) (s : State) : Out :=
  let s0 := s.settle c
  if !s0.mayIssue c i none then .next s
  else
    match s0.rd (canonAddr c addr) 4 with
    | .error e => .next (s0.rdFail c i e)
    | .ok v => .next ((s0.setReg .chLen c len v).passWord c i true)

/-- FENCE waits for every earlier write of the strand (R101). -/
def execFence (c i : Nat) (s : State) : Out :=
  let s0 := s.settle c
  if !s0.mayIssue c i none || !s0.quiet c i then .next s else .next (s0.passWord c i true)

/-- The 96 bytes of a boundary record (R104). -/
def State.boundaryRecord (s : State) (c i number next : Nat) : List Byte :=
  bytesLE 8 s.now ++ bytesLE 6 number ++ bytesLE 1 i ++ bytesLE 1 c ++ bytesLE 4 next ++ List.replicate 12 0 ++
    (s.lens c).flatMap (bytesLE 4)

/-! ### The end of a strand (R62, R99, R100, R105, R258) -/

/-- END: issue stops; a switch point (R100). -/
def execEndWord (c i : Nat) (s : State) : Out :=
  let s0 := s.settle c
  if !s0.mayIssue c i none then .next s
  else .next (((s0.passWord c i true).modStrand c i (fun t => { t with ended := true })).switchPoint c)

/-- One operation more that raised a flag, where the strand did (R62). -/
def State.countFlags (s : State) (c i : Nat) : State :=
  if s.reg .chStrandNumFlags c i = 0 then s else s.bumpSat .chFlagOps c 1

/-- A strand that issued END is DONE once every earlier word has completed; its STAGE_RUN completes (R100, R261). -/
def execStrandDone (c i : Nat) (s : State) : Out :=
  let t := s.strand c i
  let st := s.reg .chState c i
  if !t.ended || !s.quiet c i || !(st == psRunning || st == psReady) then .next s
  else
    let s := (s.countFlags c i).setReg .chState c i psDone
    let s := s.modStrand c i (fun t => { t with ended := false, cmd := none })
    let s := match t.cmd with
      | none => s
      | some h => s.complete h { result := s.reg .chIssued c i, numFlags := s.reg .chStrandNumFlags c i
                                 flags := if t.ranged then 4 else 0 }
    .next (s.settle c)

/-- A bank that belongs to a strand, other than FREE, is discarded (R105). -/
def State.releaseBanks (s : State) (c i : Nat) : State :=
  (List.range 2).foldl (fun s b =>
    if s.reg (bankField b) c ≠ 0 && ((s.chamber c).bank b).owner == i then s.freeBank c b else s) s

/-- `ABORT` of a strand (R105): its banks are FREE, its tiles, its row statistics and its watch are gone, and it is
EMPTY. What it has written stays. -/
def State.abort (s : State) (c i : Nat) : State :=
  let st := s.reg .chState c i
  if st = psEmpty then s
  else
    let s := if st = psDone || st = psRefused then s else s.countFlags c i
    let s := s.releaseBanks c i
    let s := s.modChamber c (fun x => { x with store := x.store.filter (fun t => !(t.strand == i)) })
    let g := galleryOf (s.strand c i).waitAddr
    let s := s.modGallery g (fun x => { x with watches := x.watches.filter (fun w => !(w.2.2.1 == c && w.2.2.2 == i)) })
    let s := s.modStrand c i (fun t => { lastIssue := t.lastIssue, boundary := t.boundary, job := t.job, prog := t.prog })
    let s := ((s.setReg .chState c i psEmpty).setReg .chNestActive c i 0).setReg .chWaitCtr c i 0
    let s := (s.syncWrites c).syncFeed c
    if s.reg .chCurStrand c = i then s.switchPoint c else s

/-- The `ABORT` bit of a strand (R105). -/
def execAbort (c i : Nat) (s : State) : Out := .next (s.abort c i)

/-- A strand whose job is being saved stops at its boundary, and its command completes with `CANCELLED`: the context records
its progress (R353). -/
def State.saveStop (s : State) (c i : Nat) : State :=
  match (s.strand c i).cmd with
  | none => s
  | some h =>
    let o := s.entry h
    match s.outstanding.find? (fun x => x.opcode == 0x74 && x.phase == .held && fieldLE x.held 0 4 == o.jobId) with
    | none => s
    | some x =>
      let x' : Progress := { job := o.jobId, opcode := o.opcode, paramCrc := crc32c o.params, rects := [] }
      let s := { s with halted := s.halted ++ [x'] }
      (s.abort c i).complete h
        { status := stCancelled, detail := x.cmd.seq, numFlags := s.reg .chStrandNumFlags c i
          flags := if (s.strand c i).ranged then 4 else 0 }

/-- BOUNDARY, written in a program or inserted by a NEST (R104, R136, R335, R336): after every earlier word it saves the
row statistics that are in use, writes its record and moves the ring's position on; with `BOUNDARY_SLOTS` 0 the ring has one place
(log 107). -/
def execBoundary (c i number : Nat) (s : State) : Out :=
  let s0 := s.settle c
  if !s0.mayIssue c i (some (.boundary number)) || !s0.quiet c i then .next s
  else
    let t := s0.strand c i
    let pc := s0.reg .chPc c i
    let next := if t.emit.isEmpty then pc + 1 else pc
    let saves := t.rs.any (fun r => r.terms != 0)
    let save := canonAddr c (s0.reg .chRssaveBase c i)
    let rec' := canonAddr c (s0.reg .chBoundaryBase c + 96 * (s0.chamber c).boundaryPos)
    if saves && !s0.mapped save 4096 then .next (s0.rdFail c i (.addr save))
    else if !s0.mapped rec' 96 then .next (s0.rdFail c i (.addr rec'))
    else
      let s := if saves then s0.store save (t.rs.flatMap rsSave) else s0
      let s := s.store rec' (s.boundaryRecord c i number next)
      let s := s.setReg .chLastBoundary c i number
      let s := s.modChamber c (fun x => { x with boundaryPos := (x.boundaryPos + 1) % max 1 (s.reg .chBoundarySlots c) })
      let s := s.modStrand c i (fun t => { t with boundary := some (next, s.lens c, saves, t.binds) })
      .next (((s.setReg .chSigSinceBnd c i 0).passWord c i true).saveStop c i)

/-! ### The Pocket's patrol scrub (R87) -/

/-- Corrected and uncorrectable words that the scrub found at Pocket offsets. -/
def execPocketPatrolScrub (c : Nat) (f : ScrubFindings) (s : State) : Out :=
  if s.reg .chScrubEn c = 0 then .next s
  else
    let inPocket := fun (l : List Nat) => l.filter (fun o => decide (o < 0x600000))
    let bad := inPocket f.uncorrectable
    let s := s.bumpSat .chPocketCorr c (inPocket f.corrected).length
    if bad.isEmpty then .next s
    else
      let s := bad.foldl (fun s o => s.markPoison (pocketBase + c * pocketWindow + o) 1) s
      let s := ((s.flag .chPocketUncorr c).bumpSat .chPocketUncorrCnt c bad.length).faultTime c
      .next (s.raise 0 c evUncorr [4, 0, pocketBase + c * pocketWindow + bad.headD 0])

/-! ### Special-function tables (R114 to R117) -/

/-- `LOAD`: the image starts to be copied, or the load is refused (R115). -/
def execTableLoad (c : Nat) (s : State) : Out :=
  if s.reg .chLoadState c ≠ 0 then .next (s.flag .chLoadBusy c) else .next (s.put .chLoadState c 1)

/-- A header of an image that this contract has: the native one of Limser 3.0, 12,288 bytes, or the D1 one of a Limser 2.x,
10,240 bytes (R114; log 113). -/
def tableHeaderOk (h : List Byte) : Bool :=
  zeroLE h 12 52 &&
    (if fieldLE h 0 2 = 0 then fieldLE h 2 1 == 3 && fieldLE h 3 1 == 0 && fieldLE h 4 4 == 12288
     else fieldLE h 0 2 == 1 && fieldLE h 2 1 == 2 && decide (fieldLE h 3 1 ≤ 3) && fieldLE h 4 4 == 10240)

/-- The image at an address, with the checks of R114: its kind, its CRC and its bytes. -/
def tableImage (s : State) (a : Nat) : Option SfBank :=
  let h := s.bytes a 64
  let n := fieldLE h 4 4
  if !s.mapped a 64 || !tableHeaderOk h || !s.mapped a n || s.poisoned a n then none
  else
    let bs := s.bytes a n
    let crc := fieldLE h 8 4
    if crc32c (zeroed bs 8 4) = crc then some { kind := fieldLE h 0 2, crc := crc, body := bs } else none

/-- The copy ends: the inactive bank holds the image and waits for the switch, or `IMAGE_ERR` (R115). -/
def execTableLoadComplete (c : Nat) (s : State) : Out :=
  if s.reg .chLoadState c ≠ 1 then .next s
  else
    match tableImage s (canonAddr c (s.reg .chSfLoadAddr c)) with
    | none => .next ((s.flag .chImageErr c).put .chLoadState c 0)
    | some b =>
      let s := s.modChamber c (fun x => if s.reg .chActiveBank c = 0 then { x with sf1 := some b } else { x with sf0 := some b })
      .next (s.put .chLoadState c 2)

/-- The switch at an epoch boundary in a clock while no bank is DRAINING (R116). -/
def State.epochSwitch (s : State) (c : Nat) (inFlight : Bool) : State :=
  if s.reg .chBank0State c = 2 || s.reg .chBank1State c = 2 then s else s.switchTables c inFlight

/-- The control complex loads the published image of a kind into the inactive bank, and switches to it (R115 to R117, R434;
log 11). -/
def State.loadPublished (s : State) (c kind : Nat) : State :=
  if s.reg .chLoadState c ≠ 0 then s
  else
    let img := Config.sfImage kind
    let b : SfBank := { kind := kind, crc := fieldLE img 8 4, body := img }
    let s := s.modChamber c (fun x => if s.reg .chActiveBank c = 0 then { x with sf1 := some b } else { x with sf0 := some b })
    (s.put .chLoadState c 2).epochSwitch c false

/-- SF_EPOCH_SWITCH; `inFlight` says that an SFOP issued before it has not retired (R116). -/
def execSfEpochSwitch (c : Nat) (inFlight : Bool) (s : State) : Out := .next (s.epochSwitch c inFlight)

/-- The last SFOP issued before the switch retires (R116). -/
def execOldBankRelease (c : Nat) (s : State) : Out :=
  if s.reg .chLoadState c = 3 then .next (s.put .chLoadState c 0) else .next s

end Sys2Proof.Machine
end

