-- ==== Sys2Proof/Machine/Tree.lean ====
section
/-!
DEFINITION. The control tree: holds, restarts and retirement (R13 to R17), slot tables (R226, R227) and the split of a
Gallery memory (R229, R230).
-/
namespace Sys2Proof.Machine

/-! ### Holds -/

/-- The hold bit that a controller owns for an element (R13, R14, R17); none where its reach does not hold one. -/
def holdBit (who : Who) : Elem → Option (Field × Nat)
  | .chamber c =>
    match who with
    | .sequencer => some (.chOwnHold, c) | .steward => some (.chStewardHold, c)
    | .keeper => some (.chKeeperHold, c) | .complex => some (.chComplexHold, c) | _ => none
  | .gallery g =>
    match who with
    | .steward => some (.glOwnHold, g) | .keeper => some (.glKeeperHold, g) | .complex => some (.glComplexHold, g)
    | _ => none
  | .die d =>
    match who with
    | .keeper => some (.dieOwnHold, d) | .complex => some (.dieComplexHold, d) | _ => none
  | _ => none

/-- A keeper stops or starts a link of its die, or its junction slice (R13). -/
def State.holdLink (s : State) (who : Who) (e : Elem) (on : Bool) : State :=
  match who, e with
  | .keeper, .link a b =>
    let l := (min a b, max a b)
    let others := s.linkHolds.filter (· != l)
    { s with linkHolds := if on then l :: others else others }
  | .keeper, .junction d =>
    let others := s.junctionHolds.filter (· != d)
    { s with junctionHolds := if on then d :: others else others }
  | _, _ => s

/-- Chambers of an element. -/
def elemChambers : Elem → List Nat
  | .chamber c => [c]
  | .gallery g => (List.range 8).map (fun i => 8 * g + i)
  | .die d => (List.range 32).map (fun i => 32 * d + i)
  | _ => []

/-- `IDLE` of the Chambers of an element whose holds have changed (R99, R106). -/
def State.syncIdles (s : State) (e : Elem) : State := (elemChambers e).foldl (fun s c => s.syncIdle c) s

/-- A hold of a Chamber is logged (R326, class 0x01). -/
def State.holdLog (s : State) : Elem → State
  | .chamber c => s.log 0 c 0x0103 (bytesLE 4 (s.regWord .ch c 0x40))
  | _ => s

/-- A controller sets its hold bit (R14). -/
def State.stop (s : State) (who : Who) (e : Elem) (reached : Bool) : State :=
  match holdBit who e with
  | none => s.holdLink who e true
  | some (f, u) =>
    let s := (s.flag f u).holdLog e
    (if reached then s.reachStop e else s.syncStop e).syncIdles e

/-- An element may be started: a retired Chamber may not (R16). -/
def State.startable (s : State) : Elem → Bool
  | .chamber c => s.reg .chRetired c == 0
  | _ => true

/-- A Gallery whose fault is under recovery keeps its steward's hold until the keeper restarts it (R14, R340). -/
def State.ownFault (s : State) (who : Who) : Elem → Bool
  | .gallery g => who == .steward && s.recoveries.any (fun r => r.cls == 2 && r.unit == g)
  | _ => false

/-- A controller may clear its bit by a start: the bit that it owns, `OWN_HOLD` of a Chamber or a die only by a restart
(R13, R14). The steward's own hold on its Gallery is the bit it stops and starts by (R13, R230, R242; log 20). -/
def startBit (who : Who) (e : Elem) : Option (Field × Nat) :=
  match who, e with
  | .sequencer, _ => none
  | .keeper, .die _ => none
  | _, _ => holdBit who e

/-- A controller clears its own hold bit (R14). -/
def State.start (s : State) (who : Who) (e : Elem) : State :=
  match startBit who e with
  | none => s.holdLink who e false
  | some (f, u) => if s.startable e && !s.ownFault who e then ((s.put f u 0).leaveStop e).syncIdles e else s

/-- The controller that restarts an element, and its `OWN_HOLD` (R13, R17). -/
def restarter : Elem → Option (Who × Field × Nat)
  | .chamber c => some (.steward, .chOwnHold, c)
  | .gallery g => some (.keeper, .glOwnHold, g)
  | .die d => some (.complex, .dieOwnHold, d)
  | _ => none

/-- A restart clears `OWN_HOLD` (R14); a Chamber's fault freeze ends with it (R83). -/
def State.restart (s : State) (who : Who) (e : Elem) : State :=
  match restarter e with
  | none => s
  | some (w, f, u) =>
    if who ≠ w || !s.startable e then s
    else
      let s := s.put f u 0
      let s := match e with | .chamber c => (s.put .chFaultFreeze c 0).put .chFrozen c 0 | _ => s
      (s.leaveStop e).syncIdles e

/-- STOP (R13 to R15). `reached` says that the stop boundary has been reached. -/
def execStop (who : Who) (e : Elem) (reached : Bool) (s : State) : Out := .next (s.stop who e reached)

/-- START (R13, R14). -/
def execStart (who : Who) (e : Elem) (s : State) : Out := .next (s.start who e)

/-- RESTART (R13, R14, R17). -/
def execRestart (who : Who) (e : Elem) (s : State) : Out := .next (s.restart who e)

/-- A Chamber is retired until the next module reset (R16, R338). -/
def State.retireChamber (s : State) (c : Nat) : State :=
  if s.reg .chRetired c = 1 then s
  else
    let s := ((s.flag .chRetired c).bump .modRetiredChambers 0 1).raise 0 c evRetire [c]
    -- the Chamber rail of a Gallery with all eight retired is gated (R370)
    if (List.range 8).all (fun i => s.reg .chRetired (c / 8 * 8 + i) == 1) then s.flag .glRailGated (c / 8) else s

/-- RETIRE (R16). -/
def execRetire (c : Nat) (s : State) : Out := .next (s.retireChamber c)

/-! ### Slot tables (R226, R227, R243) -/

/-- The class of slot n of a table whose word w is `word w`. -/
def slotClass (word : Nat → Nat) (n : Nat) : Nat := bits (word (n / 8)) (4 * (n % 8) + 3) (4 * (n % 8))

/-- The conditions under which a commit is applied (R227). -/
def slotsOk (word : Nat → Nat) : Bool :=
  let cls := (List.range 256).map (slotClass word)
  cls.all (fun k => decide (k ≤ 4)) && decide (8 ≤ (cls.filter (· == 1)).length) && cls.contains 3

/-- `SLOT_COMMIT` (R227). -/
def execSlotCommit (g : Nat) (s : State) : Out := .next (s.flag .glSlotPending g)

/-- The shadow copy becomes the active one, or the commit is refused (R227). -/
def State.applySlots (s : State) (g : Nat) : State :=
  let shadow := fun w => s.reg .glSlotShadow g w
  if slotsOk shadow then (List.range 32).foldl (fun s w => s.setReg .glSlotActive g w (shadow w)) s else s.flag .glSlotErr g

/-- Galleries that a SLOT_TABLE_SET which waits for its frame boundaries names. -/
def slotGalleries (o : Outstanding) : List Nat :=
  let g := natLE (o.held.take 1)
  if g = 0xFF then List.range 32 else [g]

/-- SLOT_TABLE_SETs whose Galleries have all passed their boundary complete (R261). -/
def State.slotReplies (s : State) : State :=
  (s.outstanding.filter (fun o => o.opcode == 0x77 && o.phase == .held)).foldl (fun s o =>
    let gs := slotGalleries o
    if gs.any (fun g => s.reg .glSlotPending g == 1) then s
    else if gs.any (fun g => !slotsOk (fun w => s.reg .glSlotShadow g w)) then s.fail o.cmd stBadParam (o.paramOff + 8)
    else s.ok o.cmd) s

/-- A frame boundary (R227): one more frame, and a pending commit is checked. -/
def execSlotFrameBoundary (g : Nat) (s : State) : Out :=
  let s := s.bump .glFrames g 1
  if s.reg .glSlotPending g = 0 then .next s
  else .next (((s.applySlots g).put .glSlotPending g 0).slotReplies)

/-! ### The memory split (R229, R230) -/

/-- Bytes of `[lo, hi)` are lost: they read as zero once they are scratchpad again. -/
def State.wipe (s : State) (lo hi : Nat) : State :=
  { s with mem := s.mem.filter (fun e => decide (e.1 < lo) || decide (hi ≤ e.1))
           poison := s.poison.filter (fun e => decide (e.1 * 64 < lo) || decide (hi ≤ e.1 * 64)) }

/-- The sharer filters drop a Gallery (R230). -/
def State.dropSharer (s : State) (g : Nat) : State :=
  { s with sharers := s.sharers.map (fun x =>
      (x.1, { x.2 with entries := (x.2.entries.map (fun e => (e.1, e.2.filter (· != g)))).filter (fun e => !e.2.isEmpty) })) }

/-- A new value of `CACHE_STEPS`: the cache is empty, and steps that pass either way lose what they held (R230). -/
def State.setSteps (s : State) (g steps : Nat) : State :=
  let base := galleryBase + g * gallerySize
  let keep := base + gallerySize - max (s.reg .glCacheSteps g) (steps % 8) * 0x800000
  (((s.wipe keep (base + gallerySize)).setCache g {}).dropSharer g).put .glCacheSteps g steps

/-- A write of `CACHE_STEPS`: only while the Gallery is stopped by the steward's own hold (R230). -/
def execCacheStepsWrite (g steps : Nat) (s : State) : Out :=
  if s.reg .glOwnHold g = 1 && s.reg .glStopped g = 1 then .next (s.setSteps g steps) else .next (s.flag .glSplitRefused g)

end Sys2Proof.Machine
end

