-- ==== Sys2Proof/Machine/Net.lean ====
section
/-!
DEFINITION. Packets of the fabric: their bytes, virtual channels, routes, detours and the way out of a port (R272 to R278,
R282 to R284).
-/
namespace Sys2Proof.Machine

/-! ### Bytes and flits -/

/-- The 32 bytes of a packet header (R278). -/
def packetHeader (k : Packet) : List Byte :=
  bytesLE 1 k.type ++ bytesLE 1 (k.vc % 8 + (if k.dateline then 8 else 0) + (if k.detour then 16 else 0)) ++
    bytesLE 2 k.payload.length ++ bytesLE 3 k.dest ++ bytesLE 1 k.reason ++ bytesLE 3 k.src ++ bytesLE 1 0 ++
    bytesLE 2 k.tag ++ bytesLE 2 0 ++ bytesLE 8 k.ts ++ bytesLE 4 k.xferId ++ bytesLE 4 k.pktIndex

def packetBytes (k : Packet) : List Byte := packetHeader k ++ k.ext ++ k.payload

/-- Flits that a packet takes; each carries 244 bytes (R273). -/
def packetFlits (k : Packet) : Nat := max 1 (ceilDiv (packetBytes k).length 244)

/-! ### The torus (R3, R271, R282) -/

/-- Coordinate of an axis of a module address (R3). -/
def coordOf (addr axis : Nat) : Nat := addr / 2 ^ (12 - 6 * axis) % 64

/-- Extent and wrap of an axis (R291). -/
def State.extent (s : State) (axis : Nat) : Nat :=
  s.reg ([Field.fabSizeX, .fabSizeY, .fabSizeZ].getD axis .fabSizeX) 0 + 1
def State.wraps (s : State) (axis : Nat) : Bool :=
  s.reg ([Field.fabWrapX, .fabWrapY, .fabWrapZ].getD axis .fabWrapX) 0 == 1

/-- This module's address. -/
def State.self (s : State) : Nat := s.reg .fabModuleAddr 0

/-- The direction in which a packet corrects an axis, 0 for + and 1 for −; none once it is right (R282). -/
def State.direction (s : State) (dest axis : Nat) : Option Nat :=
  let here := coordOf s.self axis
  let there := coordOf dest axis
  let n := s.extent axis
  if here = there then none
  else if s.wraps axis then
    let d := (there + n - here % n) % n
    if d ≤ n - d then some 0 else some 1
  else if here < there then some 0 else some 1

/-- A port that is DOWN, failed, not in service or in edge mode is a missing link (R284). -/
def State.linkUp (s : State) (p : Nat) : Bool := s.reg .portLinkState p == 6 && s.reg .portMode p == 0

/-- The link of a port is a dateline of its axis (R282). -/
def State.isDateline (s : State) (p : Nat) : Bool :=
  let axis := p / 2
  let here := coordOf s.self axis
  s.wraps axis && (if p % 2 = 0 then here + 1 == s.extent axis else here == 0)

/-- First of the two channels of a packet's class (R277). -/
def classVc (type : Nat) : Nat := if type = 0x10 then 3 else if type = 0x20 then 5 else 0

/-- Buffer use of the partner: 32 flits of each channel are its own, the rest share 768 (R277). -/
def vcFits (used : List Nat) (vc n : Nat) : Bool :=
  let after := used.set vc (used.getD vc 0 + n)
  decide ((after.map (fun u => u - 32)).foldl (· + ·) 0 ≤ 768)

/-- The dimension-order port of a packet (R282). -/
def State.dorPort (s : State) (dest : Nat) : Option Nat :=
  ((List.range 3).findSome? (fun a => (s.direction dest a).map (fun d => 2 * a + d)))

/-- Ports that shorten the distance and may take an adaptive packet (R283). -/
def State.adaptivePorts (s : State) (dest n : Nat) : List Nat :=
  ((List.range 3).filterMap (fun a => (s.direction dest a).map (fun d => 2 * a + d))).filter (fun p =>
    s.linkUp p && (s.port p).history && s.reg .portProtocol p == 3 && vcFits (s.port p).used 2 n)

/-- The adaptive port of least congestion; a tie goes to the first axis. -/
def State.adaptivePort (s : State) (dest n : Nat) : Option Nat :=
  (s.adaptivePorts dest n).foldl (fun best p =>
    match best with
    | none => some p
    | some q => if s.reg .portCongest p < s.reg .portCongest q then some p else some q) none

/-- Detour ports in order: the next axis in its direction, its other direction, then the third axis (R284). -/
def State.detourPorts (s : State) (dest axis : Nat) : List Nat :=
  ([(axis + 1) % 3, (axis + 2) % 3]).flatMap (fun a =>
    let d := (s.direction dest a).getD 0
    [2 * a + d, 2 * a + 1 - d])

/-- Where a packet leaves, and the packet as it leaves; `from?` is the port it came in by (R277, R282 to R284). -/
def State.route (s : State) (k : Packet) (from? : Option Nat) : Option (Nat × Packet) :=
  let k := { k with detour := false }
  match s.dorPort k.dest with
  | none => none
  | some p0 =>
    let adaptive := if k.type = 1 && k.vc = 2 && s.reg .fabAdaptiveEn 0 = 1 then s.adaptivePort k.dest (packetFlits k) else none
    match adaptive with
    | some p => some (p, { k with vc := 2, dateline := false })
    | none =>
      if s.linkUp p0 then
        let kept := match from? with | some f => decide (f / 2 = p0 / 2) && k.dateline | none => false
        let line := kept || s.isDateline p0
        some (p0, { k with vc := classVc k.type + (if line then 1 else 0), dateline := line })
      else
        ((s.detourPorts k.dest (p0 / 2)).find? s.linkUp).map (fun p =>
          (p, { k with detour := true, dateline := false, vc := if s.reg .portProtocol p = 3 then 7 else if s.isDateline p then 1 else 0 }))

/-! ### Out of a port -/

/-- A packet crosses a link: its flits are kept until they are acknowledged (R274, R276). -/
def State.cross (s : State) (p : Nat) (k : Packet) : State :=
  let n := packetFlits k
  let bs := packetBytes k
  let x := s.port p
  let new := (List.range n).map (fun i =>
    ({ seq := (x.txSeq + i) % 4096, payload := padTo 244 ((bs.drop (244 * i)).take 244), sends := 1 } : Retry))
  let s := s.modPort p (fun x =>
    { x with retry := x.retry ++ new, txSeq := (x.txSeq + n) % 4096, used := x.used.set k.vc (x.used.getD k.vc 0 + n)
             sent := x.sent ++ [(k, (x.txSeq + n + 4095) % 4096)], ackAt := if x.retry.isEmpty then s.now else x.ackAt })
  (s.bump .portFlitsTx p n).send (.packet p k)

/-- A packet may start across a link: the link is ACTIVE at both ends, its channel has buffer for the whole packet and the
retry buffer has room (R272, R274, R277). -/
def State.mayCross (s : State) (p : Nat) (k : Packet) : Bool :=
  let x := s.port p
  s.linkUp p && x.heard && vcFits x.used k.vc (packetFlits k) && decide (x.retry.length + packetFlits k ≤ 1024)

/-- The waiting packets of a port that may cross now do so, in order within a channel. -/
def State.drainPort (s : State) (p : Nat) : State :=
  let r := (s.port p).queue.foldl (fun (acc : State × List Packet) k =>
    if acc.1.mayCross p k && !acc.2.any (fun w => w.vc == k.vc) then (acc.1.cross p k, acc.2) else (acc.1, acc.2 ++ [k]))
    (s, [])
  r.1.modPort p (fun x => { x with queue := r.2 })

/-- A packet goes out by its route, or not at all where every detour link is missing (R284). -/
def State.forward (s : State) (k : Packet) (from? : Option Nat) : Option State :=
  (s.route k from?).map (fun r => (s.modPort r.1 (fun x => { x with queue := x.queue ++ [r.2] })).drainPort r.1)

/-- A packet of this module's own: its source, its time and, for DATA, the adaptive channel where it is enabled. -/
def State.ownPacket (s : State) (type dest tag xferId pktIndex reason : Nat) (ext payload : List Byte) : Packet :=
  { type := type, vc := if type = 1 && s.reg .fabAdaptiveEn 0 = 1 then 2 else classVc type, dateline := false
    detour := false, dest := dest, reason := reason, src := s.self, tag := tag, ts := s.now, xferId := xferId
    pktIndex := pktIndex, ext := ext, payload := payload }

/-- Sends a packet of this module's own; one that no link can take is discarded. -/
def State.inject (s : State) (k : Packet) : State := (s.forward k none).getD s

/-- A management packet (R278, R351). -/
def State.sendMgmt (s : State) (dest tag mkind job : Nat) (payload : List Byte) : State :=
  s.inject (s.ownPacket 0x20 dest tag 0 0 0
    (bytesLE 1 mkind ++ List.replicate 3 0 ++ bytesLE 4 job ++ List.replicate 24 0) payload)

/-- XFER_NACK with a reason (R278, R280, R281, R284). -/
def State.sendNack (s : State) (k : Packet) (reason : Nat) : State :=
  (s.bump .fabXferNacks 0 1).inject (s.ownPacket 3 k.src k.tag k.xferId 0 reason [] [])

/-- XFER_DONE of a segment. -/
def State.sendDone (s : State) (dest tag xferId : Nat) : State := s.inject (s.ownPacket 2 dest tag xferId 0 0 [] [])

end Sys2Proof.Machine
end

