-- ==== Sys2Proof/Machine/Cmd.lean ====
section
/-!
DEFINITION. What every host command goes through: whether it may run, its job, its class and limit, how it is stopped
(R249 to R257), and the tensors that a job names (R48 to R52, R260).
-/
namespace Sys2Proof.Machine

/-! ### Classes of opcodes (R255, R260, R261, R363) -/

def opAdmin (op : Nat) : Bool := decide (1 ≤ op) && decide (op ≤ 4)
def opJob (op : Nat) : Bool := decide (0x10 ≤ op) && decide (op ≤ 0x12)
def opMemory (op : Nat) : Bool := decide (0x20 ≤ op) && decide (op ≤ 0x25)
def opTensor (op : Nat) : Bool := decide (0x30 ≤ op) && decide (op ≤ 0x32)
def opCompute (op : Nat) : Bool := decide (0x40 ≤ op) && decide (op ≤ 0x46)
def opTransfer (op : Nat) : Bool := op == 0x50 || op == 0x51
def opColl (op : Nat) : Bool := decide (0x60 ≤ op) && decide (op ≤ 0x63)
def opMgmt (op : Nat) : Bool := (decide (0x70 ≤ op) && decide (op ≤ 0x7A)) || op == 0x7F

/-- Opcodes of R260 and R261; the formats 0x02 and 0x03 define the same ones (R263). -/
def opKnown (op : Nat) : Bool :=
  opAdmin op || opJob op || opMemory op || opTensor op || opCompute op || opTransfer op || opColl op || opMgmt op

/-- Opcodes that run on Chambers (R261, R363): all compute opcodes but SAMPLE, whose unit is the Gallery's sampler. -/
def opChambers (op : Nat) : Bool := opCompute op && op != 0x44

/-- Opcodes of a job (R249, R260, R261): they need a `JOB_ID`; admin, management and JOB_ADMIT carry 0; the rest may name
a job. -/
def opNeedsJob (op : Nat) : Bool := op == 0x11 || op == 0x12 || opTensor op || opCompute op || opColl op
def opNoJob (op : Nat) : Bool := opAdmin op || opMgmt op || op == 0x10

/-- Ticks of the limit of a command (R255); none for a collective. The job opcodes are taken with the management class
(log 21). A µs is 2,000 ticks. -/
def limitTicks (op timeoutUs : Nat) : Option Nat :=
  if opColl op then none
  else if timeoutUs ≠ 0 then some (2000 * timeoutUs)
  else if opMemory op || opTensor op then some 200000000
  else if opCompute op || opTransfer op then some 20000000000
  else some 2000000000

/-! ### Running a command -/

/-- A comes before b, both modulo 2^32. -/
def seqBefore (a b : Nat) : Bool := a != b && decide ((b + 2 ^ 32 - a % 2 ^ 32) % 2 ^ 32 < 2 ^ 31)

/-- A command's queue has passed it: it has been refused, has completed or was cancelled, and its outcome stands (R250, R253,
R254). -/
def State.passed (s : State) (h : Cmd) : Bool :=
  s.outcomes.any (fun o => o.cmd == h) || seqBefore h.seq (s.queue h.queue).nextSeq

/-- A command runs when it has started. One that the driver places without a fetched packet runs where its queue fetches none
(log 14). -/
def State.ready (s : State) (h : Cmd) : Bool :=
  match s.outstanding.find? (fun o => o.cmd == h) with
  | none => (s.queue h.queue).state == .absent && !s.passed h
  | some o => o.phase == .started

/-- A command is fetched and not complete. -/
def State.isOut (s : State) (h : Cmd) : Bool := s.outstanding.any (fun o => o.cmd == h)

/-- `DETAIL` of a parameter error: its byte offset in the packet. -/
def State.at (s : State) (h : Cmd) (off : Nat) : Nat := (s.entry h).paramOff + off

/-- Completes with `BAD_PARAM` for the parameter at an offset. -/
def State.bad (s : State) (h : Cmd) (off : Nat) : State := s.fail h stBadParam (s.at h off)

/-- A condition on a command, with the status and detail it completes with where it fails. -/
abbrev Check := Option (Nat × Nat)

def check (ok : Bool) (status detail : Nat) : Check := if ok then none else some (status, detail)

/-- The first check that fails. -/
def firstBad : List Check → Check
  | [] => none
  | none :: cs => firstBad cs
  | some e :: _ => some e

/-- A parameter check. -/
def State.param (s : State) (h : Cmd) (ok : Bool) (off : Nat) : Check := check ok stBadParam (s.at h off)

/-- The job of a command, where it has one. -/
def State.jobOf (s : State) (h : Cmd) : Option Job := s.job? (s.entry h).jobId

/-- The command names a job that is admitted and has not ended (R259). -/
def State.hasJob (s : State) (h : Cmd) : Bool :=
  match s.jobOf h with | some j => !j.ended | none => false

/-- Runs a command that is ready: `k` unless a check fails. -/
def State.run (s : State) (h : Cmd) (checks : List Check) (k : State) : Out :=
  if !s.ready h then .next s
  else
    match firstBad checks with
    | some (st, d) => .next (s.fail h st d)
    | none => .next k

/-- The check that a command of a job has one. -/
def State.jobCheck (s : State) (h : Cmd) : Check := check (s.hasJob h) stNoJob 0

/-- A command that goes on after its row: its entry stays, marked as held with the bytes its opcode needs. -/
def State.hold (s : State) (h : Cmd) (op : Nat) (held : List Byte) : State :=
  let o := { s.entry h with opcode := op, phase := .held, held := held }
  if s.isOut h then { s with outstanding := s.outstanding.map (fun (x : Outstanding) => if x.cmd = h then o else x) }
  else { s with outstanding := s.outstanding ++ [o] }

/-- Completes a held command, if it is still outstanding. -/
def State.finish (s : State) (h : Cmd) (d : Done) : State := if s.isOut h then s.complete h d else s

/-! ### Stopping a command (R105, R255, R256) -/

/-- Strands that serve a command. -/
def State.strandsOf (s : State) (h : Cmd) : List (Nat × Nat) :=
  s.chambers.flatMap (fun x => (x.2.strands.filter (fun t => t.2.cmd == some h)).map (fun t => (x.1, t.1)))

/-- Everything that runs for a command stops: its strands are aborted (R105), its transfers and flows send no more
packets, and what waits inside the module for it is given up. What it has written stays. -/
def State.dropWork (s : State) (h : Cmd) : State :=
  let s := (s.strandsOf h).foldl (fun s x => s.abort x.1 x.2) s
  { s with
    batches := (s.batches.map (fun b => { b with members := b.members.filter (fun m => !(m.1 == h)) })).filter
      (fun b => !b.members.isEmpty)
    admitting := s.admitting.filter (fun a => !(a.cmd == h))
    xfers := s.xfers.filter (fun x => !(x.cmd == h))
    flows := s.flows.map (fun f => match f.sending with
      | some y => if y.1 = h then { f with sending := none, unacked := [] } else f
      | none => f)
    power := { s.power with
      queuedPower := s.power.queuedPower.filter (fun x => !(x.2 == h))
      capCmds := s.power.capCmds.filter (fun x => !(x == h))
      moving := s.power.moving.map (fun x => (x.1, if x.2 = some h then none else x.2)) }
    keys := { s.keys with waiting := s.keys.waiting.filter (fun x => !(x.1 == h)) }
    queues := s.queues.map (fun x => (x.1, { x.2 with deleting := if x.2.deleting = some h then none else x.2.deleting })) }

/-! ### Tensors (R48 to R52, R154, R260) -/

/-- A tensor of a job. -/
def State.tensor? (s : State) (job id : Nat) : Option Tensor := s.tensors.find? (fun t => t.job == job && t.p.id == id)

def State.modTensor (s : State) (job id : Nat) (f : Tensor → Tensor) : State :=
  { s with tensors := s.tensors.map (fun t => if t.job = job && t.p.id = id then f t else t) }

/-- Margin and number of steps of the history policy: 1 and 16 by default (R50, R260). -/
def tensorMargin (p : TensorParams) : Nat := if p.histM = 0xFF then 1 else p.histM
def tensorSteps (p : TensorParams) : Nat := if p.histH = 0 then 16 else p.histH

/-- The largest amax of the last H completed steps (R51). -/
def Tensor.amax (t : Tensor) : Nat :=
  ((t.hist.reverse.take (tensorSteps t.p)).foldl max 0)

/-- The descriptor that a tensor stands for (R96, R260). -/
def Tensor.desc (t : Tensor) (rnd : Nat) : Desc :=
  { format := t.stored, deliver := t.stored, space := t.p.space, addrMode := 0, trans := false, ptrAxis := 0, fsRate := 0
    scale := t.scale, base := t.p.base, rowStride := t.p.rowStride, rows := t.p.rows, cols := t.p.cols
    rowSel := 15, colSel := 15, rnd := rnd, spill := false, aDesc := 0, bDesc := 0, drainLen := 0, drainWord := 0
    aux := t.p.pageHalf }

/-- A tensor as an operand of no fixed role, or as an output; a paged one with its page reference (R158). `lens` are the
length registers in force. -/
def Tensor.view (t : Tensor) (s : State) (role : Role) (rnd : Nat) (lens : List Nat := []) (tokenOrg : Nat := 0) :
    Except RdErr View := do
  let d := t.desc rnd
  let v : View := { d := d, role := role, c := 0, base := d.base, rLo := 0, rEnd := d.rows, cLo := 0, cEnd := d.cols
                    tokenOrg := tokenOrg }
  if d.space = 3 then
    let r ← readRef s d.base
    let v := { v with page := some r, seqLen := lenSel lens r.seqSel
                      qOrg := if r.qSel = 15 then 0 else lens.getD r.qSel 0 }
    if role = .out then .ok v
    else if d.aux % 2 = 0 then .ok { v with cEnd := min v.cEnd (128 * r.len) }
    else .ok { v with rEnd := min v.rEnd (128 * r.len) }
  else .ok v

/-- Offsets among the parameters of an opcode of the tensors that it writes (R261). -/
def outputOffsets (op : Nat) : List Nat :=
  if op = 0x40 || op = 0x41 || op = 0x43 then [8] else if op = 0x42 then [4] else if op = 0x45 then [0, 4, 8, 16]
  else if opColl op then [12] else []

/-- Free values in `n` bytes at an address (log 2). -/
def State.freeBytes (s : State) (a : Nat) : Nat → State
  | 0 => s
  | n + 1 => let (f, s) := (s.freeBytes a n).takeFree; (s.showLost (a + n) 1).write (a + n) [BitVec.ofNat 8 f]

/-- The content of a tensor is undefined: every element that its view places holds free values (R256; log 2). -/
def State.undefineTensor (s : State) (t : Tensor) : State :=
  match t.view s .out 0 with
  | .error _ => s
  | .ok v =>
    (List.range v.d.rows).foldl (fun s r => (List.range v.d.cols).foldl (fun s c =>
      match v.loc s r c with | .ok (.byte a) => s.freeBytes a v.e | _ => s) s) s

/-- The content of the output regions of a command that is stopped while it runs is undefined; one that has not started has written
nothing (R256). -/
def State.undefineOutputs (s : State) (h : Cmd) : State :=
  match s.outstanding.find? (fun o => o.cmd == h) with
  | none => s
  | some o =>
    if o.phase = .fetched then s
    else (outputOffsets o.opcode).foldl (fun s f =>
      match s.tensor? o.jobId (fieldLE o.params f 4) with | some t => s.undefineTensor t | none => s) s

/-- What a command completes with that stops: its status, the numeric flags of its strands as each is aborted (R62), and
`SMX_RANGE` where a row of theirs was ranged (R122, R258). -/
def State.stopped (s : State) (h : Cmd) (status detail : Nat) : Done :=
  let xs := s.strandsOf h
  { status := status, detail := detail
    numFlags := xs.foldl (fun n x => n ||| s.reg .chStrandNumFlags x.1 x.2) 0
    flags := if xs.any (fun x => (s.strand x.1 x.2).ranged) then 4 else 0 }

/-- A started command is stopped and completes. -/
def State.stopCommand (s : State) (h : Cmd) (status detail : Nat) : State := (s.dropWork h).complete h (s.stopped h status detail)

/-- CANCEL or a timeout stops a started command (R255, R256). -/
def State.cancelCommand (s : State) (h : Cmd) (status detail : Nat) : State :=
  (s.undefineOutputs h).stopCommand h status detail

/-- The scale of an operand: the page-table header's for a paged tensor, else the tensor's (R154). -/
def Tensor.scaleIn (t : Tensor) (v : View) : Nat := if v.page.isSome then v.scale else t.scale

/-- The scale of a tensor that an operation writes: the header's for a paged one, the fixed one, or that of the history,
where the first step takes the operation's own amax (R51, R52, R154). -/
def Tensor.outScale (t : Tensor) (v : View) (amax : Nat) : Nat :=
  if v.page.isSome then v.scale
  else if t.p.policy = 1 || t.p.saveMode = 1 then
    historyScale (if t.hist.isEmpty then amax else t.amax) (tensorMargin t.p) t.stored
  else t.scale

/-- The scale of the saved copy (R174, R175). -/
def Tensor.outSaveScale (t : Tensor) (amax : Nat) : Nat :=
  historyScale (if t.hist.isEmpty then amax else t.amax) (tensorMargin t.p) t.p.saveFmt

/-- The status and `DETAIL` that a command completes with where an access of it stops (R220, R259): no Chamber is named
in this model of whole operations, so [15:8] = 0xFF. -/
def rdStatus : RdErr → Nat × Nat
  | .addr _ => (stAddressError, addrDetail)
  | .page e => (stPageError, addrDetail + 2 ^ e.bit)
  | .geom _ => (stGeometryError, addrDetail + 1)
  | .flow _ => (stGeometryError, addrDetail + 2)
  | .poison _ => (stPoisoned, 0)

/-- The class of the unit that detects an uncorrectable read, and its number: the stack's controller, else the Gallery. -/
def uncorrUnit (a : Nat) : Nat × Nat :=
  match regionOf a with
  | some .hbm => (3, a / hbmWindow)
  | some .pocket => (0, (a - pocketBase) / pocketWindow)
  | _ => (1, galleryOf a % 32)

/-- A command was interrupted by a fault and goes on (R258). -/
def State.markRecovered (s : State) (h : Cmd) : State :=
  { s with outstanding := s.outstanding.map (fun o => if o.cmd = h then { o with recovered := true } else o) }

/-- An error that stops a command (R87, R220, R342): it completes with its status, but for poisoned data, where the
memory records the read and the command waits for the recovery of the line at `a`. -/
def State.rdStop (s : State) (h : Cmd) (op : Nat) (e : RdErr) : State :=
  match e with
  | .poison a =>
    let (cls, u) := uncorrUnit a
    ((s.memUncorr a).raise cls u evUncorr [4, 0, a]).hold h op (bytesLE 8 a)
  | .addr a => let (st, d) := rdStatus e; (s.unmapped a).fail h st d
  | _ => let (st, d) := rdStatus e; s.fail h st d

end Sys2Proof.Machine
end

