-- ==== Sys2Proof/Machine/Collective.lean ====
section
/-!
DEFINITION. Collective operations and the Sump: rings, passes, claims, pieces on the wire, the order of addition, and the
abort record that all members share (R293 to R312).
-/
namespace Sys2Proof.Machine

/-! ### Rings and chunks (R294, R295, R311) -/

/-- Size of the ring of an axis; axis 3 is the chain over all members (R311). -/
def Job.ringSize (j : Job) (axis : Nat) : Nat :=
  if axis = 3 then j.ranks.length else [j.nx, j.ny, j.nz].getD axis 1

/-- Coordinate of a rank on an axis: r = (rz × NY + ry) × NX + rx (R293). -/
def Job.coord (j : Job) (rank axis : Nat) : Nat :=
  match axis with
  | 0 => rank % max 1 j.nx
  | 1 => rank / max 1 j.nx % max 1 j.ny
  | 2 => rank / max 1 (j.nx * j.ny)
  | _ => rank

/-- The rank at ring place i of this member's ring of an axis. -/
def Job.member (j : Job) (axis i : Nat) : Nat :=
  match axis with
  | 0 => j.rank - j.coord j.rank 0 + i
  | 1 => j.rank - j.coord j.rank 1 * j.nx + i * j.nx
  | 2 => j.rank - j.coord j.rank 2 * (j.nx * j.ny) + i * (j.nx * j.ny)
  | _ => i

/-- First element and length of chunk c of `size` elements in n chunks (R148, R295). -/
def chunkRange (size n c : Nat) : Nat × Nat :=
  let q := size / max 1 n
  let r := size % max 1 n
  (c * q + min c r, if c < r then q + 1 else q)

/-! ### Passes (R296, R297, R311) -/

/-- A reduce pass, the last hop of REDUCE_SCATTER to the chunk's owner, and a gather pass. -/
inductive PassKind where
  | reduce | hop | gather
deriving DecidableEq, Repr

/-- Where the data of a gather pass starts: at the finisher, at the owner, or at one ring place. -/
inductive Origin where
  | finisher | owner | place (i : Nat)
deriving DecidableEq, Repr

/-- A pass of a collective on this member. -/
structure CollPass where
  kind : PassKind
  axis : Nat
  second : Bool
  n : Nat
  r : Nat
  chunks : Nat
  base : Nat
  size : Nat
  origin : Origin
  /-- The chain's way back goes down the ranks (R311). -/
  down : Bool := false
deriving DecidableEq, Repr

/-- A pass of a ring of one member over nothing. -/
def noPass : CollPass := ⟨.reduce, 0, false, 1, 0, 1, 0, 0, .owner, false⟩

def CollPass.step (p : CollPass) : Nat := p.axis + (if p.second then 4 else 0)
def CollPass.range (p : CollPass) (c : Nat) : Nat × Nat := let x := chunkRange p.size p.chunks c; (p.base + x.1, x.2)
def CollPass.finisher (p : CollPass) (c : Nat) : Nat := (c + p.n - 1) % max 1 p.n

/-- Ring place at which a chunk starts. -/
def CollPass.start (p : CollPass) (c : Nat) : Nat :=
  match p.kind with
  | .reduce => c
  | .hop => p.finisher c
  | .gather => match p.origin with | .finisher => p.finisher c | .owner => c | .place i => i

/-- Ring place at which a chunk ends. -/
def CollPass.finish (p : CollPass) (c : Nat) : Nat :=
  match p.kind with
  | .reduce => p.finisher c
  | .hop => c
  | .gather => if p.down then (p.start c + 1) % max 1 p.n else (p.start c + p.n - 1) % max 1 p.n

def CollPass.next (p : CollPass) : Nat := if p.down then (p.r + p.n - 1) % max 1 p.n else (p.r + 1) % max 1 p.n
def CollPass.prev (p : CollPass) : Nat := if p.down then (p.r + 1) % max 1 p.n else (p.r + p.n - 1) % max 1 p.n

/-- Chunks that this member sends from its own data, and chunks that reach it. -/
def CollPass.own (p : CollPass) : List Nat :=
  (List.range p.chunks).filter (fun c => p.start c == p.r && decide (0 < (p.range c).2))
def CollPass.incoming (p : CollPass) : List Nat :=
  (List.range p.chunks).filter (fun c =>
    p.start c != p.r && decide (0 < (p.range c).2) && (p.kind != .hop || c == p.r))

/-- The reduce passes on the axes in order, and the range that this member has finished after them (R297). -/
def Job.reducePasses (j : Job) : List Nat → Nat → Nat → List CollPass
  | [], _, _ => []
  | a :: rest, base, size =>
    let n := j.ringSize a
    let r := j.coord j.rank a
    let chunks := if a = 3 then 1 else n
    let p : CollPass := { kind := .reduce, axis := a, second := false, n := n, r := r, chunks := chunks, base := base,
                          size := size, origin := .owner }
    let c := (r + 1) % max 1 n
    let mine := p.range c
    p :: j.reducePasses rest mine.1 mine.2

/-- Gather passes of ALL_GATHER (R296, R297): z, y, x; block c of an axis holds what ring rank c has gathered. `pre` are
the axes still to come after the one at the head. -/
def Job.gatherPasses (j : Job) : List Nat → Nat → List CollPass
  | [], _ => []
  | a :: pre, blk =>
    let n := j.ringSize a
    let ext := fun l => l.foldl (fun x b => x * j.ringSize b) 1
    -- first element of this member's part: the axes not yet gathered are the slower ones
    let base := (List.range pre.length).foldl (fun b i =>
      let axis := pre.getD i 0
      b + j.coord j.rank axis * (blk * n * ext (pre.take i))) 0
    { kind := .gather, axis := a, second := true, n := n, r := j.coord j.rank a, chunks := n, base := base, size := n * blk,
      origin := .owner } :: j.gatherPasses pre (blk * n)

/-- Gather passes of BROADCAST (R297): an axis in turn, from ROOT's ring place, where this member's ring has the data. -/
def Job.rootPasses (j : Job) (root size : Nat) : List Nat → List CollPass
  | [] => []
  | a :: rest =>
    let inRing := rest.all (fun b => j.coord j.rank b == j.coord root b)
    let n := j.ringSize a
    let p : CollPass := { kind := .gather, axis := a, second := true, n := n, r := j.coord j.rank a
                          chunks := if a = 3 then 1 else n, base := 0, size := size, origin := .place (j.coord root a) }
    (if inRing then [p] else []) ++ j.rootPasses root size rest

/-- Selected axes; in fixed-order mode the one chain (R311). -/
def Job.axes (j : Job) (dims : Nat) : List Nat := if j.collOrder = 1 then [3] else (List.range 3).filter (bit dims)

/-- The passes of a collective of `size` elements on this member (R296, R297, R311). -/
def Job.plan (j : Job) (opcode : Nat) (p : CollParams) (size : Nat) : List CollPass :=
  let axes := j.axes p.dims
  let red := j.reducePasses axes 0 size
  let many := fun (l : List CollPass) => l.filter (fun x => decide (1 < x.n))
  if opcode = 0x62 then many (j.gatherPasses axes.reverse size)
  else if opcode = 0x63 then many (j.rootPasses p.root size axes)
  else if j.collOrder = 1 then
    let back : List CollPass := red.map (fun x => { x with
      kind := .gather, second := true, origin := .place (x.n - 1), down := true, chunks := if opcode = 0x61 then x.n else 1 })
    red ++ many back
  else if opcode = 0x60 then red ++ many (red.reverse.map (fun x => { x with kind := .gather, second := true, origin := .finisher }))
  else red ++ many (red.reverse.map (fun x => { x with kind := .hop }))

/-- First element of this member's `DST` (R296): its own chunk of REDUCE_SCATTER starts at 0. -/
def Job.dstRange (j : Job) (opcode : Nat) (p : CollParams) (size : Nat) : Nat × Nat :=
  let axes := j.axes p.dims
  if opcode = 0x61 then
    axes.foldl (fun (x : Nat × Nat) a =>
      let c := chunkRange x.2 (j.ringSize a) (j.coord j.rank a)
      (x.1 + c.1, c.2)) (0, size)
  else if opcode = 0x62 then (0, axes.foldl (fun x a => x * j.ringSize a) size)
  else (0, size)

/-! ### Values (R298) -/

/-- Bytes per element of the carry of a format, and whether it is ACC44 (R298). -/
def carryWide (srcFormat : Nat) : Bool := srcFormat == fmtG16 || srcFormat == fmtFP32
def carryBytes (srcFormat : Nat) : Nat := if carryWide srcFormat then 8 else 4

/-- A value rounded to the carry format, as a wire code. -/
def carryCode (strict wide : Bool) (x : Num) : Nat :=
  if wide then accSpill (accRound strict x).1 else (storeNum strict fmtFP32 0 (fun _ => 0) x).code

/-- The value of a carry code. -/
def carryNum (wide : Bool) (code : Nat) : Num := if wide then accNum (accRefill code) else fp32 code

/-- One step of a reduce pass (R298): `REDUCE` 0 adds, 1 takes the larger. -/
def carryStep (strict wide : Bool) (reduce : Nat) (partialCode : Nat) (t : Acc44) : Nat :=
  if reduce = 0 then carryCode strict wide ((carryNum wide partialCode).add (accNum t))
  else carryCode strict wide (accNum (accMaxOf (accRound strict (carryNum wide partialCode)).1 t))

/-- What a collective works on: its tensors and their views. -/
structure CollCtx where
  j : Job
  strict : Bool
  src : Tensor
  dst : Tensor
  vSrc : View
  vDst : View
  size : Nat
  plan : List CollPass
  dst0 : Nat
  wide : Bool
deriving DecidableEq, Repr

def State.collCtx (s : State) (x : Coll) : Option CollCtx :=
  match s.job? x.job, s.tensor? x.job x.p.src, s.tensor? x.job x.p.dst with
  | some j, some src, some dst =>
    match src.view s .plain 0, dst.view s .out x.p.rnd with
    | .ok vSrc, .ok vDst =>
      let size := vSrc.rEnd * vSrc.cEnd
      some { j := j, strict := s.strict x.job, src := src, dst := dst, vSrc := vSrc, vDst := vDst, size := size
             plan := j.plan x.opcode x.p size, dst0 := (j.dstRange x.opcode x.p size).1, wide := carryWide src.stored }
    | _, _ => none
  | _, _, _ => none

/-- The term of one element (R298): t = round(x × scaleSrc). -/
def State.collTerm (s : State) (x : CollCtx) (e : Nat) : Acc44 :=
  let cols := max 1 x.vSrc.cEnd
  match x.vSrc.read1 s (e / cols) (e % cols) with
  | .ok { code := some code, .. } =>
    (accRound x.strict ((accNum (vloadLane x.strict x.src.stored code).1).mul (fp32 (x.src.scaleIn x.vSrc)))).1
  | _ => accZero

/-- The index of an element in the `DST` that holds it (R209, R298): of REDUCE_SCATTER, the `DST` of the member that owns its
chunk. -/
def collIndex (x : CollCtx) (c : Coll) (e : Nat) : Nat :=
  if c.opcode ≠ 0x61 then e
  else
    match x.plan.reverse.find? (fun p => p.kind == .reduce) with
    | none => e
    | some p =>
      if p.axis = 3 then
        e - ((List.range p.n).map (fun i => (chunkRange x.size p.n i).1)).foldl (fun m lo => if lo ≤ e then max m lo else m) 0
      else e - (p.range ((p.r + 1) % max 1 p.n)).1

/-- The finisher's conversion of a complete value to `DST` (R298): y = round(acc / scaleDst), with the random bits of the
element's logical index in `DST` (R209, R211). The scale of `DST` follows R51; the first step of a history takes this
member's own amax (R52). Answers the code and the flags. -/
def collFinish (x : CollCtx) (c : Coll) (e : Nat) (acc : Num) : Nat × Nat :=
  let y := accRoundF x.strict (acc.div (fp32 (x.dst.outScale x.vDst c.amax)))
  let dr : Draws := ⟨x.j.generator, x.j.seed, c.p.stream, x.dst.p.idxBase⟩
  let o := (convertOne x.strict x.dst.stored c.p.rnd dr (collIndex x c e) y.1).1
  (o.code, nfOr y.2 o.flags)

/-- Writes elements of `DST`, by their index in the collective. -/
def State.collStore (s : State) (x : CollCtx) (es : List (Nat × Nat)) : State :=
  let cols := max 1 x.vDst.cEnd
  match x.vDst.writesOf s (es.map (fun e => ⟨(e.1 - x.dst0) / cols, (e.1 - x.dst0) % cols, e.2⟩)) with
  | .ok w => s.storeAll w.1 none clsCollective
  | .error _ => s

/-- The stored code of an element of `DST`. -/
def State.collLoad (s : State) (x : CollCtx) (e : Nat) : Nat :=
  let cols := max 1 x.vDst.cEnd
  match x.vDst.read1 s ((e - x.dst0) / cols) ((e - x.dst0) % cols) with
  | .ok { code := some code, .. } => code
  | _ => 0

/-! ### The records -/

def State.coll? (s : State) (job seq : Nat) : Option Coll := s.colls.find? (fun c => c.job == job && c.seq == seq)
def State.coll (s : State) (job seq : Nat) : Coll := (s.coll? job seq).getD { job := job, seq := seq, lastTs := s.now }
def State.putColl (s : State) (c : Coll) : State :=
  { s with colls := s.colls.filter (fun x => !(x.job == c.job && x.seq == c.seq)) ++ [c] }

/-- Progress of a collective (R307): also of those that wait in the claim queue while it holds claims. -/
def State.collProgress (s : State) (job seq : Nat) : State :=
  let holds := decide (0 < (s.coll job seq).granted)
  { s with colls := s.colls.map (fun c =>
      if c.job = job && (c.seq = seq || (holds && c.granted = 0 && c.cmd.isSome)) then { c with lastTs := s.now } else c) }

/-- The job of this module that a collective packet belongs to: its partition tag and its source's membership. -/
def State.collJob (s : State) (k : CollPacket) : Option Job :=
  s.jobs.find? (fun j => j.tag == k.tag && j.ranks.contains k.src && !j.ended)

/-- A collective packet with a reserved field or encoding is discarded (R312). -/
def State.collProto (s : State) : State := s.flag .modCollProto 0

/-- A collective packet to a member (R304). -/
def State.sendColl (s : State) (j : Job) (rank ckind step chunk seq pktIndex offset count fmt : Nat) (payload : List Byte) :
    State :=
  if rank = j.rank then s
  else
    s.inject (s.ownPacket 0x10 (j.ranks.getD rank 0) j.tag (seq % 2 ^ 32) pktIndex 0
      (bytesLE 1 ckind ++ bytesLE 1 step ++ [0, 0] ++ bytesLE 4 chunk ++ bytesLE 8 seq ++ bytesLE 8 offset ++
        bytesLE 4 count ++ bytesLE 1 fmt ++ [0, 0, 0]) payload)

/-! ### Abort (R307 to R309) -/

/-- The 64 bytes of an abort record (R309). -/
def abortRecord (j : Job) (seq reason step late detect detectTs lastTs : Nat) : List Byte :=
  bytesLE 8 seq ++ bytesLE 4 j.id ++ bytesLE 2 (j.tag % 4096) ++ bytesLE 1 reason ++ bytesLE 1 step ++ bytesLE 4 late ++
    bytesLE 4 (j.ranks.getD late 0) ++ bytesLE 4 detect ++ bytesLE 4 0 ++ bytesLE 8 detectTs ++ bytesLE 8 lastTs ++ List.replicate 16 0

/-- The order of records: `DETECT_TS`, then `DETECT_RANK` (R308). -/
def recordBefore (a b : List Byte) : Bool :=
  decide (fieldLE a 32 8 < fieldLE b 32 8) || (fieldLE a 32 8 == fieldLE b 32 8 && decide (fieldLE a 24 4 < fieldLE b 24 4))

/-- A member stops a collective and keeps the smallest record seen (R308). -/
def State.collStop (s : State) (job seq : Nat) (rec' : List Byte) : State :=
  let c := s.coll job seq
  let keep := match c.record with | some r => if recordBefore rec' r then rec' else r | none => rec'
  s.putColl { c with stopped := true, out := [], record := some keep }

/-- This member detects an abort: it builds the record and sends it to every member (R307). -/
def State.collDetect (s : State) (j : Job) (seq reason step late : Nat) : State :=
  let c := s.coll j.id seq
  if c.stopped then s
  else
    let rec' := abortRecord j seq reason step late j.rank s.now c.lastTs
    let s := s.collStop j.id seq rec'
    (List.range j.ranks.length).foldl (fun s r => s.sendColl j r 4 step 0 seq 0 0 0 0 rec') s

/-- CANCEL or JOB_END of a collective: reason 2, this member as detector and late member (R309). The step is not given;
0xFF is used (log 22). -/
def State.collCancel (s : State) (j : Job) (seq : Nat) : State := s.collDetect j seq 2 0xFF j.rank

/-- What an aborted collective leaves beside its record (R308, R312): the content of its `DST` is undefined, free values, and its
time in the claim queue counts where it was granted nothing. -/
def State.collUndefined (s : State) (c : Coll) (r : List Byte) : State :=
  if !c.arrived then s
  else
    let s := match s.tensor? c.job c.p.dst with | some t => s.undefineTensor t | none => s
    if 0 < c.granted then s else s.bump .modClaimWaitUs 0 ((fieldLE r 32 8 - c.queuedTs) / 2000)

/-- The record is stored and the command completes (R308): the claims return, and later collectives proceed. -/
def State.collAborted (s : State) (c : Coll) (r : List Byte) : State :=
  let n := s.reg .modCollAborts 0
  let s := s.collUndefined c r
  let s := s.store (s.reg .modCollAbortBase 0 + 64 * (n % 256)) r
  let s := s.log 3 0 0x0203 (r.take 8 ++ bytesLE 4 (n % 2 ^ 32))
  let s := ((s.bump .modCollAborts 0 1).flag .modCollAborted 0).hostEvent 4
  let s := s.modJob c.job (fun j => { j with poolFree := j.poolFree + c.granted })
  let s := s.putColl { c with granted := 0, cmd := none, stored := some n }
  match c.cmd with
  | some h => if s.isOut h then s.fail h stCollAbort n else s
  | none => s

/-! ### Sending (R303, R305) -/

/-- Ranks of the ring of an axis. -/
def Job.ring (j : Job) (axis : Nat) : List Nat := (List.range (j.ringSize axis)).map (j.member axis)

/-- Every ring member's CLAIM is held. -/
def Coll.ringReady (c : Coll) (j : Job) (axis : Nat) : Bool := (j.ring axis).all (fun r => c.claims.any (fun x => x.1 == r))

/-- Piece size of a ring in bytes: half the smallest grant (R303). -/
def Coll.pieceBytes (c : Coll) (j : Job) (axis : Nat) : Nat :=
  let gs := (j.ring axis).map (fun r => ((c.claims.find? (fun x => x.1 == r)).map (·.2)).getD 1)
  gs.foldl min (gs.headD 1) * 0x10000 / 2

/-- Bytes per element of a pass on the wire, and its format code. -/
def CollCtx.wire (x : CollCtx) (p : CollPass) : Nat × Nat :=
  match p.kind with
  | .reduce => if x.wide then (8, fmtSpill) else (4, fmtFP32)
  | _ => (fmtBytes x.dst.stored, x.dst.stored)

/-- Elements of a piece of a pass. -/
def CollCtx.pieceElems (x : CollCtx) (c : Coll) (p : CollPass) : Nat := max 1 (c.pieceBytes x.j p.axis / max 1 (x.wire p).1)

/-- Packets of a piece: up to 4,096 bytes of payload each (R304). -/
def State.sendPiece (s : State) (x : CollCtx) (c : Coll) (p : CollPass) (o : OutPiece) : State :=
  let (eb, fmt) := x.wire p
  let per := 4096 / max 1 eb * eb
  let s := (List.range (ceilDiv o.bytes.length (max 1 per))).foldl (fun s i =>
    s.sendColl x.j (x.j.member p.axis p.next) 2 o.step o.chunk c.seq o.index (o.offset + i * (per / max 1 eb)) 0 fmt
      ((o.bytes.drop (i * per)).take per)) s
  if o.relay then s.sendColl x.j (x.j.member p.axis p.prev) 5 o.step 0 c.seq 0 0 1 0 [] else s

/-- Sends waiting pieces against credits (R305). -/
def State.collFlush (s : State) (x : CollCtx) (job seq : Nat) : State :=
  ((s.coll job seq).out).foldl (fun s o =>
    let c := s.coll job seq
    let n := ((c.credits.find? (fun y => y.1 == o.step)).map (·.2)).getD 0
    match x.plan.find? (fun p => p.step == o.step) with
    | some p =>
      if n = 0 then s
      else
        let s := (s.putColl { c with
          credits := (o.step, n - 1) :: c.credits.filter (fun y => !(y.1 == o.step)), out := c.out.erase o }).collProgress job seq
        s.sendPiece x (s.coll job seq) p o
    | none => s) s

/-- The pieces of a chunk, from its codes in order. -/
def CollCtx.cut (x : CollCtx) (c : Coll) (p : CollPass) (chunk : Nat) (codes : List Nat) (relay : Bool) : List OutPiece :=
  let pe := x.pieceElems c p
  (List.range (ceilDiv codes.length pe)).map (fun i =>
    { step := p.step, chunk := chunk, index := i, offset := i * pe
      bytes := ((codes.drop (i * pe)).take pe).flatMap (bytesLE (x.wire p).1), relay := relay })

/-! ### Passes in progress -/

/-- The complete value of an element after reduce pass k. -/
def Coll.val (c : Coll) (k e : Nat) : Nat := (tget none (tget [] c.vals k) e).getD 0
def Coll.setVal (c : Coll) (k e v : Nat) : Coll :=
  { c with vals := tset [] c.vals k (tset none (tget [] c.vals k) e (some v)) }

/-- The value that this member contributes to pass k for element e: its own term, or what it finished before (R297). -/
def State.collInput (s : State) (x : CollCtx) (c : Coll) (k e : Nat) : Acc44 :=
  if k = 0 then s.collTerm x e else (accRound x.strict (carryNum x.wide (c.val (k - 1) e))).1

/-- Index of the last reduce pass. -/
def CollCtx.lastReduce (x : CollCtx) : Nat := (x.plan.filter (fun p => p.kind == .reduce)).length - 1

/-- The `DST` code of an element that this member finished or owns. -/
def State.collOut (s : State) (x : CollCtx) (c : Coll) (e : Nat) : Nat × Nat :=
  if c.opcode = 0x60 || c.opcode = 0x61 then collFinish x c e (carryNum x.wide (c.val x.lastReduce e))
  else
    -- ALL_GATHER and BROADCAST deliver the source's own elements
    let src := if c.opcode = 0x62 then e % max 1 x.size else e
    collFinish x c e (accNum (s.collTerm x src))

/-- The codes that this member sends for its own chunk of pass k. -/
def State.collOwn (s : State) (x : CollCtx) (c : Coll) (k : Nat) (p : CollPass) (chunk : Nat) : List Nat :=
  let (lo, n) := p.range chunk
  let es := (List.range n).map (lo + ·)
  match p.kind with
  | .reduce => es.map (fun e => carryCode x.strict x.wide (accNum (s.collInput x c k e)))
  | .hop => if k = x.lastReduce + 1 then es.map (fun e => (s.collOut x c e).1) else es.map (fun e => c.val (k - 1) e)
  | .gather => if c.opcode = 0x61 then es.map (fun e => (s.collOut x c e).1) else es.map (fun e => s.collLoad x e)

/-- Elements that this member finishes itself, and so puts into `DST` before a gather pass: the range it reduced, or its
own source. -/
def collSeed (x : CollCtx) (c : Coll) : List Nat :=
  let (d0, dn) := x.j.dstRange c.opcode c.p x.size
  let inDst := fun e => decide (d0 ≤ e) && decide (e < d0 + dn)
  let last := x.plan.getD x.lastReduce noPass
  if c.opcode = 0x62 then
    let axes := x.j.axes c.p.dims
    let place := axes.foldl (fun b a => b * x.j.ringSize a + x.j.coord x.j.rank a) 0
    (List.range x.size).map (place * x.size + ·)
  else if c.opcode = 0x63 then
    if (x.j.axes c.p.dims).all (fun a => x.j.coord x.j.rank a == x.j.coord c.p.root a) then List.range x.size else []
  else
    let chunk := if last.chunks = 1 then 0 else (last.r + 1) % max 1 last.n
    if last.chunks = 1 && last.r + 1 ≠ last.n then []
    else let (lo, n) := last.range chunk; ((List.range n).map (lo + ·)).filter (fun e => c.opcode == 0x60 || inDst e)

/-- amax of values that this member finishes (R50). -/
def State.collAmax (s : State) (x : CollCtx) (c : Coll) (es : List Nat) : Nat :=
  es.foldl (fun m e =>
    let v := if c.opcode = 0x60 || c.opcode = 0x61 then carryNum x.wide (c.val x.lastReduce e)
      else accNum (s.collTerm x (e % max 1 x.size))
    max m (amaxCode v)) 0

/-- The finisher's conversion before the delivery starts (R298, R306): flags, amax, and its own part of `DST`. -/
def State.collConvert (s : State) (x : CollCtx) (job seq : Nat) : State :=
  let c := s.coll job seq
  let last := x.plan.getD x.lastReduce noPass
  let finished := if c.opcode = 0x61 then
      (if last.chunks = 1 && last.r + 1 ≠ last.n then []
       else let (lo, n) := last.range (if last.chunks = 1 then 0 else (last.r + 1) % max 1 last.n); (List.range n).map (lo + ·))
    else collSeed x c
  let c := { c with amax := max c.amax (s.collAmax x c finished) }
  let flags := finished.foldl (fun f e => nfOr f (s.collOut x c e).2) 0
  let es := (collSeed x c).map (fun e => (e, (s.collOut x c e).1))
  let s := s.putColl { c with flags := nfOr c.flags flags }
  -- the finisher of REDUCE_SCATTER keeps a part only where the pass has no hop to make
  if c.opcode = 0x61 && x.plan.any (fun p => p.kind != .reduce) && !(last.chunks = 1) then s else s.collStore x es

/-- Elements of a pass that have come. -/
def Coll.got (c : Coll) (p : CollPass) : Nat :=
  ((c.seen.filter (fun y => y.1 == p.step && p.incoming.contains y.2.1)).map (fun y => y.2.2.2)).foldl (· + ·) 0

def CollPass.due (p : CollPass) : Nat := (p.incoming.map (fun c => (p.range c).2)).foldl (· + ·) 0

/-- The Sump reads a tensor's rows. -/
def State.readTensor (s : State) (t : Tensor) : State :=
  if t.p.space = 3 then s
  else (List.range t.p.rows).foldl (fun s r =>
    s.readRange none clsCollective false (t.p.base + r * t.p.rowStride) (t.p.cols * fmtBytes t.stored)) s

/-- Begins pass k: credits for two pieces go to the predecessor, and the member's own pieces wait for credits (R305). -/
def State.collBegin (s : State) (x : CollCtx) (job seq k : Nat) (p : CollPass) : State :=
  -- the member's source is read as it begins (R224)
  let s := if k = 0 then s.readTensor x.src else s
  let s := if p.kind ≠ .reduce && k = (x.plan.filter (fun q => q.kind == .reduce)).length then s.collConvert x job seq else s
  let c := s.coll job seq
  let pieces := p.own.flatMap (fun ch => x.cut c p ch (s.collOwn x c k p ch) false)
  -- a ring of one member finishes its chunk at once
  let c := if p.kind = .reduce && p.n = 1 then
      p.own.foldl (fun c ch => let (lo, _) := p.range ch
        ((s.collOwn x c k p ch).zipIdx).foldl (fun c y => c.setVal k (lo + y.2) y.1) c) c
    else c
  let s := s.putColl { c with begun := k + 1, out := c.out ++ (if p.n = 1 then [] else pieces) }
  if p.incoming.isEmpty then s else s.sendColl x.j (x.j.member p.axis p.prev) 5 p.step 0 seq 0 0 2 0 []

/-- DONEs that come back to this member (R296). -/
def CollCtx.donesDue (x : CollCtx) : Nat :=
  ((x.plan.filter (fun p => p.kind == .gather)).map (fun p => p.own.length)).foldl (· + ·) 0

/-- The member has what R306 asks for. -/
def Coll.complete (c : Coll) (x : CollCtx) : Bool :=
  decide (0 < c.granted) && decide (x.plan.length ≤ c.begun) && c.out.isEmpty && decide (x.donesDue ≤ c.dones) &&
    x.plan.all (fun p => decide (p.due ≤ c.got p))

/-- `OK` (R306): the claims return, the amax is recorded. -/
def State.collOk (s : State) (x : CollCtx) (c : Coll) : State :=
  let axis := match x.plan with | p :: _ => p.axis | [] => (x.j.axes c.p.dims).headD 0
  let s := if x.plan.any (fun p => p.kind != .reduce) then s else s.collConvert x c.job c.seq
  let c := s.coll c.job c.seq
  let s := s.modTensor c.job c.p.dst (fun t =>
    { t with hist := t.hist ++ [c.amax], scale := t.outScale x.vDst c.amax, saveScale := t.outSaveScale c.amax })
  let s := s.modJob c.job (fun j => { j with poolFree := j.poolFree + c.granted })
  let s := { s with colls := s.colls.filter (fun y => !(y.job == c.job && y.seq == c.seq)) }
  let s := s.bump .modCollDone 0 1
  match c.cmd with
  | some h => s.finish h { result := c.pieceBytes x.j axis / 1024 + x.j.rank * 2 ^ 32, numFlags := c.flags }
  | none => s

/-- Goes on with a collective: the next pass begins once the one before has ended and its ring's CLAIMs are held, pieces
leave against credits, and the command completes (R303 to R306). -/
def State.collAdvance (s : State) (job seq : Nat) : Nat → State
  | 0 => s
  | fuel + 1 =>
    let c := s.coll job seq
    match s.collCtx c with
    | none => s
    | some x =>
      if c.stopped || c.cmd.isNone || c.granted = 0 then s
      else
        let before := match c.begun with
          | 0 => true
          | k + 1 => match x.plan[k]? with | some p => decide (p.due ≤ c.got p) | none => true
        match x.plan[c.begun]? with
        | some p =>
          if before && c.ringReady x.j p.axis then
            ((s.collBegin x job seq c.begun p).collFlush x job seq).collAdvance job seq fuel
          else s.collFlush x job seq
        | none =>
          let s := s.collFlush x job seq
          if (s.coll job seq).complete x then s.collOk x (s.coll job seq) else s

/-! ### Commands (R296 to R302) -/

/-- Largest bytes of a chunk over the passes, at the carry or the `DST` width (R302). -/
def CollCtx.largest (x : CollCtx) : Nat :=
  (x.plan.map (fun p => (x.wire p).1 * ((List.range p.chunks).map (fun c => (p.range c).2)).foldl max 0)).foldl max 0

/-- Collectives of a job that have been received are in order up to the next expected value (R299). -/
def State.collReceive (s : State) (job : Nat) : Nat → State
  | 0 => s
  | fuel + 1 =>
    match s.job? job with
    | none => s
    | some j =>
      match s.coll? job j.nextColl with
      | some c =>
        if c.arrived then
          (s.modJob job (fun j => { j with nextColl := j.nextColl + 1 })).collReceive job fuel
        else s
      | none => s

/-- The view of a collective's source; an unknown tensor has been refused before. -/
def State.collSource (s : State) (job id : Nat) : Except RdErr View :=
  match s.tensor? job id with
  | some t => t.view s .plain 0
  | none => .error (.addr 0)

/-- A source element that is marked as poisoned. -/
def State.collPoison (s : State) (v : View) : Bool :=
  (List.range v.rEnd).any (fun r => (List.range v.cEnd).any (fun c =>
    match v.read1 s r c with | .ok e => e.poisoned | .error _ => false))

/-- The checks of a collective's parameters (R48, R209, R261, R293, R296). -/
def State.collChecks (s : State) (h : Cmd) (opcode : Nat) (p : CollParams) : List Check :=
  match s.jobOf h with
  | none => [check false stNoJob 0]
  | some j =>
    let src := s.tensor? j.id p.src
    let dst := s.tensor? j.id p.dst
    let ok := fun (t : Option Tensor) => match t with | some t => t.stored != fmtSpill | none => false
    let scaled := fun (t : Option Tensor) => match t with
      | some t => match t.view s .plain 0 with | .ok v => scaleOk (t.scaleIn v) | .error _ => true
      | none => true
    let room := match src, dst with
      | some a, some b => decide ((j.dstRange opcode p (a.p.rows * a.p.cols)).2 ≤ b.p.rows * b.p.cols)
      | _, _ => true
    let indexed := match src, dst with
      | some a, some b => p.rnd != 2 || decide (b.p.idxBase + (j.dstRange opcode p (a.p.rows * a.p.cols)).2 ≤ 2 ^ 56)
      | _, _ => true
    [s.jobCheck h, s.param h (decide (0 < j.ranks.length)) 0, s.param h (ok src) 8, s.param h (ok dst) 12,
     check (decide (p.dims < 8)) stReserved (s.at h 16), s.param h (decide (0 < p.dims)) 16, s.param h (decide (p.reduce ≤ 1)) 17,
     s.param h (decide (p.rnd ≤ 2)) 18, s.param h (opcode != 0x63 || decide (p.root < j.ranks.length)) 20,
     s.param h room 12, check indexed stIndexRange addrDetail, check (scaled src) stBadScale p.src, check (scaled dst) stBadScale p.dst]

/-- A collective starts (R296, R299, R300, R302): its sequence number, then the claim queue. -/
def State.collective (s : State) (h : Cmd) (opcode : Nat) (p : CollParams) : Out :=
  if !s.ready h then .next s
  else
    match firstBad (s.collChecks h opcode p) with
    | some (st, d) => .next (s.fail h st d)
    | none =>
      match s.jobOf h with
      | none => .next (s.fail h stNoJob 0)
      | some j =>
        let c := s.coll j.id p.collSeq
        if p.collSeq < j.nextColl || c.arrived then .next (s.fail h stCollSeq (j.nextColl % 2 ^ 32))
        else
          match s.collSource j.id p.src with
          | .error e => .next (s.rdStop h opcode e)
          | .ok v =>
            let s := s.hold h opcode []
            let c := { c with cmd := some h, arrived := true, opcode := opcode, p := p, queuedTs := s.now
                              lastTs := if c.stopped then c.lastTs else (s.entry h).acceptTs }
            let s := (s.putColl c).collReceive j.id ((s.colls.length) + 2)
            if c.stopped then
              -- an abort that came before the command (R308)
              match c.stored with
              | some n => .next ((s.putColl { c with cmd := none }).fail h stCollAbort n)
              | none => .next s
            else if s.collPoison v then
              -- the mirror or the peer first (R342)
              let s := ((s.refetchTensors j.id [p.src]).restoreMarks 0 (2 ^ 42)).markRecovered h
              .next (if s.collPoison v then s.collDetect j p.collSeq 4 0xFF j.rank else s)
            else .next s

/-- ALL_REDUCE (R296). -/
def execAllReduce (h : Cmd) (p : CollParams) (s : State) : Out := s.collective h 0x60 p

/-- REDUCE_SCATTER (R296). -/
def execReduceScatter (h : Cmd) (p : CollParams) (s : State) : Out := s.collective h 0x61 p

/-- ALL_GATHER (R296). -/
def execAllGather (h : Cmd) (p : CollParams) (s : State) : Out := s.collective h 0x62 p

/-- BROADCAST (R296). -/
def execBroadcast (h : Cmd) (p : CollParams) (s : State) : Out := s.collective h 0x63 p

/-- The head of a job's claim queue (R302). -/
def State.claimHead (s : State) (j : Job) : Option Coll :=
  (s.colls.filter (fun c => c.job == j.id && c.cmd.isSome && c.granted == 0 && !c.stopped && decide (c.seq < j.nextColl))).foldl
    (fun best c => match best with | none => some c | some b => if c.seq < b.seq then some c else some b) none

/-- Every member of each ring that the collective uses, once. -/
def CollCtx.ringRanks (x : CollCtx) (c : Coll) : List Nat :=
  ((x.j.axes c.p.dims).flatMap x.j.ring).eraseDups

/-- CLAIM_GRANT (R302, R303). -/
def execClaimGrant (job : Nat) (s : State) : Out :=
  match s.job? job with
  | none => .next s
  | some j =>
    match s.claimHead j with
    | none => .next s
    | some c =>
      match s.collCtx c with
      | none => .next s
      | some x =>
        let want := max 1 (min j.claimMax (ceilDiv (2 * x.largest) 0x10000))
        let give := if want ≤ j.poolFree then want else if 8 ≤ j.poolFree then j.poolFree else 0
        if give = 0 then .next s
        else
          let s := s.modJob job (fun j => { j with poolFree := j.poolFree - give })
          let s := s.bump .modClaimWaitUs 0 ((s.now - c.queuedTs) / 2000)
          let s := (s.putColl { c with granted := give, claims := (j.rank, give) :: c.claims }).log 3 0 0x0202
            (bytesLE 8 c.seq ++ bytesLE 4 give)
          let s := s.collProgress job c.seq
          let s := (x.ringRanks c).foldl (fun s r =>
            s.sendColl j r 1 ((x.j.axes c.p.dims).headD 0) 0 c.seq 0 0 give 0 (bytesLE 4 j.mapCrc)) s
          .next (s.collAdvance job c.seq (x.plan.length + 2))

/-! ### Packets (R303 to R308) -/

/-- Fuel for the passes of a collective: at most three axes twice, and the end. -/
def collFuel : Nat := 10

/-- A packet of a collective that this member may take: well formed, of a known job, and not of a stopped collective. -/
def State.collTakes (s : State) (k : CollPacket) (f : Job → Coll → State) : Out :=
  if k.malformed then .next s.collProto
  else
    match s.collJob k with
    | none => .next s
    | some j =>
      let c := s.coll j.id k.collSeq
      if c.stopped || (c.cmd.isNone && decide (k.collSeq < j.nextColl)) then .next s else .next (f j c)

/-- CLAIM (R303): held; a CRC of another rank map aborts with reason 3. -/
def execClaim (k : CollPacket) (s : State) : Out :=
  s.collTakes k (fun j c =>
    let rank := j.ranks.idxOf k.src
    if natLE (k.payload.take 4) ≠ j.mapCrc then s.collDetect j k.collSeq 3 0xFF rank
    else
      let s := s.putColl { c with claims := (rank, k.count) :: c.claims.filter (fun y => !(y.1 == rank)) }
      (s.collProgress j.id k.collSeq).collAdvance j.id k.collSeq collFuel)

/-- The pass that a piece belongs to: of its step, already begun, and with its chunk still to come. -/
def CollCtx.passOf (x : CollCtx) (c : Coll) (step chunk : Nat) : Option (Nat × CollPass) :=
  ((x.plan.take c.begun).zipIdx.find? (fun p => p.1.step == step && p.1.incoming.contains chunk)).map (fun p => (p.2, p.1))

/-- The codes of a payload. -/
def wireCodes (eb : Nat) (payload : List Byte) : List Nat :=
  (List.range (payload.length / max 1 eb)).map (fun i => fieldLE payload (i * eb) eb)

/-- PIECE (R298, R305): a new packet is added to or stored; a complete piece goes on. -/
def execPiece (k : CollPacket) (s : State) : Out :=
  s.collTakes k (fun j c =>
    match s.collCtx c with
    | none => s
    | some x =>
      match x.passOf c k.step k.chunk with
      | none => s
      | some (i, p) =>
        if c.seen.any (fun y => y.1 == k.step && y.2.1 == k.chunk && y.2.2.1 == k.elemOffset) then s.bump .modCollDupDrops 0 1
        else
          let (lo, n) := p.range k.chunk
          let codes := (wireCodes (x.wire p).1 k.payload).take (n - k.elemOffset)
          let at' := fun o => lo + k.elemOffset + o
          let new := codes.zipIdx.map (fun y =>
            (k.elemOffset + y.2, if p.kind = .reduce then carryStep x.strict x.wide c.p.reduce y.1 (s.collInput x c i (at' y.2)) else y.1))
          let c := { c with seen := (k.step, k.chunk, k.elemOffset, codes.length) :: c.seen
                            parts := c.parts ++ new.map (fun y => (k.step, k.chunk, y.1, y.2)) }
          let ends := p.finish k.chunk == p.r
          -- complete values of a reduce pass, and of a hop on its way
          let c := if (p.kind = .reduce && ends) || p.kind = .hop then new.foldl (fun c y => c.setVal i (lo + y.1) y.2) c else c
          let (d0, dn) := j.dstRange c.opcode c.p x.size
          let lastHop := p.kind = .hop && i + 1 = x.plan.length
          let s := s.putColl c
          let s := if p.kind = .gather || lastHop then
              s.collStore x ((new.map (fun y => (lo + y.1, y.2))).filter (fun y => decide (d0 ≤ y.1) && decide (y.1 < d0 + dn)))
            else s
          let s := s.collProgress j.id k.collSeq
          -- the piece, once all of its packets have come
          let pe := x.pieceElems c p
          let idx := k.elemOffset / pe
          let inPiece := fun o => decide (idx * pe ≤ o) && decide (o < (idx + 1) * pe)
          let here := (c.seen.filter (fun y => y.1 == k.step && y.2.1 == k.chunk && inPiece y.2.2.1)).map (fun y => y.2.2.2)
          if here.foldl (· + ·) 0 < min pe (n - idx * pe) then s.collAdvance j.id k.collSeq collFuel
          else
            let mine := c.parts.filter (fun y => y.1 == k.step && y.2.1 == k.chunk && inPiece y.2.2.1)
            let sorted := (mine.map (fun y => (y.2.2.1, y.2.2.2))).foldl (fun (t : Tbl (Option Nat)) y => tset none t y.1 (some y.2)) []
            let codes := sorted.map (fun y => y.2.getD 0)
            let c := s.coll j.id k.collSeq
            let c := { c with parts := c.parts.filter (fun y => !(y.1 == k.step && y.2.1 == k.chunk && inPiece y.2.2.1)) }
            let out : OutPiece := { step := k.step, chunk := k.chunk, index := idx, offset := idx * pe
                                    bytes := codes.flatMap (bytesLE (x.wire p).1), relay := true }
            let s := ((s.putColl (if ends then c else { c with out := c.out ++ [out] })).bump .modCollPieces 0 1).log 3 0 0x0201
              (bytesLE 8 k.collSeq ++ bytesLE 1 k.step ++ [0, 0, 0] ++ bytesLE 4 k.chunk ++ bytesLE 4 idx) (some k.ts)
            let s := if ends then s.sendColl j (j.member p.axis p.prev) 5 k.step 0 k.collSeq 0 0 1 0 [] else s
            -- the last receiver of a chunk closes the circle
            let got := ((c.seen.filter (fun y => y.1 == k.step && y.2.1 == k.chunk)).map (fun y => y.2.2.2)).foldl (· + ·) 0
            let s := if p.kind = .gather && ends && decide (n ≤ got) then
                s.sendColl j (j.member p.axis (p.start k.chunk)) 3 k.step k.chunk k.collSeq 0 0 0 0 []
              else s
            s.collAdvance j.id k.collSeq collFuel)

/-- CREDIT (R305). -/
def execCredit (k : CollPacket) (s : State) : Out :=
  s.collTakes k (fun j c =>
    let n := ((c.credits.find? (fun y => y.1 == k.step)).map (·.2)).getD 0
    let s := s.putColl { c with credits := (k.step, n + k.count) :: c.credits.filter (fun y => !(y.1 == k.step)) }
    (s.collProgress j.id k.collSeq).collAdvance j.id k.collSeq collFuel)

/-- DONE (R296, R306). -/
def execDone (k : CollPacket) (s : State) : Out :=
  s.collTakes k (fun j c =>
    ((s.putColl { c with dones := c.dones + 1 }).collProgress j.id k.collSeq).collAdvance j.id k.collSeq collFuel)

/-- ABORT (R308): the collective stops at once; the smallest record seen is kept until it is stored. -/
def execAbortPacket (k : CollPacket) (s : State) : Out :=
  if k.malformed then .next s.collProto
  else
    match s.collJob k with
    | none => .next s
    | some j =>
      let c := s.coll j.id k.collSeq
      if c.stored.isSome || (c.cmd.isNone && !c.stopped && decide (k.collSeq < j.nextColl)) then .next s
      else .next (s.collStop j.id k.collSeq (padTo 64 (k.payload.take 64)))

/-- The first member found late (R307): in the claims the lowest rank whose CLAIM is missing, in a pass the predecessor. -/
def State.collLate (s : State) (j : Job) (c : Coll) : Nat × Nat :=
  let missing := fun (rs : List Nat) => rs.filter (fun r => !c.claims.any (fun y => y.1 == r))
  let low := fun (rs : List Nat) => rs.foldl min (rs.headD j.rank)
  match s.collCtx c with
  | some x =>
    match x.plan[c.begun - 1]? with
    | some p => if 0 < c.begun && missing (j.ring p.axis) = [] then (p.step, j.member p.axis p.prev) else (0xFF, low (missing (x.ringRanks c)))
    | none => (0xFF, low (missing (x.ringRanks c)))
  | none => (0xFF, low (missing (List.range j.ranks.length)))

/-- COLL_PROGRESS_TIMEOUT (R307): timed from the fetch; `COLL_TIMEOUT_US` 0 is treated as 1. -/
def execCollProgressTimeout (job collSeq : Nat) (s : State) : Out :=
  match s.job? job with
  | none => .next s
  | some j =>
    let limit := 2000 * max 1 (s.reg .modCollTimeoutUs 0)
    -- a collective that is fetched and has not started yet is timed from its fetch
    let fetched := s.outstanding.find? (fun (o : Outstanding) =>
      opColl o.opcode && o.jobId == job && fieldLE o.params 0 8 == collSeq)
    let c : Option Coll := match s.coll? job collSeq with
      | some c => some c
      | none => fetched.map (fun o => { job := job, seq := collSeq, lastTs := o.acceptTs })
    match c with
    | none => .next s
    | some c =>
      if c.stopped || (c.cmd.isNone && fetched.isNone) || s.now < c.lastTs + limit then .next s
      else
        let (step, late) := s.collLate j c
        .next ((s.putColl c).collDetect j collSeq 1 step late)

/-- The late member of an abort is probed (R351). -/
def State.probeLate (s : State) (c : Coll) (r : List Byte) : State :=
  let late := fieldLE r 16 4
  match s.job? c.job with
  | some j =>
    if late = j.rank || j.ranks.length ≤ late || j.loss.isSome then s
    else
      let others := s.probes.filter (fun (x : Probe) => !(x.job == c.job && x.rank == late))
      let s := { s with probes := others ++ [(⟨c.job, late, s.now⟩ : Probe)] }
      s.sendMgmt (j.ranks.getD late 0) j.tag 1 c.job []
  | none => s

/-- ABORT_COMPLETION (R308, R351): at the record's `DETECT_TS` + 250 µs. -/
def execAbortCompletion (job collSeq : Nat) (s : State) : Out :=
  match s.coll? job collSeq with
  | none => .next s
  | some c =>
    match c.record, c.stored with
    | some r, none => if s.now < fieldLE r 32 8 + 500000 then .next s else .next ((s.collAborted c r).probeLate c r)
    | _, _ => .next s

end Sys2Proof.Machine
end

