-- ==== Sys2Proof/Machine/Queue.lean ====
section
/-!
DEFINITION. Submission and status rings, dependencies, cancel and timeout (R245 to R258, R401, R406, R407).
-/
namespace Sys2Proof.Machine

/-! ### Packets (R249, R251) -/

/-- Slots of a submission ring and entries of a status ring (R245). -/
def Queue.slots (q : Queue) : Nat := 2 ^ q.sqLog2
def Queue.entries (q : Queue) : Nat := 2 ^ q.stqLog2

/-- Bytes of n slots from the head, which may wrap (R246). -/
def State.slotBytes (s : State) (q : Queue) (n : Nat) : List Byte :=
  (List.range n).flatMap (fun i => s.hostBytes (q.sqBase + 64 * ((q.head + i) % q.slots)) 64)

/-- Slots between the head and the tail. -/
def Queue.waiting (q : Queue) : Nat := (q.tail + q.slots - q.head % q.slots) % q.slots

/-- The header of a packet (R249). -/
structure Header where
  format : Nat
  pktSlots : Nat
  opcode : Nat
  seq : Nat
  depCount : Nat
  flags : Nat
  paramLen : Nat
  jobId : Nat
  issueTs : Nat
  timeoutUs : Nat
deriving DecidableEq, Repr

def headerOf (bs : List Byte) : Header :=
  { format := fieldLE bs 0 1, pktSlots := fieldLE bs 1 1, opcode := fieldLE bs 2 2, seq := fieldLE bs 4 4
    depCount := fieldLE bs 8 1, flags := fieldLE bs 9 1, paramLen := fieldLE bs 10 2, jobId := fieldLE bs 12 4
    issueTs := fieldLE bs 16 8, timeoutUs := fieldLE bs 24 4 }

def Header.paramOff (h : Header) : Nat := 32 + 16 * h.depCount
def Header.length (h : Header) : Nat := h.paramOff + h.paramLen

/-- Slots that a packet takes; a count out of range takes one (log 23). -/
def Header.takes (h : Header) : Nat := if 1 ≤ h.pktSlots && h.pktSlots ≤ 16 then h.pktSlots else 1

/-- A dependency entry (R251). -/
def depOf (bs : List Byte) : Dep :=
  { kind := fieldLE bs 0 1, queue := fieldLE bs 1 1, seq := fieldLE bs 4 4, addr := fieldLE bs 2 6, target := fieldLE bs 8 8 }

/-- Parameter bytes that an opcode needs, and the ranges of its named ones (R260, R261). What lies outside them is
reserved. -/
def opLayout : Nat → Nat × List (Nat × Nat)
  | 0x01 => (8, [(0, 8)]) | 0x02 => (29, [(0, 29)]) | 0x03 => (2, [(0, 2)]) | 0x04 => (8, [(0, 1), (4, 4)])
  | 0x10 => (36, [(0, 36)]) | 0x12 => (40, [(0, 4), (8, 32)])
  | 0x20 => (10, [(0, 10)]) | 0x21 => (8, [(0, 8)]) | 0x22 => (8, [(0, 65536)]) | 0x23 => (24, [(0, 12), (16, 8)])
  | 0x24 => (24, [(0, 24)]) | 0x25 => (16, [(0, 15), (16, 65536)])
  | 0x30 => (56, [(0, 56)]) | 0x31 => (4, [(0, 4)]) | 0x32 => (8, [(0, 8)])
  | 0x40 => (136, [(0, 15), (16, 6), (24, 45), (72, 64)]) | 0x41 => (36, [(0, 36)])
  | 0x42 => (128, [(0, 43), (44, 84)]) | 0x43 => (24, [(0, 14), (16, 65536)]) | 0x44 => (9, [(0, 9)])
  | 0x45 => (80, [(0, 21), (24, 36), (64, 16)]) | 0x46 => (16, [(0, 3), (8, 8)])
  | 0x50 => (56, [(0, 20), (24, 26), (52, 4)]) | 0x51 => (16, [(0, 16)])
  | 0x60 => (32, [(0, 19), (20, 12)]) | 0x61 => (32, [(0, 19), (20, 12)]) | 0x62 => (32, [(0, 19), (20, 12)])
  | 0x63 => (32, [(0, 19), (20, 12)])
  | 0x70 => (1, [(0, 1)]) | 0x71 => (4, [(0, 4)]) | 0x72 => (8, [(0, 6), (8, 65536)]) | 0x73 => (40, [(0, 40)])
  | 0x74 => (16, [(0, 4), (8, 8)]) | 0x75 => (16, [(8, 8)]) | 0x76 => (24, [(0, 12), (16, 8)])
  | 0x77 => (136, [(0, 1), (8, 128)]) | 0x78 => (5, [(0, 5)]) | 0x79 => (8, [(0, 8)]) | 0x7A => (1, [(0, 65536)])
  | _ => (0, [])

/-- Fields that format 0x02 reserves in ATTEND (R263): `KEY_SEG`, `BUCKETS`, `EDGES`. -/
def reserved2 (opcode i : Nat) : Bool :=
  opcode == 0x42 && ((decide (28 ≤ i) && decide (i < 32)) || i == 42 || (decide (64 ≤ i) && decide (i < 128)))

/-- Bits of a named parameter byte that are outside its field (R10, R261): `DST_MODULE` [31:18] and `DIMS` [7:3]. -/
def reservedBits (opcode i : Nat) : Nat :=
  if opcode = 0x50 then (if i = 18 then 0xFC else if i = 19 then 0xFF else 0)
  else if opColl opcode && i == 16 then 0xF8 else 0

/-- The offset of the first parameter byte with a reserved bit that is not zero. -/
def badReserved (format opcode : Nat) (params : List Byte) : Option Nat :=
  (List.range params.length).find? (fun i =>
    params.getD i 0 != 0 &&
      (!(opLayout opcode).2.any (fun r => decide (r.1 ≤ i) && decide (i < r.1 + r.2)) || (format == 2 && reserved2 opcode i) ||
        (params.getD i 0).toNat &&& reservedBits opcode i != 0))

/-- The checks of one dependency entry at offset `off` of the packet (R251, R263). -/
def depChecks (format off : Nat) (bs : List Byte) : List Check :=
  let d := depOf bs
  let zero := fun lo n => zeroLE bs lo n
  [check (decide (d.kind ≤ 2) && (d.kind != 2 || format != 2)) stReserved off] ++
    (if d.kind = 2 then [check (zero 1 1) stReserved (off + 1), check (decide (d.target < 2 ^ 48)) stBadParam (off + 8)]
     else [check (decide (d.queue < 64)) stBadParam (off + 1), check (zero 2 2) stReserved (off + 2),
           check (zero 8 8) stReserved (off + 8)])

/-- The format that `DETAIL` of `BAD_FORMAT` names: the queue's; the admin queue takes either (R259, R263; log 23). -/
def queueFormat (q : Nat) (x : Queue) : Nat := if q = 0 then 3 else x.format

/-- The header checks after the sequence number, in order (R10, R249 to R251, R259, R263, R264; the order is log 23). -/
def State.headerChecks (s : State) (q : Nat) (x : Queue) (h : Header) (bs : List Byte) : List Check :=
  let formatOk := if q = 0 then h.format == 2 || h.format == 3 else h.format == x.format
  let jobFormat := match s.job? h.jobId with | some j => h.jobId == 0 || j.format == h.format | none => true
  let lengthOk := decide (1 ≤ h.pktSlots) && decide (h.pktSlots ≤ 16) && decide (h.depCount ≤ 8) &&
    decide (64 * (h.pktSlots - 1) < h.length) && decide (h.length ≤ 64 * h.pktSlots)
  let tail := (List.range (64 * h.takes - h.length)).find? (fun i => bs.getD (h.length + i) 0 != 0)
  let params := (bs.drop h.paramOff).take h.paramLen
  [check (formatOk && jobFormat) stBadFormat (queueFormat q x),
   check lengthOk stBadLength 0,
   check (decide (h.flags < 16)) stReserved 9,
   check (h.format != 2 || h.issueTs == 0) stReserved 16,
   check (zeroLE bs 28 4) stReserved 28,
   check tail.isNone stReserved (h.length + tail.getD 0),
   check (opKnown h.opcode) stUnknownOpcode h.opcode,
   check (opAdmin h.opcode == (q == 0)) stWrongQueue h.opcode,
   check (!opNoJob h.opcode || h.jobId == 0) stReserved 12] ++
  ((List.range h.depCount).flatMap (fun i => depChecks h.format (32 + 16 * i) ((bs.drop (32 + 16 * i)).take 16))) ++
  [check (decide ((opLayout h.opcode).1 ≤ h.paramLen)) stBadParam (h.paramOff + h.paramLen),
   check (badReserved h.format h.opcode params).isNone stReserved (h.paramOff + (badReserved h.format h.opcode params).getD 0)]

/-! ### Fetch (R246, R248, R250, R256, R401) -/

/-- A CONTEXT_SAVE has stopped the job: its commands stay in their queues, but for JOB_END (R353; log 39). -/
def State.saving (s : State) (job : Nat) : Bool := match s.job? job with | some j => j.saving && !j.ended | none => false

/-- A whole packet waits in an ACTIVE queue that may be fetched from. -/
def State.fetchable (s : State) (q : Nat) : Bool :=
  let x := s.queue q
  let h := headerOf (s.slotBytes x 1)
  x.state == .active && decide (0 < x.waiting) && x.owed == 0 && decide (h.takes ≤ x.waiting) &&
    !(s.saving h.jobId && h.opcode != 0x11)

/-- The queue to fetch from (R246): the admin queue first, then by `PRIORITY`, in round robin within one. -/
def State.arbitrate (s : State) : Option Nat :=
  if s.fetchable 0 then some 0
  else
    [3, 2, 1, 0].findSome? (fun p =>
      let last := tget 0 s.fetchRR p
      let order := (List.range 63).map (fun i => (last + i) % 63 + 1)
      order.find? (fun q => (s.queue q).priority == p && s.fetchable q))

/-- The outstanding entry of a packet. -/
def outstandingOf (s : State) (q : Nat) (h : Header) (bs : List Byte) : Outstanding :=
  { cmd := ⟨q, h.seq⟩, opcode := h.opcode, flags := h.flags, jobId := h.jobId, issueTs := h.issueTs, timeoutUs := h.timeoutUs
    deps := (List.range h.depCount).map (fun i => depOf ((bs.drop (32 + 16 * i)).take 16))
    paramOff := h.paramOff, params := (bs.drop h.paramOff).take h.paramLen, acceptTs := s.now
    unsync := s.reg .modTimeConverged 0 != 1 }

/-- A packet is fetched: the head passes it, and it is refused, cancelled or outstanding. -/
def State.fetch (s : State) (q : Nat) : State :=
  let x := s.queue q
  let h := headerOf (s.slotBytes x 1)
  let bs := s.slotBytes x h.takes
  let o := outstandingOf s q h bs
  let s := s.modQueue q (fun x => { x with head := (x.head + h.takes) % x.slots })
  let s := if q = 0 then s else { s with fetchRR := tset 0 s.fetchRR x.priority q }
  let s := s.log 3 0 0x0001 (cmdPayload o.cmd 0 h.jobId)
  if h.seq ≠ x.nextSeq then
    (s.modQueue q (fun x => { x with state := .error })).reply o { status := stBadSeq, detail := x.nextSeq }
  else
    let s := s.modQueue q (fun x => { x with nextSeq := (x.nextSeq + 1) % 2 ^ 32 })
    match x.cancelled.find? (fun c => c.1 == h.seq) with
    | some c =>
      let s := s.modQueue q (fun x => { x with cancelled := x.cancelled.filter (fun c => !(c.1 == h.seq)) })
      ({ s with outstanding := s.outstanding ++ [o] }).fail o.cmd stCancelled c.2
    | none =>
      match firstBad (s.headerChecks q x h bs) with
      | some (st, d) => s.reply o { status := st, detail := d }
      | none =>
        let s := { s with outstanding := s.outstanding ++ [o] }
        if opChambers h.opcode && s.reg .modPowerState 0 = 1 then s.fail o.cmd stState 1 else s

/-- COMMAND_FETCH (R246): with Bus Master Enable 0 the module fetches nothing (R401). -/
def execCommandFetch (s : State) : Out :=
  if !s.pcie.busMaster || s.outstanding.length ≥ 4096 then .next s
  else
    match s.arbitrate with
    | none => .next s
    | some q =>
      let s := s.fetch q
      -- the admin queue's ERROR shows in BAR0 (R405)
      .next (if q = 0 && (s.queue 0).state == .error then s.flag .pciAqError 0 else s)

/-! ### Start (R252, R253, R254) -/

/-- How a dependency stands. -/
inductive DepState where
  | met
  | waits
  /-- The target has not been fetched. -/
  | future
  | bad (status detail : Nat)
deriving DecidableEq, Repr

/-- A `KIND` 0 or 1 dependency of a command (R251, R253). -/
def State.cmdDep (s : State) (h : Cmd) (i : Nat) (d : Dep) : DepState :=
  let next := (s.queue d.queue).nextSeq
  let range := DepState.bad stDepRange i
  if d.queue = h.queue && !seqBefore d.seq h.seq then range
  else if !seqBefore d.seq next then .future
  else if 65536 < (next + 2 ^ 32 - d.seq) % 2 ^ 32 then range
  else if s.isOut ⟨d.queue, d.seq⟩ then .waits
  else
    match s.outcomes.find? (fun o => o.cmd == ⟨d.queue, d.seq⟩) with
    | none => range
    | some o => if d.kind = 1 || o.status = 0 then .met else .bad stDepFailed (i + o.status * 2 ^ 16)

/-- Any dependency; a counter is one of this module's Gallery memory. -/
def State.depState (s : State) (h : Cmd) (i : Nat) (d : Dep) : DepState :=
  if d.kind = 2 then (if s.count d.addr ≥ d.target then .met else .waits) else s.cmdDep h i d

def State.depStates (s : State) (o : Outstanding) : List DepState := o.deps.zipIdx.map (fun d => s.depState o.cmd d.2 d.1)

def depBad : DepState → Option (Nat × Nat)
  | .bad st d => some (st, d)
  | _ => none

/-- `ORDERED` and `FENCE` (R252): every earlier command of the queue that counts has completed. -/
def State.orderMet (s : State) (o : Outstanding) : Bool :=
  let mine := s.outstanding.filter (fun x => x.cmd.queue == o.cmd.queue)
  (!bit o.flags 0 || !mine.any (fun x => x.cmd.seq == (o.cmd.seq + 2 ^ 32 - 1) % 2 ^ 32)) &&
    (!bit o.flags 1 || !mine.any (fun x => seqBefore x.cmd.seq o.cmd.seq))

/-- Module time has reached `ISSUE_TS`; an issue time and a collective need a converged timebase (R252, R300, R320). -/
def State.timeMet (s : State) (o : Outstanding) : Bool :=
  let conv := s.reg .modTimeConverged 0 == 1
  decide (o.issueTs ≤ s.now) && (o.issueTs == 0 || conv) && (!opColl o.opcode || conv)

/-- What the power state says of a command that needs Chambers (R261, R362, R363). -/
inductive PowerGate where
  | go | wait | refuse
  /-- Firmware moves the module from Ready to Running for it. -/
  | raise
deriving DecidableEq, Repr

def State.powerGate (s : State) (opcode : Nat) : PowerGate :=
  if !opChambers opcode then .go
  else
    let st := s.reg .modPowerState 0
    match s.power.moving with
    | some (t, _) => if t = 1 || st = 1 then .refuse else .wait
    | none => if st = 1 || st = 0 then .refuse else if s.power.hold then .wait else if st = 2 then .raise else .go

/-- The command starts. -/
def State.startCmd (s : State) (o : Outstanding) : State :=
  let s := { s with outstanding := s.outstanding.map (fun (x : Outstanding) => if x.cmd = o.cmd then { x with phase := .started, startTs := s.now, unsync := x.unsync || s.reg .modTimeConverged 0 != 1 } else x) }
  s.log 3 0 0x0002 (cmdPayload o.cmd 0 o.jobId)

/-- COMMAND_START (R252, R253, R363). -/
def execCommandStart (h : Cmd) (s : State) : Out :=
  match s.outstanding.find? (fun o => o.cmd == h) with
  | none => .next s
  | some o =>
    if o.phase ≠ .fetched then .next s
    else
      let deps := s.depStates o
      match deps.findSome? depBad with
      | some (st, d) => .next (s.fail h st d)
      | none =>
        if !deps.all (· == .met) || !s.orderMet o || !s.timeMet o || (s.saving o.jobId && o.opcode != 0x11) then .next s
        else
          match s.powerGate o.opcode with
          | .go => .next (s.startCmd o)
          | .wait => .next s
          | .refuse => .next (s.fail h stState (s.reg .modPowerState 0))
          | .raise => .next { s with power := { s.power with moving := some (3, none) } }

/-- DEP_FUTURE (R253): the target in another queue has not been fetched within 10 ms. -/
def execDepFuture (h : Cmd) (dep : Nat) (s : State) : Out :=
  match s.outstanding.find? (fun o => o.cmd == h) with
  | none => .next s
  | some o =>
    match o.deps[dep]? with
    | none => .next s
    | some d =>
      if o.phase = .fetched && s.depState h dep d == .future && decide (o.acceptTs + 20000000 ≤ s.now) then
        .next (s.fail h stDepFuture dep)
      else .next s

/-! ### Timeouts and cancel (R255, R256) -/

/-- COMMAND_TIMEOUT (R255): a command that has run longer than its limit is stopped as CANCEL stops it. -/
def execCommandTimeout (h : Cmd) (s : State) : Out :=
  match s.outstanding.find? (fun o => o.cmd == h) with
  | none => .next s
  | some o =>
    match limitTicks o.opcode o.timeoutUs with
    | none => .next s
    | some l => if o.phase = .fetched || s.now ≤ o.startTs + l then .next s else .next (s.cancelCommand h stTimeout 0)

/-- COUNTER_DEPENDENCY_TIMEOUT (R255). -/
def execCounterDependencyTimeout (h : Cmd) (s : State) : Out :=
  match s.outstanding.find? (fun o => o.cmd == h) with
  | none => .next s
  | some o =>
    let limit := if opColl o.opcode && o.timeoutUs ≠ 0 then some (2000 * o.timeoutUs) else limitTicks o.opcode o.timeoutUs
    let open' := o.deps.any (fun d => d.kind == 2 && decide (s.count d.addr < d.target))
    match limit with
    | none => .next s
    | some l => if o.phase ≠ .fetched || !open' || s.now ≤ o.acceptTs + l then .next s else .next (s.fail h stTimeout 1)

/-- CANCEL of one outstanding command (R256): a collective that runs aborts on every member (R309). -/
def State.cancelOne (s : State) (h : Cmd) (by' : Nat) : State :=
  match s.colls.find? (fun c => c.cmd == some h) with
  | some c => match s.job? c.job with | some j => s.collCancel j c.seq | none => s.cancelCommand h stCancelled by'
  | none => s.cancelCommand h stCancelled by'

/-- Every command of a queue that has not completed. -/
def State.cancelQueue (s : State) (q by' : Nat) : State :=
  (s.outstanding.filter (fun o => o.cmd.queue == q)).foldl (fun s o => s.cancelOne o.cmd by') s

/-- The result of a CANCEL (R256), and the state after it. -/
def State.cancel (s : State) (h target : Cmd) : Nat × State :=
  match s.outstanding.find? (fun o => o.cmd == target) with
  | some o => if o.phase = .fetched then (0, s.fail target stCancelled h.seq) else (1, s.cancelOne target h.seq)
  | none =>
    if seqBefore target.seq (s.queue target.queue).nextSeq then (2, s)
    else (3, s.modQueue target.queue (fun x => { x with cancelled := (target.seq, h.seq) :: x.cancelled }))

/-! ### Status entries (R248, R257, R258) -/

/-- The 64 bytes of a status entry (R257). -/
def statusBytes (x : Queue) (r : Reply) : List Byte :=
  let phase := if x.stTail / x.entries % 2 = 0 then 1 else 0
  bytesLE 4 r.seq ++ bytesLE 1 (r.queue % 64) ++ bytesLE 1 (r.flags / 2 * 2 + phase) ++ bytesLE 2 r.status ++ bytesLE 4 r.detail ++
    bytesLE 1 r.numFlags ++ bytesLE 1 0 ++ bytesLE 2 x.head ++ bytesLE 8 r.acceptTs ++ bytesLE 8 r.startTs ++ bytesLE 8 r.doneTs ++
    bytesLE 16 r.profile ++ bytesLE 8 r.result

/-- The reply to write next: the earliest `DONE_TS`, then the lowest `CMD_SEQ` (R258). -/
def nextReply (rs : List Reply) : Option Reply :=
  rs.foldl (fun best r =>
    match best with
    | none => some r
    | some b => if r.doneTs < b.doneTs || (r.doneTs = b.doneTs && r.seq < b.seq) then some r else some b) none

/-- A queue that drains is ABSENT once its last reply is written and nothing of it is outstanding (R247, R406). -/
def State.tryAbsent (s : State) (q : Nat) : State :=
  let x := s.queue q
  if x.state ≠ .draining || !x.replies.isEmpty || s.outstanding.any (fun o => o.cmd.queue == q) then s
  else
    -- its outcomes, and the number that its next command would have had, stay until it is created again (R253)
    let s := s.modQueue q (fun x => { nextSeq := x.nextSeq })
    match x.deleting with
    | some h => s.finish h {}
    | none => s

/-- The interrupt of a queue: vector 0 for the admin queue, on every entry (R406), else that of QUEUE_CREATE. -/
def State.queueInterrupt (s : State) (q : Nat) : State :=
  let x := s.queue q
  (s.modQueue q (fun x => { x with unsignalled := 0 })).msix (if q = 0 then 0 else x.msix)

/-- The interrupt that an entry gives at once: admin entries, `NOTIFY`, the count, or no coalescing at all (R258, R406). A
count of 0 sets no count (log 24). -/
def interruptNow (q : Nat) (x : Queue) (r : Reply) : Bool :=
  q == 0 || r.notify || (x.coalesceCount == 0 && x.coalesceUs == 0) ||
    (x.coalesceCount != 0 && decide (x.coalesceCount ≤ x.unsignalled + 1))

/-- The Chamber's error bits that a status stands for (R83, R106, R172, R185, R202, R217, R259). -/
def errorBits (status : Nat) : List Field :=
  if status = stFacetWord then [.chOrderErr, .chBankErr, .chPairErr, .chTagErr]
  else if status = stPageError then pageErrFields
  else if status = stAddressError then [.chAddrErr]
  else if status = stWaitTimeout then [.chWaitTimeout]
  else if status = stGmaskError then [.chGmaskRecErr, .chGmaskRange, .chGmaskBusy]
  else if status = stGeometryError then [.chGeomErr, .chFsErr]
  else if status = stIndexRange then [.chIdxRange]
  else if status = stProgramRefused then [.chAdmitRefused]
  else []

/-- With the status entry of the command that a Chamber's error has ended, the control complex clears the error's bits (R349).
A module-side error names no Chamber. -/
def State.clearErrors (s : State) (status detail : Nat) : State :=
  let c := if status = stProgramRefused then detail / 2 ^ 24 % 256 else bits detail 15 8
  if c = 0xFF then s else (errorBits status).foldl (fun s f => s.put f c 0) s

/-- A reply is written into the status ring. -/
def State.writeReply (s : State) (q : Nat) (r : Reply) : State :=
  let x := s.queue q
  let s := s.hostWrite (x.stqBase + 64 * (x.stTail % x.entries)) (statusBytes x r)
  let s := s.modQueue q (fun x => { x with
    replies := x.replies.erase r
    owed := if x.owed = 1 && decide (256 ≤ (x.replies.erase r).length) then 256 else x.owed - 1, stTail := x.stTail + 1, unsignalled := x.unsignalled + 1
    unsignalledSince := if x.unsignalled = 0 then s.now else x.unsignalledSince })
  let s := if interruptNow q x r then s.queueInterrupt q else s
  (s.clearErrors r.status r.detail).tryAbsent q

/-- STATUS_ENTRY_WRITE (R248, R258, R401). A queue that drains and has no reply to write may become ABSENT (R247). -/
def execStatusEntryWrite (q : Nat) (s : State) : Out :=
  let x := s.queue q
  if !s.pcie.busMaster || x.state = .absent || x.stTail - x.stHead ≥ x.entries then .next s
  else
    match nextReply x.replies with
    | none => .next (s.tryAbsent q)
    | some r => .next (s.writeReply q r)

/-- INTERRUPT_COALESCING (R258): the time since the first entry that no interrupt has told of. -/
def execInterruptCoalescing (q : Nat) (s : State) : Out :=
  let x := s.queue q
  if x.unsignalled = 0 || x.coalesceUs = 0 || s.now < x.unsignalledSince + 2000 * x.coalesceUs then .next s
  else .next (s.queueInterrupt q)

/-! ### Doorbells (R246, R248, R407) -/

/-- A write that BAR0 ignores (R404 to R407). -/
def State.pciIgnored (s : State) : State := s.flag .pciAccessErr 0

/-- A doorbell of a queue that may ring: the queue is not ABSENT and the module is ready (R407). -/
def State.rings (s : State) (q : Nat) : Bool := (s.queue q).state != .absent && s.reg .pciReady 0 == 1

/-- SQ_TAIL (R246): a tail at or beyond the ring size puts an ACTIVE queue into ERROR. -/
def execSqTail (q value : Nat) (s : State) : Out :=
  let v := value % 65536
  let x := s.queue q
  if !s.rings q then .next s.pciIgnored
  else if v < x.slots then .next (s.modQueue q (fun x => { x with tail := v }))
  else if x.state = .active then
    let s := s.modQueue q (fun x => { x with state := .error })
    .next (if q = 0 then s.flag .pciAqError 0 else s)
  else .next s

/-- STQ_HEAD (R248): entries up to the head are free. A value that is not between the head and the tail frees none (log 24). -/
def execStqHead (q value : Nat) (s : State) : Out :=
  let v := value % 65536
  let x := s.queue q
  if !s.rings q then .next s.pciIgnored
  else
    let held := x.stTail - x.stHead
    let d := (v + x.entries - x.stHead % x.entries) % x.entries
    let n := if d = 0 && held = x.entries then x.entries else d
    .next (if v < x.entries && n ≤ held then s.modQueue q (fun x => { x with stHead := x.stHead + n }) else s)

/-! ### The admin queue and the function (R401, R406) -/

/-- AQ_ENABLE (R405, R406): a write of 1 before the end of boot, and a ring that R245 does not allow, are ignored. A
write of 0 leaves a queue that is ACTIVE as it is (log 25). -/
def execAqEnable (value : Nat) (s : State) : Out :=
  let sq := s.reg .pciAqSqLog2 0
  let stq := s.reg .pciAqStqLog2 0
  let ring := fun n => decide (6 ≤ n) && decide (n ≤ 16)
  if value % 2 = 0 then .next (s.put .pciAqEnable 0 0)
  else if s.reg .pciReady 0 = 0 || !ring sq || !ring stq || s.reg .pciAqSqBase 0 % 4096 ≠ 0 || s.reg .pciAqStqBase 0 % 4096 ≠ 0 then
    .next s.pciIgnored
  else
    let s := s.put .pciAqEnable 0 1
    if (s.queue 0).state ≠ .absent then .next s
    else
      let x : Queue := { state := .active, sqLog2 := sq, stqLog2 := stq, sqBase := s.reg .pciAqSqBase 0, stqBase := s.reg .pciAqStqBase 0 }
      let s := { s with outcomes := s.outcomes.filter (fun o => !(o.cmd.queue == 0)) }
      .next ((s.modQueue 0 (fun _ => x)).put .pciAqReady 0 1)

/-- The queue q becomes ABSENT without a word: what is outstanding is cancelled and no status entry is written (R406,
R409). -/
def State.silence (s : State) (q : Nat) : State :=
  let s := s.modQueue q (fun x => if x.state = .absent then x else { x with state := .draining, silent := true, replies := [] })
  (s.cancelQueue q 0).tryAbsent q

/-- AQ_RESET (R406). -/
def execAqReset (s : State) : Out :=
  .next ((((s.silence 0).put .pciAqEnable 0 0).put .pciAqReady 0 0).put .pciAqError 0 0)

/-- A report that was signed while the function could not master is written and its command completes (R394, R401). -/
def State.sendReports (s : State) : State :=
  s.keys.unsent.foldl (fun s x => if s.isOut x.1 then (s.hostWrite x.2.1 x.2.2).finish x.1 {} else s)
    { s with keys := { s.keys with unsent := [] } }

/-- BUS_MASTER_ENABLE (R401): messages that wait in the PBA leave once the function may master (R401, R408). -/
def execBusMasterEnable (value : Bool) (s : State) : Out :=
  let s := { s with pcie := { s.pcie with busMaster := value } }
  let s := if value then s.sendReports else s
  let go := if value then s.pcie.pba.filter (fun v => s.reg .pciMsixMask 0 v == 0) else []
  let s := { s with pcie := { s.pcie with pba := s.pcie.pba.filter (fun v => !go.contains v) } }
  .next (go.foldl (fun s v => s.send (.msix v)) s)

end Sys2Proof.Machine
end

