-- ==== Sys2Proof/Machine/MemCmds.lean ====
section
/-!
DEFINITION. Admin, memory and tensor commands: queues, cancel, allocation, reads and writes of module memory, page tables,
tensors and the direct add to a counter (R102, R154 to R157, R238, R245 to R256, R260, R261).
-/
namespace Sys2Proof.Machine

/-! ### Admin (R245, R247, R256, R260, R263) -/

/-- Checks of QUEUE_CREATE (R245, R260, R263). -/
def State.queueChecks (s : State) (h : Cmd) (p : QueueParams) : List Check :=
  [s.param h (decide (1 ≤ p.queueId) && decide (p.queueId ≤ 63) && (s.queue p.queueId).state == .absent) 0,
   s.param h (decide (p.priority ≤ 3)) 1,
   check (decide (p.fmtMin ≤ 3) && decide (2 ≤ p.fmtMax) && decide (p.fmtMin ≤ p.fmtMax)) stVersionFormat 3,
   s.param h (decide (6 ≤ p.sqLog2) && decide (p.sqLog2 ≤ 16)) 4, s.param h (decide (6 ≤ p.stqLog2) && decide (p.stqLog2 ≤ 16)) 5,
   s.param h (decide (p.msix < 64)) 6, s.param h (p.sqBase % 4096 == 0) 8, s.param h (p.stqBase % 4096 == 0) 16,
   check (decide (s.reg .pciFwIfMin 0 ≤ p.fwIf) && decide (p.fwIf ≤ s.reg .pciFwIfMax 0)) stVersionFwIf (s.reg .pciFwIfMax 0)]

/-- QUEUE_CREATE: the queue is ACTIVE in the highest common format (R247, R260, R263); its number's outcomes are new (R253). -/
def execQueueCreate (h : Cmd) (p : QueueParams) (s : State) : Out :=
  let fmt := min p.fmtMax 3
  let x : Queue := { state := .active, priority := p.priority, format := fmt, sqLog2 := p.sqLog2, stqLog2 := p.stqLog2, msix := p.msix
                     sqBase := p.sqBase, stqBase := p.stqBase, coalesceCount := p.coalesceCount, coalesceUs := p.coalesceUs, fwIf := p.fwIf }
  let s1 := { s with outcomes := s.outcomes.filter (fun o => !(o.cmd.queue == p.queueId)) }
  s.run h (s.queueChecks h p) ((s1.modQueue p.queueId (fun _ => x)).ok h fmt)

/-- QUEUE_DELETE (R247, R256, R260): DRAINING, in cancel mode with every command cancelled; it completes once the queue is
ABSENT. -/
def execQueueDelete (h : Cmd) (queueId mode : Nat) (s : State) : Out :=
  let st := (s.queue queueId).state
  let mine := (s.queue queueId).deleting == some h
  let checks := [s.param h (decide (1 ≤ queueId) && decide (queueId ≤ 63) && (st == .active || st == .error || mine)) 0,
                 s.param h (decide (mode ≤ 1)) 1]
  let s1 := s.modQueue queueId (fun x => { x with state := .draining, deleting := some h })
  let s2 := if mode = 1 && !mine then s1.cancelQueue queueId h.seq else s1
  s.run h checks ((if s2.isOut h then s2 else s2.hold h 0x03 []).tryAbsent queueId)

/-- CANCEL (R256). One that names itself is stopped as a command that runs. -/
def execCancel (h : Cmd) (queueId seq : Nat) (s : State) : Out :=
  let (r, s1) := s.cancel h ⟨queueId, seq⟩
  s.run h [s.param h (decide (queueId < 64)) 0] (if (⟨queueId, seq⟩ : Cmd) = h then s1 else s1.ok h r)

/-! ### Allocation (R229, R238, R260) -/

/-- Firmware keeps the lowest 2 MiB of every Gallery memory for its own records (log 26). -/
def reservedBytes : Nat := 0x200000

/-- The range of a place that the allocator gives out: a Gallery's scratchpad or a stack. -/
def State.pool (s : State) (space place : Nat) : Span :=
  if space = 1 then
    let b := galleryBase + place * gallerySize
    ⟨b + reservedBytes, b + s.scratchBytes place⟩
  else ⟨place * hbmWindow, place * hbmWindow + s.stackBytes place⟩

/-- A range is free: inside the pool, and it meets no allocation and no retired block. -/
def State.rangeFree (s : State) (pool : Span) (a size : Nat) : Bool :=
  decide (pool.lo ≤ a) && decide (a + size ≤ pool.hi) &&
    s.allocs.all (fun x => decide (x.1 + x.2 ≤ a) || decide (a + size ≤ x.1)) &&
    s.retired.all (fun b => decide ((b + 1) * 65536 ≤ a) || decide (a + size ≤ b * 65536))

/-- A free range of a place: at the free value's address where that is free, else the lowest (log 26). -/
def State.place (s : State) (space place size pick : Nat) : Option Nat :=
  let pool := s.pool space place
  let n := (pool.hi - pool.lo) / 65536
  let first := pool.lo + pick % max 1 n * 65536
  let ends := pool.lo :: (s.allocs.map (fun x => x.1 + x.2) ++ s.retired.map (fun b => (b + 1) * 65536))
  if s.rangeFree pool first size then some first
  else (ends.filter (fun a => s.rangeFree pool a size)).foldl (fun best a => match best with | none => some a | some b => some (min a b)) none

/-- MEM_ALLOC. -/
def execMemAlloc (h : Cmd) (size space place : Nat) (s : State) : Out :=
  let checks := [s.param h (decide (0 < size) && size % 65536 == 0) 0, s.param h (space == 1 || space == 2) 8,
                 s.param h (decide (place ≤ 31) || place == 0xFF) 9]
  let (pick, s1) := s.takeFree
  let places := if place = 0xFF then (List.range 32).map (fun i => (pick + i) % 32) else [place]
  s.run h checks
    (match places.findSome? (fun p => s1.place space p size (pick / 32)) with
     | some a => ({ s1 with allocs := (a, size) :: s1.allocs }).ok h a
     | none => s1.fail h stNoMemory 0)

/-- MEM_FREE: retired blocks of the range have left the pool for good (R238). -/
def execMemFree (h : Cmd) (addr : Nat) (s : State) : Out :=
  s.run h [check (s.allocs.any (fun x => x.1 == addr)) stNotAllocated 0]
    (({ s with allocs := s.allocs.filter (fun x => !(x.1 == addr)) }).ok h)

/-! ### Memory (R220, R232, R260) -/

/-- A range that a memory command may reach. A read in the register space answers the registers' words, and a write there is
ignored: the host sees every field as RO (R219, R243, R410, R411; log 27). -/
def State.hostRange (s : State) (a n : Nat) : Bool := s.mapped a n

/-- An access of a command that is not mapped (R220, R259). -/
def State.addrFail (s : State) (h : Cmd) (a : Nat) : State := (s.unmapped a).fail h stAddressError addrDetail

/-- MEM_WRITE. -/
def execMemWrite (h : Cmd) (addr : Nat) (data : List Byte) (s : State) : Out :=
  s.run h [] (if s.hostRange addr data.length then (s.store addr data).ok h else s.addrFail h addr)

/-- MEM_READ: waits while the function may not master host memory (R401). -/
def execMemRead (h : Cmd) (addr len hostAddr : Nat) (s : State) : Out :=
  if !s.pcie.busMaster then .next s
  else
    let s1 := s.refetchFirst addr len
    s.run h [s.param h (decide (1 ≤ len) && decide (len ≤ 4096)) 8]
      (if !s.hostRange addr len then s.addrFail h addr
       else if s1.poisoned addr len then s1.rdStop h 0x23 (s1.poisonErr addr len)
       else ((s1.readRange none clsManagement false addr len).hostWrite hostAddr (s1.bytes addr len)).ok h)

/-- The pattern of MEM_FILL over a length. -/
def patternBytes (pattern len : Nat) : List Byte := (List.replicate (len / 8) (bytesLE 8 pattern)).flatten

/-- MEM_FILL. -/
def execMemFill (h : Cmd) (addr len pattern : Nat) (s : State) : Out :=
  s.run h [s.param h (len % 64 == 0) 8]
    (if s.hostRange addr len then (s.store addr (patternBytes pattern len)).ok h else s.addrFail h addr)

/-- COUNTER_SIGNAL (R102). -/
def execCounterSignal (h : Cmd) (ctrAddr increment : Nat) (s : State) : Out :=
  s.run h [] (if decide (regionOf ctrAddr = some .gallery) && s.mapped ctrAddr 16 then (s.counterAdd ctrAddr increment).ok h
              else s.addrFail h ctrAddr)

/-- NOP (R261). -/
def execNop (h : Cmd) (s : State) : Out := s.run h [] (s.ok h)

/-! ### Page tables (R154 to R157, R260) -/

/-- The scales of a page table that a command names (R154). -/
def hdrScales (hd : PtHeader) : Check := check (scaleOk hd.kScale && scaleOk hd.vScale) stBadScale hd.tableId

/-- The lowest byte of an entry in which a bit that R156 reserves is set; what is not VALID is not examined (R10, R156). -/
def entryReserved (mode e : Nat) : Option Nat :=
  let mask := 0xFFFF000000000000 + (if mode = 0 then 0x2000 else 0x7FFE)
  if e % 2 = 0 then none else (List.range 8).find? (fun i => e &&& mask &&& (0xFF * 2 ^ (8 * i)) != 0)

/-- An entry that PT_UPDATE may write (R156, R260): no reserved bit, and a PTE of the table's format. -/
def entryOk (mode format e : Nat) : Bool :=
  e % 2 == 0 || ((entryReserved mode e).isNone && (mode != 0 || bits e 4 1 == format))

/-- The address of entry number n of a table: its leaf's PTE, or its directory entry. -/
def State.entryAddr (s : State) (hd : PtHeader) (mode n : Nat) : Option Nat :=
  if mode = 1 then (if n < 4096 then some (hd.dir + 8 * n) else none)
  else
    let d := s.num (hd.dir + 8 * (n / 4096)) 8
    if n / 4096 < 4096 && d % 2 = 1 then some (bits d 47 15 * 32768 + 8 * (n % 4096)) else none

/-- PT_UPDATE: every entry is checked before any is written. The lines that caches hold of the table are gone with it. -/
def execPtUpdate (h : Cmd) (header first mode : Nat) (entries : List Nat) (s : State) : Out :=
  let n := entries.length
  let checks := [s.param h (decide (1 ≤ n) && decide (n ≤ 106)) 12, s.param h (decide (mode ≤ 1)) 14]
  match firstBad checks, readHeader s header with
  | none, .error e => s.run h [] (s.rdStop h 0x25 e)
  | none, .ok hd =>
    let addrs := (List.range n).map (fun i => s.entryAddr hd mode (first + i))
    let bad := (List.range n).find? (fun i => !entryOk mode hd.format (entries.getD i 0))
    let limit := if mode = 0 then decide (first + n ≤ hd.limit) else decide (first + n ≤ 4096)
    let worst := bad.getD 0
    let zero := entryReserved mode (entries.getD worst 0)
    let more := [hdrScales hd, s.param h (limit && addrs.all (·.isSome)) 8,
      check (bad.isNone || zero.isNone) stReserved (s.at h (16 + 8 * worst + zero.getD 0)), s.param h bad.isNone (16 + 8 * worst)]
    let ws := (addrs.zip entries).filterMap (fun x => x.1.map (fun a => (a, bytesLE 8 x.2)))
    s.run h more
      (match ws.find? (fun w => !s.hostRange w.1 8) with
       | some w => s.addrFail h w.1
       | none => (s.storeAll ws none clsManagement).ok h)
  | some _, _ => s.run h checks s

/-! ### Tensors (R32, R48, R51, R154, R260) -/

/-- The page-table header that a paged tensor's reference names, for the scale check at admission (R154). -/
def State.pagedScale (s : State) (space base : Nat) : Check :=
  if space = 3 then match readRef s base with | .ok r => hdrScales r.hdr | .error _ => none else none

/-- The formats of a saved activation: FP8 E4M3, FP8 E5M2 and LNS8 (R174). -/
def saveFormat (f : Nat) : Bool := f == fmtE4M3 || f == fmtE5M2 || f == fmtLNS8

/-- Checks of TENSOR_CREATE. -/
def State.tensorChecks (s : State) (h : Cmd) (p : TensorParams) : List Check :=
  let job := (s.entry h).jobId
  let major := s.jobMajor job
  [s.jobCheck h, s.param h (s.tensor? job p.id).isNone 0, s.param h (decide (p.format ≤ 7)) 4,
   check (major == 3 || p.format != fmtG16) stNotInVersion (s.at h 4),
   check (major == 3 || p.saveFmt != fmtG16) stNotInVersion (s.at h 10),
   s.param h (decide (1 ≤ p.space) && decide (p.space ≤ 3)) 5,
   s.param h (decide (p.policy ≤ 1) && !(p.space == 3 && p.policy == 1)) 6, s.param h (decide (p.histH ≤ 64)) 7,
   s.param h (decide (p.histM ≤ 15) || p.histM == 0xFF) 8, s.param h (decide (p.saveMode ≤ 2)) 9,
   s.param h (if p.saveMode = 0 then decide (p.saveFmt ≤ 7) else saveFormat p.saveFmt) 10, s.param h (if p.space = 3 then decide (p.pageHalf ≤ 1) else p.pageHalf == 0) 11,
   s.param h (decide (p.idxBase < 2 ^ 56)) 48, s.pagedScale p.space p.base]

/-- The last amax values of a tensor, as many as an entry counts. -/
def Tensor.lastHist (t : Tensor) : List Nat := t.hist.drop (t.hist.length - 255)

/-- The firmware's buffer for the commit record of a mirror and, after it, the amax histories (log 26, log 38). -/
def mirrorBuffer : Nat := galleryBase + 0xB0000
def mirrorBufferBytes : Nat := 0x20000

/-- A tensor's amax history as the mirror holds it: its identifier, how many values, and the values. -/
def Tensor.histBytes (t : Tensor) : List Byte :=
  bytesLE 4 t.p.id ++ bytesLE 4 t.lastHist.length ++ t.lastHist.flatMap (bytesLE 4)

/-- The history of a tensor among mirrored histories. -/
def histIn (id : Nat) : Nat → List Byte → List Nat
  | 0, _ => []
  | k + 1, bs =>
    let n := fieldLE bs 4 4
    if bs.length < 8 then []
    else if fieldLE bs 0 4 = id then (List.range n).map (fun i => fieldLE bs (8 + 4 * i) 4)
    else histIn id k (bs.drop (8 + 4 * n))

/-- The history that a tensor of a restarted job goes on with: that of the restart step, once the module's mirror buffer holds it
(R350, R352). -/
def State.restartHist (s : State) (job id : Nat) : List Nat :=
  match (s.job? job).bind (·.restart) with
  | some m => if s.num mirrorBuffer 8 = m then
      histIn id (mirrorBufferBytes / 8) (s.bytes (mirrorBuffer + 64) (min (s.num (mirrorBuffer + 56) 8) (mirrorBufferBytes - 64))) else []
  | none => []

/-- TENSOR_CREATE. -/
def execTensorCreate (h : Cmd) (p : TensorParams) (s : State) : Out :=
  let job := (s.entry h).jobId
  let t : Tensor := { job := job, p := p, scale := p.scale, hist := if p.policy = 1 then s.restartHist job p.id else [] }
  s.run h (s.tensorChecks h p) (({ s with tensors := s.tensors ++ [t] }).ok h)

/-- Parameter offsets of the tensor identifiers of an opcode. -/
def tensorOffsets : Nat → List Nat
  | 0x40 => [0, 4, 8] | 0x41 => [0, 4, 8] | 0x42 => [0, 4] | 0x43 => [0, 4, 8] | 0x45 => [0, 4, 8, 12, 16]
  | 0x60 => [8, 12] | 0x61 => [8, 12] | 0x62 => [8, 12] | 0x63 => [8, 12] | 0x32 => [0] | _ => []

/-- Commands that were fetched before h. -/
def State.before (s : State) (h : Cmd) : List Outstanding := s.outstanding.takeWhile (fun o => !(o.cmd == h))

/-- An outstanding command names a tensor of its job. -/
def Outstanding.names (o : Outstanding) (job id : Nat) : Bool :=
  o.jobId == job && (tensorOffsets o.opcode).any (fun f => fieldLE o.params f 4 == id)

/-- TENSOR_DESTROY: waits for every earlier command that names the tensor. -/
def execTensorDestroy (h : Cmd) (id : Nat) (s : State) : Out :=
  let job := (s.entry h).jobId
  if s.isOut h && (s.before h).any (·.names job id) then .next s
  else
    s.run h [s.jobCheck h, s.param h (s.tensor? job id).isSome 0]
      (({ s with tensors := s.tensors.filter (fun t => !(t.job == job && t.p.id == id)) }).ok h)

/-- SCALE_SET: a fixed scale is replaced for later commands. -/
def execScaleSet (h : Cmd) (id scale : Nat) (s : State) : Out :=
  let job := (s.entry h).jobId
  let fixed := match s.tensor? job id with | some t => t.p.policy == 0 | none => false
  s.run h [s.jobCheck h, s.param h fixed 0] ((s.modTensor job id (fun t => { t with scale := scale })).ok h)

end Sys2Proof.Machine
end

