-- ==== Sys2Proof/Machine/Plan.lean ====
section
/-!
DEFINITION. The programs that Oxran firmware builds for the operations of a job: where a stage runs, how its work is divided, its
default loop nests, and the words of its strands (R138, R142, R147 to R150, R169, R177 to R180, R192 to R195). They change no
result (R21, R137); what they do to the counters of the Chambers is `Work`.
-/
namespace Sys2Proof.Machine

/-! ### Division (R148) -/

/-- First block and number of blocks of the Chamber of rank i, of x blocks divided among c (R148). -/
def share (x c i : Nat) : Nat × Nat := (i * (x / c) + min i (x % c), x / c + if i < x % c then 1 else 0)

/-- The rank whose share holds block b. -/
def rankOf (x c b : Nat) : Nat :=
  let q := x / c
  let r := x % c
  min (c - 1) (if b < r * (q + 1) then b / (q + 1) else r + (b - r * (q + 1)) / max 1 q)

/-- How an operation's output is divided among the Chambers of its group: by N or by M blocks (R148), by output block in ascending
order (R177), in stripes of a map along an axis in units of rows (R192), or not at all (R142). -/
inductive Division where
  | alongN (n : Nat)
  | alongM (m : Nat)
  | blocks (m n : Nat)
  | stripes (g : Geom) (axis unit : Nat)
  | alone
deriving DecidableEq, Repr

/-- The rank, of c, that forms element (r, k). -/
def Division.rank (d : Division) (c r k : Nat) : Nat :=
  match d with
  | .alongN n => rankOf n c (k / 128)
  | .alongM m => rankOf m c (r / 128)
  | .blocks m n => rankOf (m * n) c (r / 128 * n + k / 128)
  | .stripes g axis unit =>
    rankOf (ceilDiv (g.outE.getD axis 1) unit) c ((g.position g.outE r).getD axis 0 / unit)
  | .alone => 0

/-- A rectangle of output blocks, with the K blocks of the operation. -/
structure Share where
  m0 : Nat
  mN : Nat
  n0 : Nat
  nN : Nat
  kN : Nat
deriving DecidableEq, Repr

/-- The share of rank i in an output of m by n blocks. -/
def Division.share (d : Division) (c m n k i : Nat) : Share :=
  match d with
  | .alongN _ => let x := Machine.share n c i; ⟨0, m, x.1, x.2, k⟩
  | .alongM _ => let x := Machine.share m c i; ⟨x.1, x.2, 0, n, k⟩
  | _ => ⟨0, m, 0, n, k⟩

/-- The output blocks of rank i, in ascending order (R177). -/
def blocksOf (c m n i : Nat) : List (Nat × Nat) :=
  let x := share (m * n) c i
  (List.range x.2).map (fun j => ((x.1 + j) / n, (x.1 + j) % n))

/-! ### Stage groups (R148 to R150) -/

/-- Bytes of a Pocket, and what firmware keeps of each for the programs, tables and spill tiles of a stage (R149). -/
def pocketBytes : Nat := 0x600000
def pocketKept : Nat := 0x80000

/-- Bytes of the Pocket of Chamber c that the other stages of the Chamber leave. -/
def State.pocketFree (s : State) (c job stage : Nat) : Nat :=
  pocketBytes - (((s.groups.filter (fun g => g.chambers.contains c && !(g.job == job && g.stageId == stage))).map
    (fun g => pocketKept + g.slice)).foldl (· + ·) 0)

/-- Bytes of a weight slice of `tiles` tiles of format f with its check values, and two buffers of its activation staging (R149). -/
def sliceBytes (tiles f staging : Nat) : Nat := tiles * (16384 * fmtBytes f + 1024) + 2 * staging

/-- A slice of that many bytes is stationary in every Pocket of a group (R149). -/
def State.stationary (s : State) (g : StageGroup) (bytes : Nat) : Bool :=
  g.chambers.all (fun c => decide (bytes + pocketKept ≤ s.pocketFree c g.job g.stageId))

/-- Galleries after g in the order of the default placement: g, the others of its die, then those of the dies one link away (R12, R150). -/
def placesAfter (g : Nat) : List Nat :=
  (List.range 4).map (fun i => 4 * (g / 4) + (g + i) % 4) ++
    [1, 2, 4].flatMap (fun x => (List.range 4).map (fun i => 4 * (Nat.xor (g / 4) x) + i))

/-- Working Chambers of Gallery g that serve no stage of the job and have Pocket left for one. -/
def State.freeChambers (s : State) (job stage g : Nat) : List Nat :=
  ((List.range 8).map (8 * g + ·)).filter (fun c => s.reg .chRetired c == 0 &&
    !s.groups.any (fun x => x.job == job && x.chambers.contains c) && decide (pocketKept ≤ s.pocketFree c job stage))

/-- The group of a stage: the one that has been formed, or one at its default place, after the stage before it (R150). A first stage
goes to the first Gallery with room, and a default group takes every free Chamber of its Gallery (log 116). -/
def State.stageGroup (s : State) (job stage : Nat) : Option StageGroup :=
  let own := s.groups.find? (fun g => g.job == job && g.stageId == stage)
  match own with
  | some g => if !g.chambers.isEmpty then some g else if g.bound then none else placed
  | none => placed
where
  placed : Option StageGroup :=
    let before := if stage = 0 then none else s.groups.find? (fun g => g.job == job && g.stageId == stage - 1)
    let order := match before with | some g => placesAfter (g.chambers.getLastD 0 / 8) | none => List.range 32
    order.findSome? (fun g =>
      let cs := s.freeChambers job stage g
      if cs.isEmpty then none else some { job := job, stageId := stage, layout := 0, stale := 0, chambers := cs, bound := false })

/-- The group of a command that names no stage: that of its job, or one of several (log 116). -/
def State.jobGroup (s : State) (job op : Nat) : Option StageGroup :=
  match s.groups.filter (fun g => g.job == job && !g.chambers.isEmpty) with
  | [] => s.stageGroup job 0
  | [g] => some g
  | gs => gs[Config.firmwareGroup job op % gs.length]?

/-- The numeric flags of a Chamber that passes from one job to another are cleared (R62). -/
def State.passChamber (s : State) (job c : Nat) : State :=
  let old := (s.chamber c).job
  let s := s.modChamber c (fun x => { x with job := job })
  if old = 0 || old = job then s else numFlagFields.foldl (fun s f => s.put f c 0) s

/-- A group with what firmware keeps of it; one that firmware has placed is formed. -/
def State.setGroup (s : State) (g : StageGroup) : State :=
  let s := g.chambers.foldl (fun s c => s.passChamber g.job c) s
  if s.groups.any (fun x => x.job == g.job && x.stageId == g.stageId) then
    { s with groups := s.groups.map (fun x => if x.job = g.job && x.stageId = g.stageId then g else x) }
  else { s with groups := s.groups ++ [g] }

/-- Programs take the place of those that their strands had. -/
def State.setPlans (s : State) (ps : List StrandPlan) : State :=
  { s with plans := s.plans.filter (fun x => !ps.any (fun p => p.job == x.job && p.chamber == x.chamber && p.strand == x.strand)) ++ ps }

/-- The strand of a group's layout: one strand takes all the programs where `LAYOUT` is 1 (R179, R260). -/
def StageGroup.strand (g : StageGroup) (i : Nat) : Nat := if g.layout = 1 then 0 else i

/-- A program of a group's strand. -/
def StageGroup.plan (g : StageGroup) (c strand priority : Nat) (ws : List PlanWord) : StrandPlan :=
  { job := g.job, stageId := g.stageId, chamber := c, strand := g.strand strand, priority := priority, words := ws ++ [.fin] }

/-! ### Default loop nests (R138) -/

/-- The largest divisor of x that fits; 0 where none does. -/
def fitExt (x : Nat) (fits : Nat → Bool) : Nat :=
  ((List.range (x + 1)).filter (fun d => d != 0 && x % d == 0 && fits d)).getLastD 0

/-- Entries of firmware's descriptor tables: A, B, output, spill tile (log 116). -/
def planA : Nat := 0
def planB : Nat := 1
def planOut : Nat := 2
def planSpill : Nat := 3

/-- A level of a chain over a share. -/
def planLevel (x : Share) (level order m n k kOrg bnd : Nat) (spills : Bool) : NestDesc :=
  { level := level, order := order, batch := 0, bankStart := 0, inner := if level = 0 then 0xFF else 3 + level
    aDesc := planA, bDesc := planB, outDesc := planOut, spillOut := if spills then planSpill else 0xFF
    spillIn := if spills then planSpill else 0xFF, tagBase := 0x10, mExt := m, nExt := n, kExt := k, mOrg := x.m0, nOrg := x.n0
    kOrg := kOrg, bndEvery := bnd, batchCount := 0, batchList := 0, foldBlk := 0, foldStride := 0, bndNoBase := 0 }

/-- `BND_EVERY` for runs of k SWEEPs: 512 SWEEPs, 65,536 clocks, between boundaries (R169, R333). -/
def bndEvery (k : Nat) : Nat := max 1 (512 / max 1 k)

/-- The default loop nest of R138 over a share, for A and B tiles of `a` and `b` bytes and a Gallery cache of `cache` bytes. A slab
or panel fits a half of the cache; with no cache a Gallery tile is one block wide (log 116). -/
def defaultChain (stationary : Bool) (cache a b : Nat) (x : Share) : List NestDesc :=
  let t := if stationary then a else b
  let wide := fitExt (if stationary then x.mN else x.nN) (fun d => decide (2 * (d * x.kN * t) ≤ cache))
  let k := if wide ≠ 0 || cache = 0 then x.kN else max 1 (fitExt x.kN (fun d => decide (2 * (d * t) ≤ cache)))
  let cut := decide (k < x.kN)
  let w := max 1 wide
  let bnd := bndEvery k
  if stationary then
    [planLevel x 2 (if cut then 4 else 0) x.mN x.nN x.kN 0 bnd cut, planLevel x 1 0 w x.nN k 0 bnd cut, planLevel x 0 0 1 x.nN k 0 bnd cut]
  else
    [planLevel x 2 (if cut then 4 else 1) x.mN x.nN x.kN 0 bnd cut, planLevel x 1 1 x.mN w k 0 bnd cut, planLevel x 0 1 x.mN 1 k 0 bnd cut]

/-- The chain of one level that runs a share with its whole K, or with K blocks `k0` to `k0` + n − 1. -/
def flatChain (x : Share) (order k0 n bnd : Nat) : List NestDesc := [planLevel x 0 order x.mN x.nN n k0 bnd false]

/-- A share has work. -/
def Share.any (x : Share) : Bool := decide (0 < x.mN) && decide (0 < x.nN) && decide (0 < x.kN)

/-! ### Lists and folds (R144, R146, R147) -/

/-- A chain over `count` like problems: in service by a descriptor pointer list, in recovery by folding in M at a stride, which needs
no list (R147). A fold of other problems is one NEST a problem. -/
def manyChain (chain : List NestDesc) (recovering : Bool) (list count : Nat) (stride : Option Nat) (mBlocks : Nat) : List PlanWord :=
  if count ≤ 1 then [.nest chain]
  else if !recovering then [.nest (chain.map (fun d => { d with batch := 1, batchCount := count, batchList := list }))]
  else
    match stride with
    | some x => [.nest (chain.map (fun d => { d with batch := 2, batchCount := count, foldBlk := mBlocks, foldStride := x }))]
    | none => (List.range count).map (fun _ => .nest (chain.map (fun d => { d with batch := 2, batchCount := 1, foldBlk := mBlocks })))

/-- The one stride of bases, in ascending order of problems. -/
def oneStride (bases : List Nat) : Option Nat :=
  match bases with
  | a :: b :: _ =>
    let d := b - a
    if (bases.zipIdx).all (fun x => x.1 == a + x.2 * d) then some d else none
  | _ => some 0

/-! ### Programs of a training stage (R142, R150, R177 to R180) -/

/-- A forward product's program: it waits on the activations that the stage before hands over and, where the weights are not stale, on
the optimizer's last step, and tells the stage after it and a save program of its outputs (R150, R179, R180). -/
def StageGroup.forward (g : StageGroup) (fed saves : Bool) (c : Nat) (ws : List PlanWord) : StrandPlan :=
  g.plan c 0 1 ((if fed then [.wait .chunks (g.chunks + 1)] else []) ++
    (if g.steps ≠ 0 && g.stale = 0 then [.wait .optimizer g.steps] else []) ++ ws ++
    (if saves then [.signal .outTiles 1] else []) ++ [.signal .chunks 1])

/-- The save program of the separate mode over n groups of 512 elements (R175, R179). -/
def StageGroup.savePlan (g : StageGroup) (c n : Nat) : StrandPlan :=
  g.plan c 3 1 [.wait .outTiles (g.chunks + 1), .save n]

/-- How a stage's forward product is divided: along N, or along M where every slice shares the weights (R148). -/
def StageOp.division (o : StageOp) : Division := if o.shared then .alongM o.m else .alongN o.n

/-- The forward programs of a stage, each Chamber's slice stationary where all fit (R138, R147 to R149). Activations wait in the
Gallery cache, or where there is none in two row blocks in the Pocket (log 116). -/
def State.forwardPlans (s : State) (g : StageGroup) (o : StageOp) (recovering : Bool) : StageGroup × List StrandPlan :=
  let c := g.chambers.length
  let shares := g.chambers.zipIdx.map (fun x => (x.1, o.division.share c o.m o.n o.k x.2))
  let tiles := (shares.map (fun x => if o.shared then x.2.mN * x.2.kN else x.2.nN * x.2.kN)).foldl max 0
  let cache := fun (ch : Nat) => s.reg .glCacheSteps (ch / 8) * 0x800000
  let staging := if g.chambers.all (fun ch => cache ch != 0) then 0 else o.k * (if o.shared then o.b else o.a)
  let bytes := sliceBytes tiles o.fmt staging
  let fits := s.stationary g bytes
  ({ g with slice := if fits then bytes else 0, op := some o },
   (shares.filter (fun x => x.2.any)).map (fun x =>
     g.forward o.fed o.saves x.1 (o.counts.flatMap (fun n =>
       manyChain (defaultChain fits (cache x.1) o.a o.b x.2) recovering o.list n o.stride x.2.mN))))

/-- The state that a stage's forward operands are read in: with stale weights, the copy taken before the optimizer's last step (R180). -/
def StageGroup.operandState (g : StageGroup) (s : State) : State :=
  if g.stale = 1 then g.copies.foldl (fun s x => s.write x.1 x.2) s else s

/-- Segments of a split K as the ranges of K blocks that lie within the bound (R141, R142). -/
def segmentRanges (kSeg kN kept : Nat) : List (Nat × Nat × Nat) :=
  ((List.range (ceilDiv kN kSeg)).filter (fun j => j == 0 || decide (j * kSeg < kept))).map
    (fun j => (j, j * kSeg, min kSeg (kN - j * kSeg)))

/-- The partial products of segment j over the whole output, as spill tensors (R141). -/
def segmentWords (x : Share) (j k0 n : Nat) : List PlanWord :=
  [.nest ((flatChain x 0 k0 n (bndEvery n)).map (fun d => { d with outDesc := planSpill })), .signal (.segment j) 1]

/-- The combine of output block (m, n) on one Chamber: partials added in ascending order by row groups, the sum refilled, one zero-fed
SWEEP, and the drain (R142). -/
def combineWords (segs bank m n : Nat) : List PlanWord :=
  ((List.range segs).map (fun j => .wait (.segment j) 1)) ++
    (List.range 32).flatMap (fun g =>
      PlanWord.vload 0 g :: (((List.range segs).drop 1).flatMap (fun j => [.vload j g, .vadd]) ++ [.vstore g])) ++
    [.bind .output m n, .refill bank m n, .sweep 0 bank 0 false true true]

/-- Words of a bank run. -/
def PlanRun.words (r : PlanRun) (bank : Nat) : List PlanWord :=
  .bind (if r.last then .output else .spill) r.m r.n :: ((if r.init then [] else [.refill bank r.m r.n]) ++
    (List.range (r.k1 - r.k0)).map (fun i => .sweep r.product bank (r.k0 + i) (r.init && i == 0) (r.k0 + i + 1 == r.k1) false))

/-- Two lists taken alternately; where one ends the other goes on (R178). -/
def alternate {α : Type} : List α → List α → List α
  | [], ys => ys
  | x :: xs, ys => x :: (match ys with | [] => xs | y :: ys => y :: alternate xs ys)

/-- Runs one after the other, `BANK` flipped on every run, with a boundary before 512 SWEEPs would be passed (R178, R333). -/
def bankedRuns (bank swept no : Nat) : List PlanRun → List PlanWord
  | [] => []
  | r :: rs =>
    let n := r.k1 - r.k0
    if swept ≠ 0 && decide (512 < swept + n) then .boundary no :: (r.words bank ++ bankedRuns (1 - bank) n (no + 1) rs)
    else r.words bank ++ bankedRuns (1 - bank) (swept + n) no rs

/-- Bank runs of an input-gradient product over the output blocks of a rank: each contracts its whole K, cut at boundaries (R177). -/
def gradientRuns (product : Nat) (blocks : List (Nat × Nat)) (kN : Nat) : List PlanRun :=
  blocks.flatMap (fun b => (List.range (ceilDiv kN 512)).map (fun j =>
    ⟨product, b.1, b.2, 512 * j, min kN (512 * j + 512), j == 0, decide (kN ≤ 512 * j + 512)⟩))

/-- Bank runs of a weight-gradient product: chunks of the token blocks in ascending order, each over every block that the Chamber owns;
a chunk ends through a spill drain unless it covers the step's last token block, and the next begins with a refill (R177). -/
def chunkRuns (product : Nat) (blocks : List (Nat × Nat)) (kN : Nat) : List PlanRun :=
  (List.range (ceilDiv kN 512)).flatMap (fun j => blocks.map (fun b =>
    ⟨product, b.1, b.2, 512 * j, min kN (512 * j + 512), j == 0, decide (kN ≤ 512 * j + 512)⟩))

/-- The backward strand of a Chamber (R178, R179): the runs of a product of `role`, alternated with those of its partner where the
strand's program holds only these. -/
def StageGroup.backward (g : StageGroup) (s : State) (role c : Nat) (runs : List PlanRun) : StrandPlan :=
  let old := s.plans.find? (fun p => p.job == g.job && p.stageId == g.stageId && p.chamber == c && p.strand == g.strand 1)
  let partner := match old with
    | some p => if role = 1 then (if p.runs0.isEmpty then p.runs1 else []) else (if p.runs1.isEmpty then p.runs0 else [])
    | none => []
  let (r0, r1) := if role = 1 then (runs, partner) else (partner, runs)
  let ws := [PlanWord.wait .grads (g.grads + 1), .wait .saved (g.grads + 1)] ++ bankedRuns 0 0 0 (alternate r0 r1) ++
    (if role = 2 then [.signal .weightGrads 1] else [])
  { g.plan c 1 2 ws with runs0 := r0, runs1 := r1 }

/-- The optimizer strand of a Chamber over n groups of 512 elements: in two phases with a boundary between them (R337), then it tells
the forward strands (R179, R180). -/
def StageGroup.optimizer (g : StageGroup) (c n : Nat) : StrandPlan :=
  g.plan c 2 0 [.wait .weightGrads (g.steps + 1), .optimize n, .boundary 0, .writeBack n, .signal .optimizer 1]

/-! ### Stripes (R192 to R195) -/

/-- One stripe of a map along an axis: its own rows of the input and of the output, and its halo rows (R192). -/
structure Stripe where
  chamber : Nat
  rank : Nat
  count : Nat
  in0 : Nat
  inN : Nat
  out0 : Nat
  outN : Nat
  above : Nat
  below : Nat
deriving DecidableEq, Repr

/-- The stripe axis: H, or T where `OUT_T` is at least four times `OUT_H`. -/
def Geom.stripeAxis (g : Geom) : Nat := if 4 * g.outE.getD 1 1 ≤ g.outE.getD 0 1 then 0 else 1

/-- First and last input row that output row o reads along an axis (R187). -/
def Geom.reads (g : Geom) (a o : Nat) : Nat × Nat :=
  let u := o * g.stride.getD a 1
  let p := g.pad.getD a 0
  let top := g.inE.getD a 1 * g.upF a - 1
  ((u - p) / g.upF a, min top (u + (g.kern.getD a 1 - 1) * g.dil.getD a 1 - p) / g.upF a)

/-- Own rows of rank i: whole units, cut at the map's end. -/
def stripeRows (rows unit c i : Nat) : Nat × Nat :=
  let x := share (ceilDiv rows unit) c i
  (min rows (x.1 * unit), min rows ((x.1 + x.2) * unit) - min rows (x.1 * unit))

/-- The stripe of rank i on a Chamber (R192). -/
def Geom.stripe (g : Geom) (unit : Nat) (cs : List Nat) (i : Nat) : Stripe :=
  let a := g.stripeAxis
  let x := stripeRows (g.inE.getD a 1) unit cs.length i
  let y := stripeRows (g.outE.getD a 1) unit cs.length i
  let lo := (g.reads a y.1).1
  let hi := (g.reads a (y.1 + y.2 - 1)).2
  let halo := fun n => ceilDiv n unit * unit
  { chamber := cs.getD i 0, rank := i, count := cs.length, in0 := x.1, inN := x.2, out0 := y.1, outN := y.2
    above := if i = 0 then 0 else halo (x.1 - lo)
    below := if i + 1 = cs.length then 0 else halo (hi + 1 - (x.1 + x.2)) }

/-- The geometry of a stripe: its buffer begins at its first halo row, and only the top stripe keeps the leading padding (R192). -/
def Stripe.geom (t : Stripe) (g : Geom) : Geom :=
  let a := g.stripeAxis
  { g with inE := g.inE.set a (t.above + t.inN + t.below), outE := g.outE.set a t.outN
           pad := if t.rank = 0 then g.pad else g.pad.set a 0 }

/-- Output tiles of a stripe. -/
def Stripe.tiles (t : Stripe) (g : Geom) : Nat :=
  let e := (t.geom g).outE
  if g.posOrder = 0 then ceilDiv (e.getD 0 1 * e.getD 1 1 * e.getD 2 1) 128
  else ceilDiv (64 * (ceilDiv (e.getD 0 1) 4 * ceilDiv (e.getD 1 1) 4 * ceilDiv (e.getD 2 1) 4)) 128

/-- First and last output row of the map that a tile of a stripe holds; none where it holds padding only. -/
def Stripe.tileRows (t : Stripe) (g : Geom) (m : Nat) : Option (Nat × Nat) :=
  let a := g.stripeAxis
  let e := (t.geom g).outE
  let rows := ((List.range 128).map (fun i => g.position e (128 * m + i))).filterMap (fun o =>
    if inside e o then some (t.out0 + o.getD a 0) else none)
  match rows with
  | [] => none
  | r :: rs => some (rs.foldl min r, rs.foldl max r)

/-- A tile reads rows of the halo above, of the halo below (R193). -/
def Stripe.readsHalo (t : Stripe) (g : Geom) (m : Nat) : Bool × Bool :=
  match t.tileRows g m with
  | none => (false, false)
  | some (r0, r1) =>
    let a := g.stripeAxis
    (decide (t.rank ≠ 0) && decide ((g.reads a r0).1 < t.in0), decide (t.rank + 1 ≠ t.count) && decide (t.in0 + t.inN ≤ (g.reads a r1).2))

/-- A tile holds output rows that the neighbour on a side reads in the next layer, which is taken to be of the same geometry (log 117). -/
def Stripe.feeds (t : Stripe) (g : Geom) (unit : Nat) (cs : List Nat) (toAbove : Bool) (m : Nat) : Bool :=
  match t.tileRows g m with
  | none => false
  | some (r0, r1) =>
    if toAbove then decide (t.rank ≠ 0) && decide (r0 < t.out0 + (g.stripe unit cs (t.rank - 1)).below)
    else decide (t.rank + 1 ≠ t.count) && decide (t.out0 + t.outN ≤ r1 + (g.stripe unit cs (t.rank + 1)).above)

/-- Tiles by the strand that runs them: 0 interior, 1 lower border, 2 upper border (R193). -/
def Stripe.strandTiles (t : Stripe) (g : Geom) (strand : Nat) : List Nat :=
  (List.range (t.tiles g)).filter (fun m =>
    let h := t.readsHalo g m
    (if h.2 then 1 else if h.1 then 2 else 0) == strand)

/-- Border strands of a stripe: one a neighbour. -/
def Stripe.borders (t : Stripe) : Nat := (if t.rank = 0 then 0 else 1) + (if t.rank + 1 = t.count then 0 else 1)

/-- Tiles that a border strand publishes to a neighbour in a layer. -/
def Stripe.published (t : Stripe) (g : Geom) (unit : Nat) (cs : List Nat) (toAbove : Bool) : Nat :=
  (([1, 2].flatMap (t.strandTiles g)).filter (t.feeds g unit cs toAbove)).length

/-- What a border strand does once the verdict of a tile has passed: the rows that a neighbour needs go into the region of its halo
buffer of the next layer's parity, once that has been consumed, and its halo counter moves (R194, R195). -/
def Stripe.publish (t : Stripe) (g : Geom) (unit : Nat) (cs : List Nat) (layer m : Nat) : List PlanWord :=
  [true, false].flatMap (fun up =>
    if t.feeds g unit cs up m then
      (if layer = 0 then [] else [.wait (.consumed (!up)) layer]) ++ [.copyHalo up ((layer + 1) % 2) m, .signal (.halo (!up)) 1]
    else [])

/-- The words of a tile over every N block. -/
def tileWords (m nN kN : Nat) : List PlanWord := [.nest (flatChain ⟨m, 1, 0, nN, kN⟩ 0 0 kN (bndEvery kN))]

/-- The program of a stripe's interior or border strand for a layer (R193 to R195). `halo` counts the tiles published so far to the
stripe on each side, above and below. -/
def Stripe.program (t : Stripe) (g : Geom) (unit : Nat) (cs : List Nat) (nN kN layer : Nat) (halo : Nat × Nat) (strand : Nat) :
    List PlanWord :=
  let ms := t.strandTiles g strand
  if strand = 0 then
    (if layer = 0 || t.borders = 0 then [] else [.wait .border (layer * t.borders)]) ++ ms.flatMap (fun m => tileWords m nN kN) ++
      [.signal .interior 1]
  else
    let up := ms.any (fun m => (t.readsHalo g m).1)
    let down := ms.any (fun m => (t.readsHalo g m).2)
    -- the halo above is read last by the upper strand, where that has tiles
    let lastUp := up && (strand == 2 || (t.strandTiles g 2).isEmpty)
    ms.flatMap (fun m =>
      let h := t.readsHalo g m
      [.wait .interior (layer + 1)] ++ (if h.1 then [.wait (.halo true) halo.1] else []) ++
        (if h.2 then [.wait (.halo false) halo.2] else []) ++ tileWords m nN kN ++ t.publish g unit cs layer m) ++
      (if lastUp then [.signal (.consumed true) 1] else []) ++ (if down then [.signal (.consumed false) 1] else []) ++
      [.signal .border 1]

/-- `PRIORITY` of a stripe's strands (R193). -/
def stripePriority (strand : Nat) : Nat := if strand = 0 then 1 else if strand = 1 then 3 else 2

/-- The strands of a stripe: its interior strand, and a border strand for each neighbour. -/
def StageGroup.stripePlans (gr : StageGroup) (t : Stripe) (g : Geom) (unit : Nat) (cs : List Nat) (nN kN : Nat) (halo : Nat × Nat) :
    List StrandPlan :=
  ([0] ++ (if t.rank + 1 = t.count then [] else [1]) ++ (if t.rank = 0 then [] else [2])).map (fun i =>
    { gr.plan t.chamber i (stripePriority i) (t.program g unit cs nN kN gr.layers halo i) with strand := i })

/-! ### Attention (R127, R168, R169) -/

/-- The statistics pass of a query block over key blocks j0 to j0 + n − 1: NESTs of at most 2^20 − 1 blocks with `BND_EVERY` 512, which
save the row statistics at each boundary (R168, R169). -/
def statisticsWords (m j0 n seg : Nat) : List PlanWord :=
  [.rsClear] ++ (List.range (ceilDiv n 1048575)).map (fun i =>
      .nest ((flatChain ⟨m, 1, j0 + 1048575 * i, min 1048575 (n - 1048575 * i), 1⟩ 0 0 1 512).map (fun d => { d with outDesc := planSpill }))) ++
    [.rsFinish, .rsOut seg]

/-- A score run of key block j into slot j mod 2 of the P ring, with its drain routine SMX_PROB (R168). -/
def scoreWords (j : Nat) : List PlanWord := [.bind .ring 0 (j % 2), .sweep 0 1 j true true false]

/-- The output SWEEPs of a segment of key blocks, each after the score run of the block that follows it in the segment (R168, R169). -/
def segmentSweeps (first : Bool) (j0 n : Nat) : List PlanWord :=
  (List.range n).flatMap (fun i =>
    (if i + 1 < n then scoreWords (j0 + i + 1) else []) ++
      [.sweep 1 0 (j0 + i) (first && i == 0) (i + 1 == n) false])

/-- A window of at most 8,192 key blocks, `n` of them, in segments of at most 256: each opens the output run or refills it from its
spill tile, and closes it there with a boundary, but for the last segment of the last window (R168, R169). -/
def windowWords (firstWindow lastWindow : Bool) (m n : Nat) : List PlanWord :=
  let segs := ceilDiv n 256
  [.rsIn] ++ (List.range segs).flatMap (fun g =>
    let len := min 256 (n - 256 * g)
    let first := firstWindow && g == 0
    let last := lastWindow && g + 1 == segs
    scoreWords (256 * g) ++ [.bind (if last then .output else .spill) m 0] ++ (if first then [] else [.refill 0 m 0]) ++
      segmentSweeps first (256 * g) len ++ (if last then [] else [.boundary g])) ++ [.signal .chunks 1]

/-- The window programs of a query block over n key blocks. -/
def probabilityWords (m n : Nat) : List PlanWord :=
  let w := ceilDiv n 8192
  (List.range w).flatMap (fun i => windowWords (i == 0) (i + 1 == w) m (min 8192 (n - 8192 * i)) ++ (if i + 1 < w then [.fin] else []))

/-- The program of key segment `g` of `segs`, `n` blocks from `j0`, of query block m: both passes, the statistics of all segments
combined in ascending order where there are several (R127, R168). A backward pass recomputes from the record that it has (R171). -/
def attendWords (forward : Bool) (m j0 n g segs : Nat) : List PlanWord :=
  (if forward then statisticsWords m j0 n g ++
    (if segs ≤ 1 then []
     else if g = 0 then [.rsClear] ++ (List.range segs).flatMap (fun j => (if j = 0 then [] else [.wait (.segment j) 1]) ++ [.rsAcc j]) ++
       [.rsFinish, .rsOut segs, .signal (.segment 0) 1]
     else [.signal (.segment g) 1, .wait (.segment 0) 1]) else []) ++
    probabilityWords m n ++
    (if segs ≤ 1 then [] else if g = 0 then combineWords segs 0 m 0 else [.signal (.segment g) 1])

/-! ### What a program does to its Chamber's counters -/

/-- Counts of the Facet's and the expander's registers (R83, R97, R134, R139, R145, R151, R167, R191). -/
structure Work where
  sweeps : Nat := 0
  runs : Nat := 0
  spills : Nat := 0
  skips : Nat := 0
  zeroRuns : Nat := 0
  groupSkips : Nat := 0
  masked : Nat := 0
  entries : Nat := 0
deriving DecidableEq, Repr

def Work.add (a b : Work) : Work :=
  ⟨a.sweeps + b.sweeps, a.runs + b.runs, a.spills + b.spills, a.skips + b.skips, a.zeroRuns + b.zeroRuns,
   a.groupSkips + b.groupSkips, a.masked + b.masked, a.entries + b.entries⟩

/-- The work of a NEST's item. -/
def NestItem.work : NestItem → Work
  | .skip n => { skips := n }
  | .run _ _ ks _ last zero gs =>
    { sweeps := ks.length, runs := 1, spills := if last then 0 else 1, zeroRuns := if zero then 1 else 0, groupSkips := gs }

/-- The work of a chain within bounds. -/
def chainWork (chain : List NestDesc) (b : NestBounds) : Work :=
  match chain, chain.getLast? with
  | top :: _, some leaf =>
    (((nestLeaves chain (top.mOrg, top.nOrg, top.kOrg)).flatMap (nestLeaf top leaf b)).map NestItem.work).foldl Work.add {}
  | _, _ => {}

/-- The work of a word within the bounds of its problems; those of a list or a fold share it out. -/
def PlanWord.work (bs : List NestBounds) : PlanWord → Work
  | .nest chain =>
    let many := (bs.map (chainWork (chain.map (fun d => { d with batch := 0 })))).foldl Work.add {}
    { many with entries := (match chain with | d :: _ => if d.batch = 1 then d.batchCount else 0 | [] => 0) }
  | .sweep _ _ _ _ _ zero => { sweeps := 1, zeroRuns := if zero then 1 else 0 }
  | _ => {}

/-- The work of a program. -/
def planWork (bs : List NestBounds) (ws : List PlanWord) : Work := (ws.map (PlanWord.work bs)).foldl Work.add {}

/-- A Chamber's counters after some work. -/
def State.addWork (s : State) (c : Nat) (w : Work) : State :=
  [(Field.chSweepCount, w.sweeps), (.chNestRunsTotal, w.runs), (.chSpillRuns, w.spills), (.chSkipTiles, w.skips), (.chZeroRuns, w.zeroRuns),
   (.chGroupSkips, w.groupSkips), (.chMaskSkips, w.masked), (.chBatchEntries, w.entries)].foldl (fun s x => if x.2 = 0 then s else s.bump x.1 c x.2) s

/-- An operation's programs and the work of each. -/
structure Planned where
  plans : List StrandPlan := []
  work : List (Nat × Work) := []
deriving DecidableEq, Repr

/-- Programs with the work that their words are. -/
def Planned.of (bs : List NestBounds) (ps : List StrandPlan) : Planned :=
  { plans := ps, work := ps.map (fun p => (p.chamber, planWork bs p.words)) }

/-! ### Requests of a command's programs (R224, R231, R232, R243, R244; log 118) -/

/-- The stacks that a tensor's bytes may lie in. -/
def Tensor.stacks (t : Tensor) : List Nat :=
  if t.p.space = 3 then List.range 32
  else if hbmTop ≤ t.p.base then []
  else (List.range ((t.p.base + t.bytes) / hbmWindow - t.p.base / hbmWindow + 1)).map (fun i => t.p.base / hbmWindow + i)

/-- Those of a command's tensors; any where a list replaces their bases. -/
def State.stacksOf (s : State) (job listCount : Nat) (ids : List Nat) : List Nat :=
  if listCount ≠ 0 then List.range 32 else ((ids.filterMap (s.tensor? job)).flatMap Tensor.stacks).eraseDups

/-- A counter that has counted a free number of events. -/
def State.openBump (s : State) (f : Field) (u scale : Nat) (i : Nat := 0) : State :=
  let (x, s) := s.takeFree
  s.bump f u (x * scale) i

/-- The requests that the Chambers' programs have made of stacks and of their Galleries' caches: how the Chambers' reads mix is not in
the rules, so their numbers, and what the caches and the filters hold after them, are free values. -/
def State.openTraffic (s : State) (cs ks : List Nat) : State :=
  if ks.isEmpty then s
  else
    let gs := (cs.map (· / 8)).eraseDups
    let cached := gs.filter (fun g => s.reg .glCacheSteps g != 0)
    let s := ks.foldl (fun s k =>
      let s := (((s.openBump .hbmReadBytes k 32).openBump .glClassIssued k 1 clsCompute).openBump .glClassIssued k 1 clsLatency)
      if cached.isEmpty then s else (s.openBump .hbmBackinv k 1).setSharer k { s.sharer k with unknown := true }) s
    let s := gs.foldl (fun s g =>
      let s := s.openBump .glDripReads g 1
      if !cached.contains g then s
      else ((s.openBump .glCacheHits g 1).openBump .glCacheMisses g 1).setCache g { s.cache g with unknown := true }) s
    cs.foldl (fun s c => (s.openBump .chWalks c 1).openBump .chWalkMisses c 1) s

/-- Firmware builds the programs, and the Chambers run them with operands in the stacks `ks`. -/
def State.runPlans (s : State) (p : Planned) (ks : List Nat) : State :=
  (p.work.foldl (fun s x => s.addWork x.1 x.2) (s.setPlans p.plans)).openTraffic ((p.work.map (·.1)).eraseDups) ks

end Sys2Proof.Machine
end

