-- ==== Sys2Proof/Machine/Edge.lean ====
section
/-!
DEFINITION. Edge mode: the edge table, the transport of flows, and what an Ethernet interface answers (R285 to R289).
-/
namespace Sys2Proof.Machine

/-! ### The edge table (R287) -/

/-- A flow is in the middle of a transfer; one that has failed carries nothing (R288). -/
def Flow.busy (f : Flow) : Bool := !f.failed && (f.sending.isSome || !f.unacked.isEmpty || !f.got.isEmpty || f.inTransfer)

/-- The flow that a 64-byte entry of the table describes, where it is valid. -/
def flowOf (port : Nat) (bs : List Byte) : Option Flow :=
  if fieldLE bs 0 1 % 2 = 0 then none
  else
    some { port := port, id := fieldLE bs 4 4, dir := bits (fieldLE bs 0 1) 1 1, iface := bits (fieldLE bs 0 1) 3 2
           remote := fieldLE bs 8 16, remotePort := fieldLE bs 24 2, window := fieldLE bs 26 2, winBase := fieldLE bs 32 8
           winSize := fieldLE bs 40 8, ctrAddr := fieldLE bs 48 8, increment := fieldLE bs 56 8 }

/-- Bytes of a table: its header, four interface entries and 256 flow entries. -/
def edgeTableBytes : Nat := 128 + 4 * 32 + 256 * 64

/-- The port reads its table and every flow starts at PSN 0; a table out of memory leaves the port without flows. -/
def State.readEdge (s : State) (p : Nat) : State :=
  let a := s.reg .portEdgeTable p
  let others := s.flows.filter (fun f => f.port != p)
  if !s.hostRange a edgeTableBytes then ({ s with flows := others }).unmapped a
  else
    let entries := (List.range 256).filterMap (fun i => flowOf p (s.bytes (a + 256 + 64 * i) 64))
    let s := s.modPort p (fun x => { x with ifaces := (List.range 4).map (fun i => s.bytes (a + 128 + 32 * i) 32) })
    { s with flows := others ++ entries }

/-- EDGE_COMMIT (R287). -/
def execEdgeCommit (p : Nat) (s : State) : Out :=
  if s.flows.any (fun f => f.port == p && f.busy) then .next (s.flag .portFlowBusy p) else .next (s.readEdge p)

/-! ### Flows -/

def State.modFlow (s : State) (p id dir : Nat) (k : Flow → Flow) : State :=
  { s with flows := s.flows.map (fun f => if f.port = p && f.id = id && f.dir = dir then k f else f) }

/-- A flow of a port that is in edge mode. -/
def State.flow? (s : State) (p id dir : Nat) : Option Flow :=
  if s.reg .portMode p = 1 then s.flows.find? (fun f => f.port == p && f.id == id && f.dir == dir) else none

/-- The flow that a received packet belongs to: its source address, source port and `FLOW_ID` match a valid entry. -/
def State.flowOfPacket (s : State) (p dir : Nat) (k : TransportPacket) : Option Flow :=
  if s.reg .portMode p = 1 then
    s.flows.find? (fun f => f.port == p && f.dir == dir && f.id == k.flowId && f.remote == k.srcAddr && f.remotePort == k.srcPort)
  else none

/-- A packet of a flow of this port, from the interface's own address. -/
def State.sendFlow (s : State) (f : Flow) (type flags psn ackPsn off xferId : Nat) (payload : List Byte) : State :=
  let own := fieldLE ((s.port f.port).ifaces.getD f.iface []) 0 16
  s.send (.transport f.port type ⟨own, s.reg .portUdpPort f.port, flags, f.id, psn, ackPsn, off, xferId, payload⟩)

/-- A discarded frame is counted (R285, R287). -/
def State.edgeDrop (s : State) (p : Nat) : State := s.bump .portEdgeDrops p 1

/-- A fault without a unit of its own ends a command: its error record, and `DETAIL` names it (R348). -/
def State.faultDone (s : State) (h : Cmd) (cls unit : Nat) : State :=
  let n := s.reg .modErrCount 0
  let r : ErrRecord := { origin := s.origin 4 unit, cls := cls, action := 0, outcome := 1, stopTs := s.now, resumeTs := 0
                         unit := unit, job := (s.entry h).jobId }
  (s.errRecord r s.now).finish h { status := stFault, detail := n }

/-- The flow carries nothing until the next commit; the transfer it was sending fails (R288, R289). -/
def State.failFlow (s : State) (f : Flow) : State :=
  let s := s.modFlow f.port f.id f.dir (fun f => { f with failed := true, sending := none, unacked := [] })
  match f.sending with
  | some x => s.faultDone x.1 6 f.port
  | none => s

/-- The flow fails at this end and the other end hears of it. -/
def State.resetFlow (s : State) (f : Flow) (reason : Nat) : State := (s.sendFlow f 3 reason 0 0 0 0 []).failFlow f

/-! ### Egress (R288, R289) -/

def packets (length : Nat) : Nat := max 1 (ceilDiv length 8192)

/-- Packet i of the transfer that a flow sends, under its PSN. -/
def State.sendPart (s : State) (f : Flow) (psn i : Nat) : State :=
  match f.sending with
  | none => s
  | some (_, src, dst, n) =>
    let last := if i + 1 = packets n then 1 else 0
    (s.readRange none clsCollective false (src + 8192 * i) (min 8192 (n - 8192 * i))).sendFlow f 1 last psn 0 (dst + 8192 * i) f.xferId (s.bytes (src + 8192 * i) (min 8192 (n - 8192 * i)))

/-- New packets go out while the window is open and the interface is not paused. -/
def State.pumpFlow (s : State) (p id : Nat) : Nat → State
  | 0 => s
  | k + 1 =>
    match s.flow? p id 1 with
    | none => s
    | some f =>
      match f.sending with
      | none => s
      | some (_, _, _, n) =>
        if f.sentPkts < packets n && f.unacked.length < f.window && !(s.port p).paused.contains f.iface then
          let s := s.sendPart f f.nextPsn f.sentPkts
          (s.modFlow p id 1 (fun f => { f with
            nextPsn := (f.nextPsn + 1) % 2 ^ 32, sentPkts := f.sentPkts + 1
            unacked := f.unacked ++ [(f.nextPsn, f.sentPkts, 1, s.now)] })).pumpFlow p id k
        else s

/-- Every packet of the transfer is acknowledged: its XFER completes. -/
def State.egressDone (s : State) (p id : Nat) : State :=
  match s.flow? p id 1 with
  | none => s
  | some f =>
    match f.sending with
    | none => s
    | some (h, _, _, n) =>
      if f.unacked.isEmpty && decide (packets n ≤ f.sentPkts) then
        (s.modFlow p id 1 (fun f => { f with sending := none, sentPkts := 0, xferId := (f.xferId + 1) % 2 ^ 32 })).finish h {}
      else s

/-- A transfer starts on a flow. -/
def State.egressStart (s : State) (h : Cmd) (p id src dst n : Nat) : State :=
  (s.modFlow p id 1 (fun f => { f with sending := some (h, src, dst, n), sentPkts := 0 })).pumpFlow p id (packets n)

/-- A PSN is sent again, unless flow control holds the interface; after eight retransmissions the flow fails (R285, R288;
log 37). -/
def State.retransmit (s : State) (p id psn : Nat) : State :=
  match s.flow? p id 1 with
  | none => s
  | some f =>
    match f.unacked.find? (fun u => u.1 == psn) with
    | none => s
    | some (_, i, n, _) =>
      if f.failed || (s.port p).paused.contains f.iface then s
      else if n ≥ 9 then s.resetFlow f 0
      else
        let s := (s.sendPart f psn i).bump .portEdgeRetx p 1
        s.modFlow p id 1 (fun f => { f with unacked := f.unacked.map (fun u => if u.1 = psn then (u.1, u.2.1, u.2.2.1 + 1, s.now) else u) })

/-- TRANSPORT_ACK (R286, R288): PSNs below `ACK_PSN` and those that `SACK` names are released, and one with three later PSNs
received is sent again. -/
def execTransportAck (p : Nat) (k : TransportPacket) (s : State) : Out :=
  match s.flowOfPacket p 1 k with
  | none => .next (s.edgeDrop p)
  | some f =>
    if f.failed then .next s
    else
      let after := fun psn => (psn + 2 ^ 32 - k.ackPsn) % 2 ^ 32
      let sacked := fun psn => decide (1 ≤ after psn) && decide (after psn ≤ 64) && bit k.offsetOrSack (after psn - 1)
      let acked := fun psn => decide (2 ^ 31 ≤ after psn) || sacked psn
      let later := fun psn => ((List.range 64).filter (fun i => bit k.offsetOrSack i && decide (after psn < i + 1))).length
      let left := f.unacked.filter (fun u => !acked u.1)
      let again := (left.filter (fun u => decide (3 ≤ later u.1))).map (·.1)
      let s := s.modFlow p f.id 1 (fun f => { f with unacked := left })
      let s := again.foldl (fun s psn => s.retransmit p f.id psn) s
      .next ((s.pumpFlow p f.id f.window).egressDone p f.id)

/-- EDGE_RTO (R288): a PSN that is still not acknowledged after `EDGE_RTO` microseconds. -/
def execEdgeRto (p flowId psn : Nat) (s : State) : Out :=
  match s.flow? p flowId 1 with
  | none => .next s
  | some f =>
    if f.unacked.any (fun u => u.1 == psn && decide (u.2.2.2 + 2000 * s.reg .portEdgeRto p ≤ s.now)) then .next (s.retransmit p flowId psn)
    else .next s

/-- TRANSPORT_RESET (R288). -/
def execTransportReset (p : Nat) (k : TransportPacket) (s : State) : Out :=
  match s.flowOfPacket p 1 k, s.flowOfPacket p 0 k with
  | none, none => .next (s.edgeDrop p)
  | some f, none => .next (s.failFlow f)
  | none, some f => .next (s.failFlow f)
  | some f, some g => .next ((s.failFlow f).failFlow g)

/-! ### Ingest (R288, R289) -/

/-- The ACK of an ingest flow: what is next in order and what has come beyond it. -/
def State.sendAck (s : State) (f : Flow) : State :=
  let sack := (List.range 64).foldl (fun a i => if f.got.contains ((f.ackPsn + 1 + i) % 2 ^ 32) then a + 2 ^ i else a) 0
  (s.sendFlow f 2 0 0 f.ackPsn sack 0 []).modFlow f.port f.id 0 (fun f => { f with sinceAck := 0 })

/-- PSNs that have become in order are passed; each `LAST` among them completes a transfer. -/
def Flow.passPsns (f : Flow) (n : Nat) : Nat → Flow × Nat
  | 0 => (f, n)
  | k + 1 =>
    if !f.got.contains f.ackPsn then (f, n)
    else
      let last := f.lasts.contains f.ackPsn
      let g := { f with got := f.got.erase f.ackPsn, lasts := f.lasts.erase f.ackPsn, ackPsn := (f.ackPsn + 1) % 2 ^ 32
                        inTransfer := !last }
      g.passPsns (if last then n + 1 else n) k

/-- Transfers that are complete add to the flow's counter (R102, R289). -/
def State.ingestDone (s : State) (f : Flow) : Nat → State
  | 0 => s
  | n + 1 =>
    (if f.ctrAddr = 0 then s
     else if s.counterOk f.ctrAddr then s.counterAdd f.ctrAddr f.increment else s.unmapped f.ctrAddr).ingestDone f n

/-- A new packet is written and acknowledged: at once on a gap, else after 16 (R288). -/
def State.ingest (s : State) (f : Flow) (k : TransportPacket) : State :=
  let a := f.winBase + k.offsetOrSack
  let s := if s.hostRange a k.payload.length then s.store a k.payload none clsCollective else s.unmapped a
  let late := k.psn ≠ f.ackPsn
  let g := { f with got := k.psn :: f.got, lasts := if k.flags % 2 = 1 then k.psn :: f.lasts else f.lasts
                    sinceAck := f.sinceAck + 1, firstNew := if f.sinceAck = 0 then s.now else f.firstNew, inTransfer := true }
  let (g, n) := g.passPsns 0 g.got.length
  let s := (s.modFlow f.port f.id 0 (fun _ => g)).ingestDone g n
  if late || g.sinceAck ≥ 16 then s.sendAck g else s

/-- TRANSPORT_DATA (R286 to R289, R362). -/
def execTransportData (p : Nat) (k : TransportPacket) (s : State) : Out :=
  if s.reg .modPowerState 0 = 1 then .next s
  else
    match s.flowOfPacket p 0 k with
    | none => .next (s.edgeDrop p)
    | some f =>
      if f.failed then .next s
      else if decide (2 ^ 31 ≤ (k.psn + 2 ^ 32 - f.ackPsn) % 2 ^ 32) || f.got.contains k.psn then .next (s.sendAck f)
      else if f.winSize < k.offsetOrSack + k.payload.length then .next (s.resetFlow f 1)
      else .next (s.ingest f k)

/-- ACK_TIMER (R288): 2 µs after the first packet that is not acknowledged. -/
def execAckTimer (p flowId : Nat) (s : State) : Out :=
  match s.flow? p flowId 0 with
  | none => .next s
  | some f => if f.sinceAck = 0 || f.failed || decide (s.now < f.firstNew + 4000) then .next s else .next (s.sendAck f)

/-! ### Frames (R285) -/

/-- The local address of an interface. -/
def State.ifaceAddr (s : State) (p iface : Nat) : Option Nat :=
  if s.reg .portMode p = 1 then (s.port p).ifaces[iface]?.map (fun bs => fieldLE bs 0 16) else none

/-- NEIGHBOR_SOLICITATION: answered for the interface's own address. -/
def execNeighborSolicitation (p iface target : Nat) (s : State) : Out :=
  if s.ifaceAddr p iface = some target then .next (s.send (.frame p iface (bytesLE 16 target))) else .next s

/-- ECHO_REQUEST: answered for the interface's own address. -/
def execEchoRequest (p iface target : Nat) (body : List Byte) (s : State) : Out :=
  if s.ifaceAddr p iface = some target then .next (s.send (.frame p iface body)) else .next s

/-- PRIORITY_FLOW_CONTROL: honoured on the transport's priority where `PFC_EN` is set, else discarded and counted. -/
def execPriorityFlowControl (p iface : Nat) (priorities : Nat) (s : State) : Out :=
  if s.reg .portPfcEn p = 0 then .next (s.edgeDrop p)
  else if bit priorities (s.reg .portPfcPrio p) then
    .next (s.modPort p (fun x => { x with paused := if x.paused.contains iface then x.paused else iface :: x.paused }))
  else
    let s := s.modPort p (fun x => { x with paused := x.paused.filter (· != iface) })
    .next (s.flows.foldl (fun s f => if f.port = p && f.iface = iface && f.dir = 1 then s.pumpFlow p f.id f.window else s) s)

/-- FRAME_DISCARD. -/
def execFrameDiscard (p : Nat) (s : State) : Out := .next (s.edgeDrop p)

end Sys2Proof.Machine
end

