-- ==== Sys2Proof/Machine/Transfers.lean ====
section
/-!
DEFINITION. Transfers over the torus: segments, their packets at the source and at the destination, and the answers (R279 to
R281).
-/
namespace Sys2Proof.Machine

def segmentBytes : Nat := 0x1000000

/-- The bytes of a DATA extension (R278). -/
def dataExt (addr total ctr inc : Nat) : List Byte :=
  bytesLE 6 addr ++ bytesLE 2 total ++ bytesLE 6 ctr ++ [0, 0] ++ bytesLE 6 inc ++ List.replicate 10 0

/-- The partition tag of a command's job. -/
def State.tagOf (s : State) (h : Cmd) : Nat := match s.jobOf h with | some j => j.tag | none => 0

/-- A segment is the last of its transfer. -/
def Xfer.final (x : Xfer) (id : Nat) : Bool := (x.segs.getLast?.map (·.1)) == some id

/-- Packet i of a segment. -/
def State.dataPacket (s : State) (x : Xfer) (id off len i : Nat) : Packet :=
  let n := max 1 (ceilDiv len 4096)
  let fin := x.final id
  let bs := s.bytes (x.p.src + off + 4096 * i) (min 4096 (len - 4096 * i))
  s.ownPacket 1 x.p.dstModule (x.tag.getD (s.tagOf x.cmd)) id i 0
    (dataExt (x.p.dst + off + 4096 * i) n (if fin then x.p.ctrAddr else 0) (if fin then x.p.increment else 0)) bs

/-- The packets of a segment go out in order; none where one has no link to take (R284). -/
def State.sendPackets (s : State) (x : Xfer) (id off len : Nat) : List Nat → Option State
  | [] => some s
  | i :: is =>
    match s.forward (s.dataPacket x id off len i) none with
    | none => none
    | some s => s.sendPackets x id off len is

def State.sendSegment (s : State) (x : Xfer) (id off len : Nat) : Option State :=
  (s.readRange none clsCollective false (x.p.src + off) len).sendPackets x id off len (List.range (max 1 (ceilDiv len 4096)))

def State.dropXfer (s : State) (h : Cmd) : State := { s with xfers := s.xfers.filter (fun y => !(y.cmd == h)) }

def State.setSeg (s : State) (h : Cmd) (id st : Nat) : State :=
  { s with xfers := s.xfers.map (fun y =>
      if y.cmd = h then { y with segs := y.segs.map (fun g => if g.1 = id then (g.1, g.2.1, g.2.2.1, st) else g) } else y) }

/-- A transfer completes its command: an XFER, or an OPT_STEP whose training state is committed at the buddy (R279, R350). -/
def State.xferOver (s : State) (h : Cmd) : State :=
  let o := s.entry h
  if s.isOut h && o.opcode = 0x45 then
    let s := (s.bump .modMirrorStep 0 1).flag .modMirrorOk 0
    let ids := [fieldLE o.params 0 4, fieldLE o.params 4 4, fieldLE o.params 8 4]
    let mark := fun (t : Tensor) => if t.job = o.jobId && ids.contains t.p.id then { t with mirrored := true } else t
    let s := { s with tensors := s.tensors.map mark }
    s.complete h { numFlags := natLE o.held }
  else s.finish h {}

/-- A transfer ends without its last answer; the mirror's commit has then failed (R350). -/
def State.xferLost (s : State) (h : Cmd) : State :=
  let s := s.dropXfer h
  if (s.entry h).opcode = 0x45 then s.put .modMirrorOk 0 0 else s

/-- One segment is sent, or the transfer ends because it cannot be (R280, reason 4). -/
def State.launch (s : State) (x : Xfer) (g : Nat × Nat × Nat × Nat) : State :=
  match s.sendSegment x g.1 g.2.1 g.2.2.1 with
  | some s => s.setSeg x.cmd g.1 1
  | none => (s.xferLost x.cmd).faultDone x.cmd 6 0

/-- Segments that may go now: up to eight in flight, the final one only after every other has been answered (R279). -/
def Xfer.ready (x : Xfer) : List (Nat × Nat × Nat × Nat) :=
  let flying := (x.segs.filter (fun g => g.2.2.2 == 1 || g.2.2.2 == 3)).length
  let waiting := x.segs.filter (fun g => g.2.2.2 == 0)
  let others := waiting.filter (fun g => !x.final g.1)
  if others.isEmpty then (if flying = 0 then waiting else []) else others.take (8 - flying)

def State.pumpXfer (s : State) (h : Cmd) : State :=
  match s.xfers.find? (fun x => x.cmd == h) with
  | none => s
  | some x => x.ready.foldl (fun s g => if s.xfers.any (fun y => y.cmd == h) then s.launch x g else s) s

/-- The segments of a transfer (R279). -/
def segments (first len : Nat) : List (Nat × Nat × Nat × Nat) :=
  (List.range (max 1 (ceilDiv len segmentBytes))).map (fun i =>
    ((first + i) % 2 ^ 32, segmentBytes * i, min segmentBytes (len - segmentBytes * i), 0))

/-- A transfer within the module moves over the die-to-die links (R279). -/
def State.localXfer (s : State) (h : Cmd) (p : XferParams) : State :=
  if !s.hostRange p.dst p.length then s.addrFail h p.dst
  else if p.ctrAddr ≠ 0 && !s.counterOk p.ctrAddr then s.addrFail h p.ctrAddr
  else
    let s := (s.readRange none clsCollective false p.src p.length).store p.dst (s.bytes p.src p.length) none clsCollective
    let s := if regionOf p.dst = some .hbm then { s with xferSources := (p.dst, p.length, s.self, p.src) :: s.xferSources } else s
    (if p.ctrAddr = 0 then s else s.counterAdd p.ctrAddr p.increment).ok h

/-- An egress transfer (R289): it waits while its flow sends another. -/
def State.edgeXfer (s : State) (h : Cmd) (p : XferParams) : State :=
  match s.flow? p.edgePort p.edgeFlow 1 with
  | none => s.bad h 52
  | some f =>
    if f.failed then (s.hold h 0x50 []).faultDone h 6 p.edgePort
    else if f.sending.isSome then s
    else (s.hold h 0x50 []).egressStart h p.edgePort p.edgeFlow p.src p.dst p.length

/-- XFER (R150, R261, R279, R289). -/
def execXfer (h : Cmd) (p : XferParams) (s : State) : Out :=
  let s := if s.ready h then s.refetchFirst p.src p.length else s
  let checks := [s.param h (decide (p.route ≤ 1)) 48, check (decide (p.dstModule < 2 ^ 18)) stReserved (s.at h (if p.dstModule / 2 ^ 18 % 64 = 0 then 19 else 18)),
                 s.param h (p.route == 1 || decide (p.increment < 2 ^ 48)) 40, s.param h (p.route == 0 || decide (p.edgePort ≤ 5)) 49]
  let x : Xfer := { cmd := h, p := p, segs := segments s.nextXfer p.length }
  let s1 := s.hold h 0x50 []
  let s2 := { s1 with xfers := s1.xfers ++ [x], nextXfer := (s1.nextXfer + x.segs.length) % 2 ^ 32 }
  s.run h checks
    (if !s.hostRange p.src p.length then s.addrFail h p.src
     else if s.poisoned p.src p.length then s.rdStop h 0x50 (s.poisonErr p.src p.length)
     else if p.route = 1 then s.edgeXfer h p
     else if p.dstModule = s.self then s.localXfer h p
     else s2.pumpXfer h)

/-! ### Mirrors of the training state (R350) -/

/-- Ranges of memory as the segments of one transfer, each by its own address. -/
def rangeSegments (first : Nat) (rs : List (Nat × Nat)) : List (Nat × Nat × Nat × Nat) :=
  let cut := rs.flatMap (fun r => (List.range (max 1 (ceilDiv r.2 segmentBytes))).map (fun i =>
    (r.1 + segmentBytes * i, min segmentBytes (r.2 - segmentBytes * i))))
  (List.range cut.length).map (fun i => ((first + i) % 2 ^ 32, (cut.getD i (0, 0)).1, (cut.getD i (0, 0)).2, 0))

/-- The member that holds this member's mirror: the next one on the first axis with more than one member. -/
def Job.buddy (j : Job) : Nat :=
  let axis := if j.nx > 1 then 0 else if j.ny > 1 then 1 else 2
  j.member axis ((j.coord j.rank axis + 1) % max 1 (j.ringSize axis))

/-- The 64-byte commit record of a mirror: the step, the ranges of W, m and v, and the length of the histories (log 38). -/
def commitRecord (step : Nat) (states : List (Nat × Nat)) (hist : Nat) : List Byte :=
  bytesLE 8 step ++ padTo 48 (states.flatMap (fun r => bytesLE 8 r.1 ++ bytesLE 8 r.2)) ++ bytesLE 8 hist

/-- The ranges that a commit record names. -/
def commitRanges (bs : List Byte) : List (Nat × Nat) :=
  let n := fieldLE bs 56 8
  ((List.range 3).map (fun i => (fieldLE bs (8 + 16 * i) 8, fieldLE bs (16 + 16 * i) 8))).filter (fun r => r.2 ≠ 0) ++
    (if n = 0 then [] else [(mirrorBuffer + 64, n)]) ++ [(mirrorBuffer, 64)]

/-- The restart step's state has arrived whole: the histories of tensors that had been created before it are set. -/
def State.restoreHist (s : State) : State :=
  { s with tensors := s.tensors.map (fun t =>
      if t.p.policy = 1 && t.hist.isEmpty then { t with hist := s.restartHist t.job t.p.id } else t) }

/-- The training state that an OPT_STEP has written goes to the buddy's slot, its commit record last; the command completes
with the answer to that record. A job of one member has no buddy. -/
def State.mirror (s : State) (h : Cmd) (p : OptParams) (flags : Nat) : State :=
  match s.jobOf h with
  | none => s.complete h { numFlags := flags }
  | some j =>
    if j.ranks.length < 2 then s.complete h { numFlags := flags }
    else
      let step := s.reg .modMirrorStep 0 + 1
      let hist := ((s.tensors.filter (fun t => t.job == j.id && t.p.policy == 1)).flatMap Tensor.histBytes).take (mirrorBufferBytes - 64)
      let s := s.hold h 0x45 (bytesLE 1 flags)
      let named := fun (o : Outstanding) =>
        if o.cmd = h then { o with params := bytesLE 4 p.w ++ bytesLE 4 p.m ++ bytesLE 4 p.v ++ o.params.drop 12 } else o
      let s := { s with outstanding := s.outstanding.map named }
      let states := [p.w, p.m, p.v].filterMap (fun id => (s.tensor? j.id id).map (fun (t : Tensor) => (t.p.base, t.bytes)))
      let s := s.write mirrorBuffer (commitRecord step states hist.length ++ hist)
      let ranges := states ++ (if hist.isEmpty then [] else [(mirrorBuffer + 64, hist.length)]) ++ [(mirrorBuffer, 64)]
      let x : Xfer :=
        { cmd := h, segs := rangeSegments s.nextXfer ranges
          p := { src := 0, dst := Config.mirrorSlot s.self (step % 2), dstModule := j.ranks.getD j.buddy 0, length := 0, ctrAddr := 0
                 increment := 0, route := 0, edgePort := 0, edgeFlow := 0 } }
      ({ s with xfers := s.xfers ++ [x], nextXfer := (s.nextXfer + x.segs.length) % 2 ^ 32 }).pumpXfer h

/-- An owner has been declared lost: its slots are read-only from then on (R351). -/
def State.ownerLost (s : State) (owner : Nat) : Bool :=
  s.jobs.any (fun j => match j.loss with | some (_, _, r, _) => j.ranks.getD r 0 == owner | none => false)

/-- A commit record of an owner has arrived in one of its slots. -/
def State.mirrorCommit (s : State) (k : Packet) (e : DataExt) : State :=
  if k.payload.length ≠ 64 || s.ownerLost k.src then s
  else
    match [0, 1].find? (fun i => e.destAddr == Config.mirrorSlot k.src i + mirrorBuffer) with
    | some i =>
      let step := fieldLE k.payload 0 8
      let others := s.mirrors.filter (fun (m : Mirror) => !(m.owner == k.src && m.slot == i))
      let s := { s with mirrors := others ++ [(⟨k.src, i, step, commitRanges k.payload⟩ : Mirror)] }
      s.put .modMirrorHeldStep 0 step
    | none => if e.destAddr = mirrorBuffer then s.restoreHist else s

/-! ### The restart of a job that has lost a member (R352) -/

/-- Firmware sends ranges of a mirror to a module, from byte `part.1` of each on, `part.2` of them, to their own addresses or to `addr` on. -/
def State.sendMirror (s : State) (j : Job) (m : Mirror) (dst addr : Nat) (cut : Nat → Nat × Nat) : State :=
  let base := Config.mirrorSlot m.owner m.slot
  let ranges := (m.ranges.map (fun r => (r.1 + (cut r.2).1, (cut r.2).2))).filter (fun r => r.2 ≠ 0)
  let h : Cmd := ⟨64, s.nextXfer⟩
  let x : Xfer := { cmd := h, tag := some j.tag, segs := rangeSegments s.nextXfer ranges
                    p := { src := base, dst := addr, dstModule := dst, length := 0, ctrAddr := 0, increment := 0, route := 0, edgePort := 0, edgeFlow := 0 } }
  if ranges.isEmpty then s
  else ({ s with xfers := s.xfers ++ [x], nextXfer := (s.nextXfer + x.segs.length) % 2 ^ 32 }).pumpXfer h

/-- The map of a restart keeps every member in its place but the lost one, whose place a spare takes (R352). -/
def pinned (old new : List Nat) (lost : Nat) : Bool :=
  old.length == new.length && (old.zip new).all (fun x => x.1 == x.2 || x.1 == lost) && !new.contains lost

/-- What this module sends as the buddy of one member: its slot of step M, to the spare or in equal parts to the survivors where the
owner is lost, and back to an owner whose own state is at step M + 1 (R352; log 38). -/
def State.sendRestart (s : State) (old j : Job) (lostRank step : Nat) : State :=
  let lost := old.ranks.getD lostRank 0
  match s.mirrors.find? (fun m => m.step == step && old.ranks.contains m.owner) with
  | none => s
  | some m =>
    if m.owner = lost then
      if pinned old.ranks j.ranks lost then s.sendMirror j m (j.ranks.getD lostRank 0) 0 (fun n => (0, n))
      else
        j.ranks.zipIdx.foldl (fun s x => s.sendMirror j m x.1 (Config.recutPlace lost) (fun n =>
          let per := n / 4 / j.ranks.length * 4
          (x.2 * per, if x.2 + 1 = j.ranks.length then n - x.2 * per else per))) s
    else if j.ranks.contains m.owner && s.mirrors.any (fun y => y.owner == m.owner && y.step == step + 1) then
      s.sendMirror j m m.owner 0 (fun n => (0, n))
    else s

/-- A job that is admitted again after the loss of a member restarts at step M; a member that had gone on to M + 1 is at M again
(R352). -/
def State.restartJob (s : State) (j : Job) : State :=
  match s.jobs.find? (fun o => o.lost && !o.restarted && o.tag == j.tag && o.ranks.contains s.self) with
  | none => s
  | some o =>
    match o.loss with
    | none => s
    | some (_, _, rank, step) =>
      let s := (s.modJob o.id (fun o => { o with restarted := true })).modJob j.id (fun j => { j with restart := some step })
      let s := if s.reg .modMirrorStep 0 = step + 1 then s.put .modMirrorStep 0 step else s
      s.sendRestart o j rank step

/-! ### At the destination (R280, R281, R362) -/

/-- A packet of a segment that the table tracks or takes: its payload is written once, and a whole segment is answered. -/
def State.takeData (s : State) (k : Packet) (e : DataExt) (g : Segment) (others : List Segment) : State :=
  if g.got.contains k.pktIndex then s
  else
    let s := (s.store e.destAddr k.payload none clsCollective).mirrorCommit k e
    let s := if regionOf e.destAddr = some .hbm then
        { s with xferSources := (e.destAddr, k.payload.length, k.src, 0) :: s.xferSources } else s
    let got := k.pktIndex :: g.got
    if got.length < e.pktTotal then { s with segments := others ++ [{ g with got := got }] }
    else
      let s := if e.ctrAddr = 0 then s else s.counterAdd e.ctrAddr e.increment (some k.ts)
      ({ s with segments := others ++ [{ g with got := got, complete := true, doneTs := s.now }] }).sendDone k.src k.tag k.xferId

/-- The entry of a new segment: a free one, or that of the oldest completed segment; none where every entry is incomplete. -/
def State.segmentRoom (s : State) : Option (List Segment) :=
  if s.segments.length < 4096 then some s.segments
  else
    match s.segments.find? (·.complete) with
    | some g => some (s.segments.erase g)
    | none => none

/-- The tags that the module accepts (R281). -/
def State.tagAccepted (s : State) (tag : Nat) : Bool :=
  (List.range 4).any (fun n => s.reg .fabTagValid 0 n == 1 && s.reg .fabAcceptTag 0 n == tag % 4096)

/-- DATA (R280, R281, R362). -/
def execData (k : Packet) (e : DataExt) (s : State) : Out :=
  if k.dest ≠ s.self then .next s
  else if s.reg .modPowerState 0 = 1 then .next (s.sendNack k 3)
  else if !s.tagAccepted k.tag then .next ((s.bump .fabTagDrops 0 1).sendNack k 2)
  else
    match s.segments.find? (fun g => g.src == k.src && g.xferId == k.xferId) with
    | some g =>
      if g.complete then .next (s.sendDone k.src k.tag k.xferId)
      else if e.pktTotal ≤ k.pktIndex then .next s
      else if !s.hostRange e.destAddr k.payload.length || (e.ctrAddr ≠ 0 && !s.counterOk e.ctrAddr) then
        .next ((s.unmapped e.destAddr).sendNack k 3)
      else .next (s.takeData k e g (s.segments.erase g))
    | none =>
      match s.segmentRoom with
      | none => .next (s.sendNack k 1)
      | some others =>
        if e.pktTotal ≤ k.pktIndex then .next s
        else if !s.hostRange e.destAddr k.payload.length || (e.ctrAddr ≠ 0 && !s.counterOk e.ctrAddr) then
          .next ((s.unmapped e.destAddr).sendNack k 3)
        else .next (s.takeData k e { src := k.src, xferId := k.xferId, total := e.pktTotal, got := [] } others)

/-- SEGMENT_ENTRY_EXPIRY (R280): 10 ms after its completion an entry is released. -/
def execSegmentEntryExpiry (src xferId : Nat) (s : State) : Out :=
  .next { s with segments := s.segments.filter (fun g =>
    !(g.src == src && g.xferId == xferId && g.complete && decide (g.doneTs + 20000000 ≤ s.now))) }

/-! ### At the source (R279, R280) -/

/-- The transfer that a segment belongs to. -/
def State.xferOf (s : State) (dst id : Nat) : Option Xfer :=
  s.xfers.find? (fun x => x.p.dstModule == dst && x.segs.any (fun g => g.1 == id && (g.2.2.2 == 1 || g.2.2.2 == 3)))

/-- XFER_DONE (R279): the final segment completes the transfer. -/
def execXferDone (k : Packet) (s : State) : Out :=
  match s.xferOf k.src k.xferId with
  | none => .next s
  | some x =>
    if x.final k.xferId then .next ((s.dropXfer x.cmd).xferOver x.cmd)
    else .next ((s.setSeg x.cmd k.xferId 2).pumpXfer x.cmd)

/-- A refused segment (R280): reason 1 is sent again later, 2 and 3 are address errors, 4 is a fault. -/
def State.xferRefused (s : State) (x : Xfer) (id reason : Nat) : State :=
  match reason with
  | 1 =>
    let s := s.setSeg x.cmd id 3
    let note := fun (y : Xfer) => if y.cmd = x.cmd then { y with nacked := (id, s.now) :: y.nacked.filter (fun n => n.1 != id) } else y
    { s with xfers := s.xfers.map note }
  | 2 => (s.xferLost x.cmd).finish x.cmd { status := stAddressError, detail := addrDetail }
  | 3 => (s.xferLost x.cmd).finish x.cmd { status := stAddressError, detail := addrDetail }
  | _ => (s.xferLost x.cmd).faultDone x.cmd 6 0

/-- XFER_NACK (R280). -/
def execXferNack (k : Packet) (s : State) : Out :=
  match s.xferOf k.src k.xferId with
  | none => .next s
  | some x => .next (s.xferRefused x k.xferId k.reason)

/-- SEGMENT_RESEND (R280): 10 µs after its NACK the whole segment goes again. -/
def execSegmentResend (xferId : Nat) (s : State) : Out :=
  match s.xfers.find? (fun x => x.segs.any (fun g => g.1 == xferId && g.2.2.2 == 3) &&
      x.nacked.any (fun n => n.1 == xferId && decide (n.2 + 20000 ≤ s.now))) with
  | none => .next s
  | some x =>
    match x.segs.find? (fun g => g.1 == xferId) with
    | none => .next s
    | some g => .next (s.launch x g)

/-! ### Packets that no link can take (R284) -/

/-- A packet goes on; where every detour link is missing, DATA is answered with reason 4 and the packet is discarded. A
transfer of this module hears of it at once. -/
def State.forwardOr (s : State) (k : Packet) (from? : Option Nat) : State :=
  match s.forward k from? with
  | some s => s
  | none =>
    if k.type ≠ 1 then s
    else if k.src = s.self then match s.xferOf k.dest k.xferId with | some x => s.xferRefused x k.xferId 4 | none => s
    else s.sendNack k 4

/-- PACKET_ROUTE (R281 to R284): a packet for another module goes on, whatever its tag. -/
def execPacketRoute (p : Nat) (k : Packet) (s : State) : Out :=
  if k.dest = s.self then .next s else .next (s.forwardOr k (some p))

end Sys2Proof.Machine
end

