-- ==== Sys2Proof/Machine/Jobs.lean ====
section
/-!
DEFINITION. Jobs: admission with the settlement of the contract version among the members, the end of a job, stage groups
and stage programs (R25 to R27, R148 to R150, R179, R180, R264, R265, R293, R301).
-/
namespace Sys2Proof.Machine

/-! ### Versions and member records (R26, R265) -/

/-- `FEATURES` of this module (R270): adaptive routing, fixed-order mode, half width, detour channel. -/
def ownFeatures : Nat := 15

/-- A version as a number that orders as versions do. -/
def versionNum (major minor : Nat) : Nat := 256 * major + minor

/-- The 64 bytes of this module's member record (R265). -/
def memberRecord (a : Pending) (rank : Nat) : List Byte :=
  bytesLE 1 2 ++ bytesLE 1 3 ++ bytesLE 1 0 ++ bytesLE 1 3 ++ bytesLE 1 ownFeatures ++ bytesLE 1 a.p.numerics ++
    bytesLE 1 a.p.collOrder ++ bytesLE 1 (a.p.sfMode + 16 * a.p.generator) ++ bytesLE 4 a.mapCrc ++ bytesLE 2 (a.p.tag % 4096) ++ [0, 0] ++
    bytesLE 4 rank ++ bytesLE 2 (versionNum a.p.major a.p.minor) ++ List.replicate 42 0

/-- A record implements a version: at or below its highest of the same major, or a 2.x version at or below its legacy
minor. -/
def implements (r : List Byte) (major minor : Nat) : Bool :=
  let hi := fieldLE r 1 1
  (hi == major && decide (minor ≤ fieldLE r 2 1)) || (major == 2 && fieldLE r 3 1 != 0xFF && decide (minor ≤ fieldLE r 3 1))

/-- The versions that this module implements, highest first (R412). -/
def ownVersions : List (Nat × Nat) := [(3, 0), (2, 3), (2, 2), (2, 1), (2, 0)]

/-- The version settled (R26, R265): the highest, at or below the one requested, that every record implements. -/
def settleVersion (major minor : Nat) (records : List (List Byte)) : Option (Nat × Nat) :=
  ownVersions.find? (fun v => decide (versionNum v.1 v.2 ≤ versionNum major minor) && records.all (fun r => implements r v.1 v.2))

/-- The highest version of the lowest member: major in [15:8], minor in [7:0] (R259). -/
def lowestMember (records : List (List Byte)) : Nat :=
  let vs := versionNum 3 0 :: records.map (fun r => versionNum (fieldLE r 1 1) (fieldLE r 2 1))
  vs.foldl min (versionNum 3 0)

/-- Offsets of the request fields in a member record with their lengths, and the parameter each stands for. -/
def requestFields : List (Nat × Nat × Nat) := [(20, 2, 0), (5, 1, 2), (6, 1, 3), (7, 1, 4), (12, 2, 6), (8, 4, 24)]

/-- The first request field in which a record differs from this module's: its parameter's offset. -/
def requestDiff (own : List Byte) (records : List (List Byte)) : Option Nat :=
  (requestFields.find? (fun f => records.any (fun r => fieldLE r f.1 f.2.1 != fieldLE own f.1 f.2.1))).map (fun f => f.2.2)

/-- The job is admitted with the settled version (R27, R264, R301): its pool comes from the Sump. -/
def State.admitJob (s : State) (a : Pending) (version : Nat × Nat) : State :=
  let h := a.cmd
  let o := s.entry h
  let legacy := version.1 = 2
  let need := if a.ranks.isEmpty then 0 else s.reg .modSumpJobSegs 0
  if s.reg .modSumpFree 0 < need then s.fail h stNoResources 0
  else
    let q := s.queue h.queue
    let j : Job := { id := s.nextJob, major := version.1, minor := version.2, numerics := a.p.numerics, collOrder := a.p.collOrder
                     sfMode := if legacy then 1 else a.p.sfMode, generator := if legacy then 1 else a.p.generator, tag := a.p.tag
                     seed := a.p.seed, format := queueFormat h.queue q, fwIf := q.fwIf, mapCrc := a.mapCrc, nx := a.nx, ny := a.ny
                     nz := a.nz, ranks := a.ranks, rank := a.ranks.idxOf s.self, pool := need, poolFree := need
                     claimMax := s.reg .modClaimMaxSegs 0 }
    let s := s.put .modSumpFree 0 (s.reg .modSumpFree 0 - need)
    let s := if need = 0 then s else s.bump .modCollJobs 0 1
    let s := { s with jobs := s.jobs ++ [j], nextJob := s.nextJob + 1, admitting := s.admitting.filter (fun x => !(x.cmd == o.cmd)) }
    (s.restartJob j).complete h { result := j.id, job := some j.id }

/-- The admission goes on once the records of all members are held (R265). -/
def State.settleJob (s : State) (a : Pending) : State :=
  let records := a.records.map (·.2)
  let own := memberRecord a (a.ranks.idxOf s.self)
  let drop := { s with admitting := s.admitting.filter (fun x => !(x.cmd == a.cmd)) }
  if a.records.length + 1 < a.ranks.length then s
  else
    match settleVersion a.p.major a.p.minor records with
    | none => drop.fail a.cmd stVersionContract (lowestMember records)
    | some v =>
      if a.p.collOrder = 1 && records.any (fun r => !bit (fieldLE r 4 1) 1) then drop.fail a.cmd stNotInVersion (s.at a.cmd 3)
      else
        match requestDiff own records with
        | some off => drop.bad a.cmd off
        | none => drop.admitJob a v

/-! ### Rank maps (R293) -/

/-- A rank map: extents, entries and the CRC of the entries; none where it breaks R293. -/
def State.rankMap (s : State) (a count : Nat) : Except RdErr (Option (Nat × Nat × Nat × List Nat × Nat)) := do
  let hd ← s.rdBytes a 16
  let nx := fieldLE hd 0 2
  let ny := fieldLE hd 2 2
  let nz := fieldLE hd 4 2
  let ext := fun n => decide (1 ≤ n) && decide (n ≤ 64)
  if !(ext nx && ext ny && ext nz) || !zeroLE hd 6 10 || count ≠ nx * ny * nz then .ok none
  else
    let bs ← s.rdBytes (a + 16) (4 * count)
    let ranks := (List.range count).map (fun r => fieldLE bs (4 * r) 4)
    if ranks.any (fun r => decide (2 ^ 18 ≤ r)) || ranks.eraseDups.length ≠ count then .ok none
    else .ok (some (nx, ny, nz, ranks, crc32c bs))

/-! ### JOB_ADMIT, JOB_HELLO and their answers (R264, R265) -/

def mkHello : Nat := 5
def mkHelloAck : Nat := 6

/-- Checks of JOB_ADMIT's own parameters (R25, R260). -/
def State.admitChecks (s : State) (h : Cmd) (p : JobParams) : List Check :=
  [s.param h (decide (p.numerics ≤ 1)) 2, s.param h (decide (p.collOrder ≤ 1)) 3, s.param h (decide (p.sfMode ≤ 1)) 4,
   s.param h (decide (p.generator ≤ 1)) 5, s.param h (decide (p.tag < 4096)) 6]

/-- The member's records: HELLOs held for this admission, for less than 10 ms, are answered, and a HELLO goes to every other member. -/
def State.sendHellos (s : State) (a : Pending) : State :=
  let own := memberRecord a (a.ranks.idxOf s.self)
  let fresh := s.hellos.filter (fun r => decide (s.now < r.2.2 + 20000000))
  let mine := fun (r : Nat × List Byte × Nat) => fieldLE r.2.1 8 4 == a.mapCrc && fieldLE r.2.1 12 2 == a.p.tag && a.ranks.contains r.1
  let held := (fresh.filter mine).map (fun r => (r.1, r.2.1))
  let s := { s with hellos := fresh.filter (fun r => !mine r) }
  let s := (a.ranks.filter (· ≠ s.self)).foldl (fun s r => s.sendMgmt r a.p.tag mkHello 0 own) s
  let s := held.foldl (fun s r => s.sendMgmt r.1 a.p.tag mkHelloAck 0 own) s
  { s with admitting := s.admitting ++ [{ a with records := held }] }

/-- JOB_ADMIT. With a rank map it waits for every member's record; with none it is settled at once. -/
def execJobAdmit (h : Cmd) (p : JobParams) (s : State) : Out :=
  let alone : Pending := { cmd := h, p := p, mapCrc := 0, nx := 1, ny := 1, nz := 1, ranks := [], records := [] }
  if p.rankMap = 0 then s.run h (s.admitChecks h p) (s.settleJob alone)
  else
    match s.rankMap p.rankMap p.rankCount with
    | .error e => s.run h (s.admitChecks h p) (s.rdStop h 0x10 e)
    | .ok none => s.run h (s.admitChecks h p) (s.bad h 24)
    | .ok (some (nx, ny, nz, ranks, crc)) =>
      let a : Pending := { alone with mapCrc := crc, nx := nx, ny := ny, nz := nz, ranks := ranks }
      let s1 := (s.hold h 0x10 []).sendHellos a
      s.run h (s.admitChecks h p ++ [s.param h (ranks.contains s.self) 24])
        (match s1.admitting.find? (fun x => x.cmd == h) with | some a => s1.settleJob a | none => s1)

/-- The admission that a member record belongs to (R265). -/
def State.admissionOf (s : State) (k : MgmtPacket) : Option Pending :=
  s.admitting.find? (fun a => a.mapCrc == fieldLE k.payload 8 4 && a.p.tag == fieldLE k.payload 12 2 && a.ranks.contains k.src)

/-- A member's record is held, once. -/
def State.takeRecord (s : State) (a : Pending) (src : Nat) (r : List Byte) : State :=
  let a : Pending := { a with records := a.records.filter (fun (x : Nat × List Byte) => !(x.1 == src)) ++ [(src, padTo 64 (r.take 64))] }
  let s := { s with admitting := s.admitting.map (fun (x : Pending) => if x.cmd = a.cmd then a else x) }
  s.settleJob a

/-- Two member records of one rank map and partition tag. -/
def sameAdmission (a b : List Byte) : Bool := fieldLE a 8 4 == fieldLE b 8 4 && fieldLE a 12 2 == fieldLE b 12 2

/-- JOB_HELLO (R265): answered while an admission with the same map and tag is pending, else held for up to 10 ms. -/
def execJobHello (k : MgmtPacket) (s : State) : Out :=
  match s.admissionOf k with
  | some a =>
    let own := memberRecord a (a.ranks.idxOf s.self)
    .next ((s.sendMgmt k.src a.p.tag mkHelloAck 0 own).takeRecord a k.src k.payload)
  | none => .next { s with hellos := s.hellos.filter (fun x => !(x.1 == k.src && sameAdmission x.2.1 k.payload)) ++ [(k.src, k.payload, s.now)] }

/-- JOB_HELLO_ACK (R265). -/
def execJobHelloAck (k : MgmtPacket) (s : State) : Out :=
  match s.admissionOf k with
  | some a => .next (s.takeRecord a k.src k.payload)
  | none => .next s

/-- JOB_HELLO_TIMEOUT (R265): a record is missing 10 ms after the command started. -/
def execJobHelloTimeout (h : Cmd) (s : State) : Out :=
  match s.admitting.find? (fun a => a.cmd == h) with
  | none => .next s
  | some _ =>
    if s.now < (s.entry h).startTs + 20000000 then .next s
    else .next (({ s with admitting := s.admitting.filter (fun a => !(a.cmd == h)) }).fail h stTimeout 2)

/-! ### JOB_END (R260, R301, R309) -/

/-- The job's tensors, stage groups, batches and pool are released. -/
def State.releaseJob (s : State) (id : Nat) : State :=
  match s.job? id with
  | none => s
  | some j =>
    if j.ended then s
    else
      let s := s.put .modSumpFree 0 (s.reg .modSumpFree 0 + j.pool)
      let s := if j.pool = 0 then s else s.put .modCollJobs 0 (s.reg .modCollJobs 0 - 1)
      { s with tensors := s.tensors.filter (fun t => !(t.job == id)), groups := s.groups.filter (fun g => !(g.job == id))
               plans := s.plans.filter (fun p => !(p.job == id))
               progress := s.progress.filter (fun p => !(p.job == id)), colls := s.colls.filter (fun c => !(c.job == id))
               jobs := s.jobs.map (fun j => if j.id = id then { j with ended := true, pool := 0, poolFree := 0 } else j) }

/-- The job's collectives abort with reason 2 (R309). -/
def State.abortColls (s : State) (id : Nat) : State :=
  match s.job? id with
  | none => s
  | some j => (s.colls.filter (fun c => c.job == id && c.cmd.isSome && !c.stopped)).foldl (fun s c => s.collCancel j c.seq) s

/-- JOB_END: its collectives abort; it completes, and releases, once every earlier command of the job is complete. -/
def execJobEnd (h : Cmd) (s : State) : Out :=
  let id := (s.entry h).jobId
  let s1 := s.abortColls id
  s.run h [s.jobCheck h]
    (if s1.isOut h && (s1.before h).any (fun o => o.jobId == id) then s1 else (s1.releaseJob id).complete h { job := some id })

/-! ### Stage groups and stage programs (R148, R179, R180, R260, R261) -/

/-- Chambers of a mask. -/
def maskChambers (mask : Nat) : List Nat := (List.range 256).filter (bit mask)

/-- The forms of a group (R148): one Chamber, Chambers of one Gallery, or whole Galleries; a retired Chamber counts as in. -/
def State.groupForm (s : State) (cs : List Nat) : Bool :=
  let gs := (cs.map (· / 8)).eraseDups
  decide (gs.length ≤ 1) ||
    gs.all (fun g => (List.range 8).all (fun i => cs.contains (8 * g + i) || s.reg .chRetired (8 * g + i) == 1))

/-- Strands of the Chamber that are live belong to jobs of one `SF_MODE` (R117). -/
def State.sfAgrees (s : State) (c mode : Nat) : Bool :=
  (List.range 4).all (fun i =>
    let st := s.reg .chState c i
    st == psEmpty || st == psDone || st == psRefused ||
      (match s.job? (s.strand c i).job with | some j => j.sfMode == mode | none => true))

/-- The Chamber with the table image of a job's `SF_MODE`, which the control complex loads where it is not active (R117). -/
def State.forMode (s : State) (c job : Nat) : State :=
  match s.job? job with
  | some j => if s.imageReady c job then s else s.loadPublished c j.sfMode
  | none => s

/-- STAGE_BIND: a group of the working Chambers named; during one job a Chamber belongs to one group at a time (R148), and each Pocket
keeps its 512 KiB for the stage (R149). Groups that firmware has placed give way to it (log 116). -/
def execStageBind (h : Cmd) (stageId layout stale mask : Nat) (s : State) : Out :=
  let job := (s.entry h).jobId
  let cs := (maskChambers mask).filter (fun c => s.reg .chRetired c == 0)
  let others := s.groups.filter (fun g => !(g.job == job && g.stageId == stageId))
  let meets := fun (g : StageGroup) => g.job == job && g.chambers.any cs.contains
  let taken := others.any (fun g => g.bound && meets g)
  let room := cs.all (fun c => decide (pocketKept ≤ s.pocketFree c job stageId))
  let g : StageGroup := { job := job, stageId := stageId, layout := layout, stale := stale, chambers := cs }
  let s1 := cs.foldl (fun s c => s.passChamber job c) s
  s.run h [s.jobCheck h, s.param h (decide (layout ≤ 1)) 2, s.param h (decide (stale ≤ 1)) 3,
           s.param h (s.groupForm (maskChambers mask)) 8, check (!cs.isEmpty && !taken && room) stNoResources 0]
    (({ s1 with groups := others.filter (fun (x : StageGroup) => x.bound || !meets x) ++ [g] }).ok h)

/-- STAGE_RUN: the strand takes the program in, for this command (R98, R261). It completes at STRAND_DONE. It waits while strands of
another `SF_MODE` hold the Chamber, or while the image of its own cannot become active (R117). A program of a 2.x job that names
G16 is refused (R27, R32). -/
def execStageRun (h : Cmd) (chamber strand prio header : Nat) (s : State) : Out :=
  let st := s.reg .chState chamber strand
  let free := st == psEmpty || st == psDone || st == psRefused
  let job := (s.entry h).jobId
  let seed := match s.job? job with | some j => j.seed | none => 0
  let mode := match s.job? job with | some j => j.sfMode | none => 0
  let s0 := s.forMode chamber job
  let s1 := (s0.passChamber job chamber).hold h 0x46 []
  let s1 := ((s1.setReg .chProgAddr chamber strand header).setReg .chPriority chamber strand prio)
  let s1 := (s1.setReg .chSrSeedLo chamber strand (seed % 2 ^ 64)).setReg .chSrSeedHi chamber strand (seed / 2 ^ 64)
  let s1 := s1.modStrand chamber strand (fun t => { t with job := job, cmd := some h })
  s.run h [s.jobCheck h, s.param h (decide (chamber < 256)) 0, s.param h (decide (strand < 4)) 1, s.param h (decide (prio ≤ 3)) 2,
           check (!(s.jobMajor job == 2 && s.namesG16 chamber header)) stNotInVersion (s.at h 8),
           check (s.reg .chRetired chamber == 0) stNoResources 0, check free stBusy 0]
    (if s.sfAgrees chamber mode && s0.imageReady chamber job then s1.go chamber strand else s)

end Sys2Proof.Machine
end

