-- ==== Sys2Proof/Machine/Contract.lean ====
section
/-!
DEFINITION. The contraction commands as whole operations on tensors: CONTRACT with its roles, split-K, lists, masks and
thin batches, and CONVOLVE (R21, R22, R49 to R52, R140 to R145, R170, R173 to R177, R181 to R191, R261, R262, R435, R436).
Every result element is one chain of the rules of the Facet, the Drain and the Store; which Chamber forms it is not seen
(R21, R137).
-/
namespace Sys2Proof.Machine

/-! ### Commands that resume (R353, R354) -/

/-- Every element of the rectangle has been written. -/
def Rect.written (x : Rect) : Bool := x.kDone == 0xFFFFFFFFFFFFFFFF

/-- Where the block of an element stands. -/
inductive Resume where
  | fresh
  | written
  /-- Its partial up to K index `k`. -/
  | upto (k : Nat) (acc : Acc44)
deriving DecidableEq, Repr

/-- The block of element (i, j) of an output of `rows` by `cols`: it resumes where one rectangle holds all of it. -/
def resumeAt (rects : List Rect) (rows cols i j : Nat) : Resume :=
  let r := i / 128 * 128
  let c := j / 128 * 128
  match rects.find? (fun x => decide (x.r0 ≤ r) && decide (min rows (r + 128) ≤ x.r1) && decide (x.c0 ≤ c) && decide (min cols (c + 128) ≤ x.c1)) with
  | none => .fresh
  | some x =>
    if x.written then .written
    else if x.kDone % 128 = 0 then .upto x.kDone (accRefill (x.partials.getD ((i - x.r0) * (x.c1 - x.c0) + (j - x.c0)) 0))
    else .fresh

/-- The progress entry that a command matches: its job, its opcode and the CRC of its parameters. -/
def State.heldEntry (s : State) (h : Cmd) (op : Nat) : Option Progress :=
  let o := s.entry h
  s.progress.find? (fun x => x.job == o.jobId && x.opcode == op && x.paramCrc == crc32c o.params)

/-- Its rectangles. -/
def State.heldRects (s : State) (h : Cmd) (op : Nat) : List Rect :=
  match s.heldEntry h op with | some x => x.rects | none => []

/-- A command has resumed; its entry is used up. -/
def State.dropEntry (s : State) (h : Cmd) (op : Nat) : State :=
  match s.heldEntry h op with | some x => { s with progress := s.progress.erase x } | none => s

/-! ### Outputs (R49 to R53, R174, R175, R209) -/

/-- Beside the flags of R62: a special-function domain case (R111), and a row of statistics whose `RANGE` has been set (R122). -/
def nfDomain : Nat := 256
def nfRange : Nat := 512

/-- An element of an output, with the value of its accumulator and the flags that forming it has raised. -/
structure OutElem where
  r : Nat
  c : Nat
  acc : Acc44
  flags : Nat := 0
deriving DecidableEq, Repr

/-- A part of an output that one Chamber forms: its view, its problem's number in a list, its elements, and the rectangles of the
extents that a resumed command had written before (R354). -/
structure OutPart where
  v : View
  listed : Nat
  elems : List OutElem
  /-- Scales of the two factors that the values come from (R49). -/
  sa : Nat := 0x3F800000
  sb : Nat := 0x3F800000
  chamber : Nat := 0
  rects : List Rect := []
  rows : Nat := 0
  cols : Nat := 0
deriving DecidableEq, Repr

/-- An element's block had been written when the command was saved. -/
def OutPart.written (p : OutPart) (r c : Nat) : Bool := resumeAt p.rects p.rows p.cols r c == .written

/-- What an operation hands to the Store. -/
structure Produced where
  parts : List OutPart := []
  amax : Nat := 0
  flags : Nat := 0
  /-- Bits of `FLAGS` of the status entry. -/
  status : Nat := 0
deriving DecidableEq, Repr

/-- A part's elements by the Chambers of a group that form them (R21, R148). -/
def OutPart.divide (p : OutPart) (d : Division) (cs : List Nat) : List OutPart :=
  (cs.zipIdx.map (fun x =>
    { p with chamber := x.1, elems := p.elems.filter (fun e => d.rank cs.length e.r e.c == x.2) })).filter (fun q => !q.elems.isEmpty)

def Produced.divide (r : Produced) (d : Division) (cs : List Nat) : Produced :=
  { r with parts := r.parts.flatMap (fun p => p.divide d cs) }

/-- The draws of an output tensor of a command (R208, R209, R261). -/
def State.outDraws (s : State) (h : Cmd) (t : Tensor) (stream : Nat) : Draws :=
  match s.jobOf h with
  | some j => ⟨j.generator, j.seed, stream % 2 ^ 64, t.p.idxBase⟩
  | none => ⟨0, 0, stream % 2 ^ 64, t.p.idxBase⟩

/-- An output of a backward product writes no separate copy (R175). -/
def Tensor.unsaved (t : Tensor) : Tensor := if t.p.saveMode = 2 then { t with p := { t.p with saveMode := 0 } } else t

/-- The saved copy as a tensor: rows one after the other at `SAVE_BASE` (R175; log 28). -/
def Tensor.saved (t : Tensor) : Tensor :=
  { t with p := { t.p with format := t.p.saveFmt, saveMode := 0, base := t.p.saveBase, rowStride := t.p.cols * fmtBytes t.p.saveFmt }
           scale := t.saveScale }

/-- A part as the Store has placed it: its converted elements, its writes, its flags, and what its Chamber counts for it. -/
structure PlacedPart where
  part : OutPart
  placed : List Placed
  writes : List (Nat × List Byte)
  flags : Nat
  tally : StoreTally
  /-- Lanes of GAUSS, Flowstone blocks and clamps. -/
  gauss : Nat := 0
  blocks : Nat := 0
  clamps : Nat := 0
deriving DecidableEq, Repr

/-- GAUSS words that form each value of an output, and the rows of 128 lanes that one of them covers: 128 in a drain, 4 in a MAP. -/
structure GaussUse where
  words : Nat := 0
  rows : Nat := 128
deriving DecidableEq, Repr

/-- The use of a drain function. -/
def drainGauss (func : Nat) : GaussUse := { words := if func = 0x30 then 1 else 0 }

/-- The conversions of a part and its writes (R53 to R61, R198). Where GAUSS forms the values, their indices must stay in range too
(R209, R213). Elements that stand written are formed again for the amax and the flags, and are not stored. -/
def OutPart.place (p : OutPart) (s : State) (strict : Bool) (dr : Draws) (gauss : GaussUse) (fin : OutPart → Nat → Nat → Acc44 → Acc44 × Nat) :
    Except RdErr PlacedPart := do
  let ys := p.elems.map (fun e => (e.r, e.c, fin p e.r e.c e.acc))
  let (all, t) := convertAll strict p.v p.listed dr (ys.map (fun y => (y.1, y.2.1, y.2.2.1)))
  let live := ys.filter (fun y => !p.written y.1 y.2.1)
  let (placed, tl) := if p.rects.isEmpty then (all, t) else convertAll strict p.v p.listed dr (live.map (fun y => (y.1, y.2.1, y.2.2.1)))
  let (ws, blocks, clamps) ← p.v.writesOf s placed
  let far := decide (0 < gauss.words) && ys.any (fun y => decide (2 ^ 56 ≤ dr.idxBase + p.v.logical p.listed y.1 y.2.1))
  .ok { part := p, placed := placed, writes := ws, flags := (ys.map (fun y => y.2.2.2)).foldl nfOr t.flags
        tally := { tl with idxRange := t.idxRange || far }, gauss := gauss.words * gauss.rows * 128 * ((live.map (fun y => (y.1 / max 1 gauss.rows, y.2.1 / 128))).eraseDups.length), blocks := blocks, clamps := clamps }

/-- The parts in order; the first that stops stops all. -/
def State.placeParts (s : State) (strict : Bool) (dr : Draws) (gauss : GaussUse) (fin : OutPart → Nat → Nat → Acc44 → Acc44 × Nat) :
    List OutPart → Except RdErr (List PlacedPart)
  | [] => .ok []
  | p :: ps => do
    let x ← p.place s strict dr gauss fin
    let xs ← s.placeParts strict dr gauss fin ps
    .ok (x :: xs)

/-- The save program of the separate mode (R175): each stored element times round(scaleSrc / scaleSave), in the save
format. -/
def State.saveParts (s : State) (strict : Bool) (dr : Draws) (t : Tensor) (scaleSrc : OutPart → Nat) (scaleSave rnd : Nat) :
    List PlacedPart → Except RdErr (List (Nat × List Byte) × Nat)
  | [] => .ok ([], 0)
  | x :: xs => do
    let v ← t.saved.view s .out rnd
    let m := fp32 (toFP32 ((fp32 (scaleSrc x.part)).div (fp32 scaleSave)))
    let ys := x.placed.map (fun y =>
      let (a, f) := vloadLane strict x.part.v.d.format y.code
      let (z, f') := accRoundF strict ((accNum a).mul m)
      (y.row, y.col, z, nfOr f f'))
    let (out, tl) := convertAll strict v x.part.listed dr (ys.map (fun y => (y.1, y.2.1, y.2.2.1)))
    let (ws, _, _) ← v.writesOf s out
    let (rest, fl) ← s.saveParts strict dr t scaleSrc scaleSave rnd xs
    .ok (ws ++ rest, nfOr (ys.foldl (fun f y => nfOr f y.2.2.2) tl.flags) fl)

/-- The scale of a part of an operation's output (R51, R52, R154). -/
def Produced.scale (r : Produced) (t : Tensor) (p : OutPart) : Nat := t.outScale p.v r.amax

/-- What an operation's output comes to. -/
structure Output where
  writes : List (Nat × List Byte)
  flags : Nat
  parts : List PlacedPart
deriving DecidableEq, Repr

/-- A logical index of it is out of range (R209). -/
def Output.far (o : Output) : Bool := o.parts.any (fun x => x.tally.idxRange)

/-- The writes of an operation's output, with its flags. `fin` makes the Store's value from the scale of the output and a value. -/
def State.outputWrites (s : State) (h : Cmd) (t : Tensor) (stream rnd : Nat) (r : Produced) (gauss : GaussUse)
    (fin : Nat → OutPart → Nat → Nat → Acc44 → Acc44 × Nat) : Except RdErr Output := do
  let strict := s.strict t.job
  let dr := s.outDraws h t stream
  let parts ← s.placeParts strict dr gauss (fun p => fin (r.scale t p) p) r.parts
  let ws := parts.flatMap (·.writes)
  let fl := (parts.map (·.flags)).foldl nfOr 0
  if t.p.saveMode = 2 then
    let (ws', fl') ← s.saveParts strict dr t (r.scale t) (t.outSaveScale r.amax) rnd parts
    .ok ⟨ws ++ ws', nfOr fl fl', parts⟩
  else .ok ⟨ws, fl, parts⟩

/-- All that a part's forming and storing has raised. -/
def PlacedPart.allFlags (x : PlacedPart) : Nat := nfOr x.flags ((x.part.elems.map (·.flags)).foldl nfOr 0)

/-- A Chamber counts what it has formed and stored of an operation: flags (R62), domain cases and ranges (R128), bytes, tokens (R162), Flowstone blocks and clamps
(R202), generator words, draws and GAUSS lanes (R217). -/
def State.countPart (s : State) (x : PlacedPart) : State :=
  let c := x.part.chamber
  let fl := x.allFlags
  let s := (List.range 8).foldl (fun s b => if bit fl b then s.put (numFlagFields.getD b .chNanOut) c 1 else s) s
  let s := if bit fl 8 then s.flag .chSfDomain c else s
  let s := if bit fl 9 then (s.flag .chSmxRange c).bump .chSmxRangeRows c
      ((x.part.elems.filter (fun e => bit e.flags 9)).map (·.r)).eraseDups.length else s
  let s := if x.tally.idxRange then s.flag .chIdxRange c else s
  [(Field.chStoreBytes, writesLen x.writes), (.chAppendTokens, (x.part.v.tokens (x.placed.map (fun y => (y.row, y.col)))).length),
   (.chFsEncBlocks, x.blocks), (.chFsClamps, x.clamps), (.chRngWords, x.tally.words + x.gauss), (.chSrDraws, x.tally.draws),
   (.chSrZeroCut, x.tally.zeroCuts), (.chGaussLanes, x.gauss)].foldl (fun s y => if y.2 = 0 then s else s.bump y.1 c y.2) s

/-- `FLAG_OPS` of each Chamber in which the operation has raised a flag (R62). -/
def State.countFlagOps (s : State) (xs : List PlacedPart) : State :=
  ((xs.filter (fun x => x.allFlags % 256 != 0)).map (·.part.chamber)).eraseDups.foldl
    (fun s c => s.bumpSat .chFlagOps c 1) s

/-- The Chambers count all the parts of an operation. -/
def State.countParts (s : State) (xs : List PlacedPart) : State := (xs.foldl State.countPart s).countFlagOps xs

/-- An operation's output is written, its tensor's scale and history move on, and the command completes (R50 to R53). `shows`
says that `RESULT` is the amax. An operation that stops writes nothing (log 29). -/
def State.produce (s : State) (h : Cmd) (op : Nat) (t : Tensor) (stream rnd : Nat) (r : Produced) (gauss : GaussUse)
    (fin : Nat → OutPart → Nat → Nat → Acc44 → Acc44 × Nat) (shows : Bool) : State :=
  match s.outputWrites h t stream rnd r gauss fin with
  | .error e => s.rdStop h op e
  | .ok o =>
    if o.far then (s.countParts (o.parts.map (fun x => { x with writes := [], placed := [], blocks := 0, clamps := 0 }))).fail h stIndexRange addrDetail
    else
      let s := (s.storeAll o.writes).countParts o.parts
      let s := s.modTensor t.job t.p.id (fun x => { x with
        hist := x.hist ++ [r.amax], scale := match r.parts with | p :: _ => r.scale t p | [] => t.scale
        saveScale := t.outSaveScale r.amax })
      (s.dropEntry h op).complete h { result := if shows then r.amax else 0, numFlags := nfOr r.flags o.flags % 256, flags := r.status }

/-! ### Operands (R57, R58, R60, R435) -/

/-- Delivered formats of A and B by their stored formats (R435). -/
def deliverPair (fa fb : Nat) : Nat × Nat :=
  let lns := fun f => f == fmtLNS16 || f == fmtLNS8
  if lns fa && lns fb then (fmtLNS16, fb)
  else
    let one := fun f other => if f = fmtG16 then fmtG16 else if f = fmtFP32 && other = fmtG16 then fmtG16 else fmtBF16
    (one fa fb, one fb fa)

/-- An operand of a product as its role orients it. -/
structure Factor where
  v : View
  /-- Rows and columns are exchanged against the stored tensor (R173). -/
  swap : Bool
  deliver : Nat
deriving DecidableEq, Repr

def Factor.rows (f : Factor) : Nat := if f.swap then f.v.cEnd else f.v.rEnd
def Factor.cols (f : Factor) : Nat := if f.swap then f.v.rEnd else f.v.cEnd

/-- An element as the Facet takes it, with its flags. -/
def Factor.read (f : Factor) (s : State) (strict : Bool) (r c : Nat) : Except RdErr (Nat × Nat) := do
  let e ← if f.swap then f.v.read1 s c r else f.v.read1 s r c
  if e.poisoned then .error (.poison e.addr)
  else
    match e.code with
    | none => .ok (zeroCode f.deliver, 0)
    | some k => .ok (loadConvert strict f.v.d.format f.deliver k)

/-! ### Products (R22, R44, R45, R140, R141) -/

/-- A product of two operands. -/
structure Product where
  strict : Bool
  a : Factor
  b : Factor
  k : Nat
  /-- Length of a segment in K blocks, 0 for one segment. -/
  kSeg : Nat
deriving DecidableEq, Repr

/-- The chain of `n` terms from K index `lo`, ascending, from the value `x`. -/
def Product.chain (p : Product) (s : State) (x : Acc44) (i j lo : Nat) : Nat → Except RdErr (Acc44 × Nat)
  | 0 => .ok (x, 0)
  | n + 1 => do
    let (acc, fl) ← p.chain s x i j lo n
    let (x, fx) ← p.a.read s p.strict i (lo + n)
    let (y, fy) ← p.b.read s p.strict (lo + n) j
    let (acc, o) := accStep p.strict acc (cellProduct p.a.deliver p.b.deliver x y)
    .ok (acc, nfOr (nfOr fl (nfOr fx fy)) (nfWhen o nfAccOverflow))

/-- Partial sums of segments from number j on, added in ascending order (R141). -/
def Product.segments (p : Product) (s : State) (i j : Nat) (acc : Acc44 × Nat) : List Nat → Except RdErr (Acc44 × Nat)
  | [] => .ok acc
  | g :: gs => do
    let len := 128 * p.kSeg
    let (x, fl) ← p.chain s accZero i j (g * len) (min len (p.k - g * len))
    let (v, f) := accRoundF p.strict ((accNum acc.1).add (accNum x))
    p.segments s i j (v, nfOr acc.2 (nfOr fl f)) gs

/-- The accumulator of element (i, j). -/
def Product.acc (p : Product) (s : State) (i j : Nat) : Except RdErr (Acc44 × Nat) :=
  let len := 128 * p.kSeg
  if p.kSeg = 0 || p.k ≤ len then p.chain s accZero i j 0 p.k
  else do
    let first ← p.chain s accZero i j 0 len
    p.segments s i j first ((List.range (ceilDiv p.k len)).drop 1)

/-- The accumulator of a block that is refilled with its partial up to K index `k` (R70, R354). A partial that ends within a
later segment is no sum of whole segments, and its block restarts. -/
def Product.refilled (p : Product) (s : State) (i j k : Nat) (x : Acc44) : Except RdErr (Acc44 × Nat) :=
  let len := 128 * p.kSeg
  if p.kSeg = 0 || p.k ≤ len then p.chain s x i j k (p.k - k)
  else if k % len = 0 then p.segments s i j (x, 0) ((List.range (ceilDiv p.k len)).drop (k / len))
  else if k < len then do
    let first ← p.chain s x i j k (len - k)
    p.segments s i j first ((List.range (ceilDiv p.k len)).drop 1)
  else p.acc s i j

/-- An element of an output of `m` by `n`, from the partial where its block resumes from one. -/
def Product.resumed (p : Product) (s : State) (rects : List Rect) (m n i j : Nat) : Except RdErr (Acc44 × Nat) :=
  match resumeAt rects m n i j with
  | .upto k x => p.refilled s i j k x
  | _ => p.acc s i j

/-- The elements of a list of places. -/
def Product.accs (p : Product) (s : State) (rects : List Rect) (m n : Nat) : List (Nat × Nat) → Except RdErr (List OutElem)
  | [] => .ok []
  | (i, j) :: xs => do
    let (x, fl) ← p.resumed s rects m n i j
    let rest ← p.accs s rects m n xs
    .ok (⟨i, j, x, fl⟩ :: rest)

/-- Places of a block of rows and columns. -/
def places (rows cols : Nat) : List (Nat × Nat) := (List.range rows).flatMap (fun r => (List.range cols).map (fun c => (r, c)))

/-- The generator word of a GAUSS lane: under the D1 tables it comes from the D1-compatible generator (R212). -/
def gaussBits (img : SfBank) (dr : Draws) (off : Nat) : Nat :=
  elemWord (if img.kind = 1 then 1 else dr.version) dr.seed dr.stream (dr.idxBase + off) 0

/-- The drain of a contraction (R49, R436): the combined factor, then the function named. -/
def drainFin (strict : Bool) (img : SfBank) (func : Nat) (dr : Draws) (scale : Nat) (p : OutPart) (r c : Nat) (x : Acc44) :
    Acc44 × Nat :=
  let y := accRoundF strict ((accNum x).mul (accNum (combinedScale strict p.sa p.sb scale)))
  if func = 0xFF then y
  else if func = 0x30 then
    let o := gaussLane img strict 0x3F800000 (gaussBits img dr (p.v.logical p.listed r c)) y.1
    (o.value, nfOr (nfOr y.2 o.flags) (nfWhen o.domain nfDomain))
  else
    let o := sfLane img strict func 0x3F800000 y.1
    (o.value, nfOr (nfOr y.2 o.flags) (nfWhen o.domain nfDomain))

/-- The coefficient image of a job: the published one of its `SF_MODE` (R25, R117, R118). -/
def State.jobImage (s : State) (job : Nat) : SfBank :=
  let mode := match s.job? job with | some j => j.sfMode | none => 0
  { kind := mode, body := Config.sfImage mode }

/-- `DRAIN_FUNC` codes (R436). -/
def drainOk (f : Nat) : Bool := f == 0xFF || decide (f ≤ 0x0B) || f == 0x30

/-! ### Gradient masks on whole operations (R181 to R183) -/

/-- What a mask record says of dW: a place is frozen. -/
structure Mask where
  rowMap : Nat
  blkMap : Nat
  cols : Nat
deriving DecidableEq, Repr

/-- The record at an address for an output of the given extents; an error is the `DETAIL` bits of `GMASK_ERROR`. -/
def State.mask (s : State) (a rows cols : Nat) : Except RdErr (Except Nat (Option Mask)) :=
  if a = 0 then .ok (.ok none)
  else do
    let h ← s.rdBytes a 64
    if !gmaskHeaderOk h || a % 64 ≠ 0 then .ok (.error 1)
    else if ceilDiv rows 128 > fieldLE h 0 4 || ceilDiv cols 128 > fieldLE h 4 4 then .ok (.error 2)
    else
      let rm := fieldLE h 8 8
      let bm := fieldLE h 16 8
      let _ ← if rm = 0 then pure [] else s.rdBytes rm (16 * ceilDiv rows 128)
      let _ ← if bm = 0 then pure [] else s.rdBytes bm (ceilDiv (ceilDiv rows 128 * fieldLE h 4 4) 8)
      .ok (.ok (some ⟨rm, bm, fieldLE h 4 4⟩))

/-- Row r is frozen, or the block of (r, c) is. -/
def Mask.freezes (m : Mask) (s : State) (r c : Nat) : Bool :=
  let b := r / 128 * m.cols + c / 128
  (m.rowMap != 0 && bit (s.num (m.rowMap + 16 * (r / 128)) 16) (r % 128)) ||
    (m.blkMap != 0 && bit (s.num (m.blkMap + b / 8) 1) (b % 8))

def maskFreezes (m : Option Mask) (s : State) (r c : Nat) : Bool := match m with | some m => m.freezes s r c | none => false

/-! ### Lists and buckets (R144, R145, R170) -/

/-- What a problem of a command has in force: replaced bases and bounds. -/
structure Problem where
  no : Nat := 0
  a : Option Nat := none
  b : Option Nat := none
  out : Option Nat := none
  m : Nat := 0xFFFFFFFF
  n : Nat := 0xFFFFFFFF
  k : Nat := 0xFFFFFFFF
deriving DecidableEq, Repr

/-- A list entry of a command, checked as R145 says. -/
def State.problem (s : State) (list p : Nat) : Except RdErr Problem := do
  let a := list + 48 * p
  let bs ← s.rdBytes a 48
  let keep := 0xFFFFFFFFFFFFFFFF
  let base := fun off => if fieldLE bs off 8 = keep then none else some (fieldLE bs off 8)
  let ok := fun off => fieldLE bs off 8 == keep || (decide (fieldLE bs off 8 < 2 ^ 48) && fieldLE bs off 8 % 64 == 0)
  if !(ok 0 && ok 8 && ok 16 && zeroLE bs 36 12) then .error (.addr a)
  else .ok { no := p, a := base 0, b := base 8, out := base 16, m := fieldLE bs 24 4, n := fieldLE bs 28 4, k := fieldLE bs 32 4 }

def State.problems (s : State) (list : Nat) : Nat → Except RdErr (List Problem)
  | 0 => .ok []
  | n + 1 => do
    let ps ← s.problems list n
    let p ← s.problem list n
    .ok (ps ++ [p])

/-- The problems of a command: its list's, or one. -/
def State.commandProblems (s : State) (list count : Nat) : Except RdErr (List Problem) :=
  if list = 0 || count = 0 then .ok [{}] else s.problems list count

/-- A tensor with its base replaced. -/
def Tensor.at (t : Tensor) (base : Option Nat) : Tensor := { t with p := { t.p with base := base.getD t.p.base } }

/-- The bucket edges of a command (R170): the `DETAIL` of `BAD_BUCKETS`, none where they serve every length. -/
def badBuckets (edges lens : List Nat) : Option Nat :=
  if edges.isEmpty then none
  else
    match (List.range edges.length).find? (fun i => edges.getD i 0 % 128 != 0 ||
        (decide (0 < i) && decide (edges.getD i 0 ≤ edges.getD (i - 1) 0))) with
    | some i => some i
    | none =>
      ((List.range lens.length).find? (fun p => decide (edges.getD (edges.length - 1) 0 < lens.getD p 0))).map (fun p => 2 ^ 31 + p)

/-! ### CONTRACT (R261, R435, R436) -/

/-- Scale checks at admission (R48, R154): the tensor's scale, or its page table's. -/
def State.scaleCheck (s : State) (t : Tensor) : Check :=
  if t.p.space = 3 then s.pagedScale t.p.space t.p.base else check (scaleOk t.scale) stBadScale t.p.id

/-- The scale check of an output, which needs none where its history gives the scale. -/
def State.outScaleCheck (s : State) (t : Tensor) : Check :=
  if t.p.space ≠ 3 && (t.p.policy = 1 || t.p.saveMode = 1) then none else s.scaleCheck t

/-- The saved copy where a weight-gradient product reads one (R174, R175). -/
def Tensor.forRole (t : Tensor) (role : Nat) : Tensor := if role = 2 && t.p.saveMode = 2 then t.saved else t

/-- An operand that a Load can deliver: an ACC44 spill tensor is none (R40, R435). -/
def operandOk (t : Option Tensor) : Bool := match t with | some t => t.stored != fmtSpill | none => false

/-- The four words of `LEN_ADDR`: M, N, K and `TOKEN_ORG` (R261, R436). -/
def State.lengths (s : State) (a : Nat) : Except RdErr (List Nat) :=
  if a = 0 then .ok [0xFFFFFFFF, 0xFFFFFFFF, 0xFFFFFFFF, 0]
  else do
    let bs ← s.rdBytes a 16
    .ok ((List.range 4).map (fun i => fieldLE bs (4 * i) 4))

/-- Scale checks of the page references that a list's entries put in the place of a paged tensor's (R144, R154). -/
def State.listScales (s : State) (t : Option Tensor) (base : Problem → Option Nat) (list count : Nat) : List Check :=
  match t, s.commandProblems list count with
  | some t, .ok xs => if t.p.space = 3 then xs.map (fun x => match base x with | some a => s.pagedScale 3 a | none => none) else []
  | _, _ => []

/-- Checks of CONTRACT; its stage has a place (R150, R259). -/
def State.contractChecks (s : State) (h : Cmd) (p : ContractParams) : List Check :=
  let job := (s.entry h).jobId
  let a := s.tensor? job p.a
  let b := s.tensor? job p.b
  let o := s.tensor? job p.out
  let sc := fun (t : Option Tensor) => match t with | some t => s.scaleCheck (t.forRole p.role) | none => none
  [s.jobCheck h, s.param h (operandOk a) 0, s.param h (operandOk b) 4, s.param h o.isSome 8, s.param h (decide (p.role ≤ 2)) 12,
   s.param h (decide (p.rnd ≤ 2)) 13, s.param h (drainOk p.drainFunc) 14, s.param h (decide (p.edges.length ≤ 16)) 68, sc a, sc b,
   match o with | some t => s.outScaleCheck t | none => none] ++
    s.listScales a (·.a) p.listAddr p.listCount ++ s.listScales b (·.b) p.listAddr p.listCount ++
    s.listScales o (·.out) p.listAddr p.listCount ++
    [check (s.stageGroup job p.stageId).isSome stNoResources 0]

/-- The operands, the output and the bounds of one problem of a CONTRACT. -/
structure Task where
  prod : Product
  out : View
  m : Nat
  n : Nat
  sa : Nat
  sb : Nat
deriving DecidableEq, Repr

/-- The token of row or column 0 of a paged output: the length word that its own reference selects, 0 for 0xF (R158, R162). -/
def State.outOrg (s : State) (t : Tensor) (word : Nat → Nat) : Except RdErr Nat :=
  if t.p.space ≠ 3 then .ok 0
  else do
    let r ← readRef s t.p.base
    .ok (if r.tokSel = 15 then 0 else word r.tokSel)

/-- A problem of a CONTRACT: bounds of a list entry stand in the place of the command's lengths (R144). -/
def State.contractTask (s : State) (p : ContractParams) (ta tb tout : Tensor) (lens : List Nat) (x : Problem) : Except RdErr Task := do
  let ta := (ta.forRole p.role).at x.a
  let tb := (tb.forRole p.role).at x.b
  let tout := tout.at x.out
  let va ← ta.view s .plain 0
  let vb ← tb.view s .plain 0
  let org ← s.outOrg tout (fun _ => lens.getD 3 0)
  let vo ← tout.view s .out p.rnd [] org
  let (da, db) := deliverPair ta.stored tb.stored
  let fa : Factor := ⟨va, p.role == 2, da⟩
  let fb : Factor := ⟨vb, p.role == 2, db⟩
  let m := min (min fa.rows vo.rEnd) (entryLen x.m (lens.getD 0 0))
  let n := min (min fb.cols vo.cEnd) (entryLen x.n (lens.getD 1 0))
  let k := min (min fa.cols fb.rows) (entryLen x.k (lens.getD 2 0))
  .ok ⟨⟨s.strict ta.job, fa, fb, k, p.kSeg⟩, vo, m, n, ta.scaleIn va, tb.scaleIn vb⟩

/-- A task's elements outside the mask (R182). -/
def State.runTask (s : State) (rects : List Rect) (t : Task) (mask : Option Mask) : Except RdErr (List OutElem) :=
  t.prod.accs s rects t.m t.n ((places t.m t.n).filter (fun x => !maskFreezes mask s x.1 x.2))

/-- Runs the tasks of a command in order, with their amax (R50). Rectangles are of the one output of a command without a list. -/
def State.runTasks (s : State) (rects : List Rect) (mask : Option Mask) : List (Problem × Task) → Except RdErr Produced
  | [] => .ok {}
  | (x, t) :: ts => do
    let es ← s.runTask rects t mask
    let r ← s.runTasks rects mask ts
    let part : OutPart := { v := t.out, listed := x.no, elems := es, sa := t.sa, sb := t.sb, rects := rects, rows := t.m, cols := t.n }
    .ok { parts := part :: r.parts, amax := max (amaxOf t.sa t.sb (es.map (·.acc))) r.amax
          flags := nfOr ((es.map (·.flags)).foldl nfOr 0) r.flags }

/-- The tasks of a CONTRACT with the sequence lengths that its buckets serve. -/
def State.contractTasks (s : State) (p : ContractParams) (ta tb tout : Tensor) :
    Except RdErr (List (Problem × Task) × List Nat) := do
  let lens ← s.lengths p.lenAddr
  let xs ← s.commandProblems p.listAddr p.listCount
  let ts ← xs.mapM (fun x => (s.contractTask p ta tb tout lens x).map (fun t => (x, t)))
  let bound := fun (t : Task) => min (min t.prod.a.rows t.out.rEnd) (lens.getD 0 0)
  .ok (ts, ts.map (fun y => if y.1.m = 0xFFFFFFFF then bound y.2 else y.1.m))

/-- The tensors of a CONTRACT; it is run only once they have been found. -/
def State.contractTensors (s : State) (h : Cmd) (p : ContractParams) : Option (Tensor × Tensor × Tensor) :=
  let job := (s.entry h).jobId
  match s.tensor? job p.a, s.tensor? job p.b, s.tensor? job p.out with
  | some a, some b, some o => some (a, b, o)
  | _, _, _ => none

/-! ### What firmware builds for a CONTRACT (R138, R142, R148, R170, R177 to R180) -/

/-- The bounds of a task as the expander sees them (R135, R191). -/
def Task.bounds (t : Task) : NestBounds :=
  { mLo := 0, mEnd := t.m, mTop := 2 ^ 40, nLo := 0, nEnd := t.n, nTop := 2 ^ 40, keptK := ceilDiv t.prod.k 128
    group := match t.prod.b.v.geom with
      | some g => if g.lower = 3 then some (ceilDiv g.cSrc 128, max 1 (g.group / 128)) else none
      | none => none }

/-- The extents of a task's tensors in blocks: M, N and K, before run-time lengths. -/
def Task.blocks (t : Task) : Nat × Nat × Nat :=
  (ceilDiv (min t.prod.a.rows t.out.rEnd) 128, ceilDiv (min t.prod.b.cols t.out.cEnd) 128,
   ceilDiv (min t.prod.a.cols t.prod.b.rows) 128)

/-- The extents that a list's nest is planned for: the largest of its problems'. -/
def tasksBlocks (ts : List (Problem × Task)) : Nat × Nat × Nat :=
  ts.foldl (fun a t => let b := t.2.blocks; (max a.1 b.1, max a.2.1 b.2.1, max a.2.2 b.2.2)) (0, 0, 0)

/-- Problems of each bucket, in the order of the edges; one list where there are none (R170). -/
def bucketCounts (edges lens : List Nat) : List Nat :=
  if edges.isEmpty then [lens.length]
  else
    ((List.range edges.length).map (fun i => (lens.filter (fun l => decide (l ≤ edges.getD i 0) &&
      (decide (i = 0) || decide (edges.getD (i - 1) 0 < l)))).length)).filter (· ≠ 0)

/-- Groups of 512 elements of an output. -/
def groupsOf (rows cols : Nat) : Nat := ceilDiv rows 4 * ceilDiv cols 128

/-- A split K has more than one segment that holds anything. -/
def splits (p : ContractParams) (kN : Nat) : Bool := p.kSeg != 0 && decide (p.kSeg < kN)

/-- How a CONTRACT is divided among the Chambers of its group (R142, R148, R177). -/
def contractDivision (p : ContractParams) (thin : Bool) (m n k : Nat) : Division :=
  if p.role ≠ 0 then .blocks m n
  else if splits p k then .alone
  else if thin then .alongM m
  else .alongN n

/-- The programs of a CONTRACT, and its stage afterwards. -/
def State.contractPlans (s : State) (g : StageGroup) (p : ContractParams) (ta tb tout : Tensor) (thin : Bool) (lens : List Nat)
    (ts : List (Problem × Task)) : StageGroup × Planned :=
  let (m, n, k) := tasksBlocks ts
  let bs := ts.map (fun t => t.2.bounds)
  let saves := decide (tout.p.saveMode = 2)
  let savers := if saves then [g.savePlan (g.chambers.headD 0) (groupsOf (128 * m) (128 * n))] else []
  if p.role = 0 then
    let fed := decide (0 < p.stageId) && s.groups.any (fun x => x.job == g.job && x.stageId == p.stageId - 1)
    let g' := { g with chunks := g.chunks + 1, weights := if g.weights.contains p.b then g.weights else g.weights ++ [p.b] }
    if splits p k then
      let kept := (bs.map (·.keptK)).foldl max 0
      let segs := segmentRanges p.kSeg k kept
      let c := g.chambers.length
      let all : Share := ⟨0, m, 0, n, k⟩
      let words := fun rank => (segs.filter (fun x => x.1 % c == rank)).flatMap (fun x => segmentWords all x.1 x.2.1 x.2.2)
      let combine := (List.range m).flatMap (fun i => (List.range n).flatMap (fun j => combineWords segs.length (i + j) i j))
      (g', Planned.of bs ((g.chambers.zipIdx.map (fun x =>
        g.forward fed false x.1 (words x.2 ++ (if x.2 = 0 then combine else [])))) ++ savers))
    else
      let o : StageOp :=
        { m := m, n := n, k := k, a := 16384 * fmtBytes ta.stored, b := 16384 * fmtBytes tb.stored
          fmt := if thin then ta.stored else tb.stored, shared := thin, counts := bucketCounts p.edges lens, list := p.listAddr
          stride := oneStride (ts.map (fun t => t.1.a.getD ta.p.base)), fed := fed, saves := saves }
      let (g', ps) := s.forwardPlans g' o (!s.recoveries.isEmpty)
      (g', Planned.of bs (ps ++ savers))
  else
    let g' := if p.role = 2 then { g with grads := g.grads + 1, dws := if g.dws.contains p.out then g.dws else g.dws ++ [p.out] } else g
    let c := g.chambers.length
    let runs := fun rank => let b := blocksOf c m n rank; if p.role = 1 then gradientRuns 0 b k else chunkRuns 1 b k
    -- the alternated program holds its partner's runs too, which the partner's command counts
    let work := fun rank => planWork bs (bankedRuns 0 0 0 (runs rank))
    let ranks := (List.range c).filter (fun r => !(runs r).isEmpty)
    (g', { plans := ranks.map (fun r => g.backward s p.role (g.chambers.getD r 0) (runs r))
           work := ranks.map (fun r => (g.chambers.getD r 0, work r)) })

/-- Runs a CONTRACT to its end. `batched` marks a member of a thin batch (R258, R262). A stage with stale weights reads the copy
that was taken before the optimizer (R180). -/
def State.contractRun (s : State) (h : Cmd) (p : ContractParams) (batched : Bool) : State :=
  match s.contractTensors h p, s.stageGroup (s.entry h).jobId p.stageId with
  | none, _ => s.bad h 0
  | _, none => s.fail h stNoResources 0
  | some (ta, tb, tout), some g =>
    let gm := if p.role = 2 then s.mask p.gmaskAddr tout.p.rows tout.p.cols else .ok (.ok none)
    match s.contractTasks p ta tb tout, gm with
    | .error e, _ => s.rdStop h 0x40 e
    | _, .error e => s.rdStop h 0x40 e
    | .ok _, .ok (.error d) => s.fail h stGmaskError (addrDetail + d)
    | .ok (ts, lens), .ok (.ok mask) =>
      match badBuckets p.edges lens with
      | some d => s.fail h stBadBuckets d
      | none =>
        let src := if p.role = 0 then g.operandState s else s
        match src.runTasks (if p.listCount = 0 then s.heldRects h 0x40 else []) mask ts with
        | .error e => s.rdStop h 0x40 e
        | .ok r =>
          let (m, n, k) := tasksBlocks ts
          let (g', ps) := s.contractPlans g p ta tb tout batched lens ts
          let r := { r.divide (contractDivision p batched m n k) g.chambers with status := if batched then 32 else 0 }
          let fin := drainFin (s.strict tout.job) (s.jobImage tout.job) p.drainFunc (s.outDraws h tout p.stream)
          ((s.setGroup g').runPlans ps (s.stacksOf tout.job p.listCount [p.a, p.b])).produce h 0x40 (if p.role = 0 then tout else tout.unsaved)
            p.stream p.rnd r (drainGauss p.drainFunc) fin true

/-- The Chambers of a stage run: none of them is held (R14, R15). -/
def State.stageRuns (s : State) (g : Option StageGroup) : Bool :=
  match g with | some g => g.chambers.all s.chamberRuns | none => true

/-! ### Thin batches (R262) -/

/-- Extents of a CONTRACT that is held: M, N and K. -/
def State.thinExtents (s : State) (h : Cmd) (p : ContractParams) : Option (Nat × Nat × Nat) :=
  match s.contractTensors h p with
  | none => none
  | some (ta, tb, tout) =>
    match s.contractTasks p ta tb tout with
    | .ok ((_, t) :: _, _) => some (t.m, t.n, t.prod.k)
    | _ => none

/-- A held command joins the batch of its like that was opened last (R262). -/
def State.likes (s : State) (job : Nat) (p : ContractParams) (m k : Nat) (b : Batch) : Bool :=
  b.job == job && b.key == p.batchKey && b.aId == p.a &&
    (match b.members with
     | (h0, p0) :: _ => p0.rnd == p.rnd && p0.drainFunc == p.drainFunc &&
        (match s.thinExtents h0 p0 with | some (m0, _, k0) => m0 == m && k0 == k | none => false)
     | [] => false)

/-- The stage of a batch's first member. -/
def State.batchGroup (s : State) (b : Batch) : Option StageGroup :=
  match b.members with | m :: _ => s.stageGroup b.job m.2.stageId | [] => none

/-- Runs the members of a batch, in fetch order, once its stage runs. -/
def State.runBatch (s : State) (b : Batch) : State :=
  if s.stageRuns (s.batchGroup b) then
    let s := { s with batches := s.batches.filter (fun x => !(x == b)) }
    b.members.foldl (fun s m => s.contractRun m.1 m.2 true) s
  else s

/-- A command is held for batching and joins or opens a batch; a full batch starts. -/
def State.joinBatch (s : State) (h : Cmd) (p : ContractParams) (m n k : Nat) : State :=
  let job := (s.entry h).jobId
  let s := s.hold h 0x40 []
  match s.batches.reverse.find? (s.likes job p m k) with
  | some b =>
    if b.columns + n ≤ 128 then
      let b' := { b with members := b.members ++ [(h, p)], columns := b.columns + n }
      let s := { s with batches := s.batches.map (fun x => if x = b then b' else x) }
      if b'.columns = 128 then s.runBatch b' else s
    else { s with batches := s.batches ++ [⟨job, p.batchKey, p.a, [(h, p)], n⟩] }
  | none => { s with batches := s.batches ++ [⟨job, p.batchKey, p.a, [(h, p)], n⟩] }

/-- CONTRACT. It waits while a Chamber of its stage is held. -/
def execContract (h : Cmd) (p : ContractParams) (s : State) : Out :=
  let s := s.refetchTensors (s.entry h).jobId [p.a, p.b]
  let go := if s.stageRuns (s.stageGroup (s.entry h).jobId p.stageId) then s.contractRun h p false else s
  let thin := if p.role = 0 && p.batchKey ≠ 0 then s.thinExtents h p else none
  s.run h (s.contractChecks h p)
    (match thin with
     | some (m, n, k) => if n < 128 then s.joinBatch h p m n k else go
     | none => go)

/-- BATCH_DEADLINE (R262): the earliest deadline of a batch's members has passed. A ns is two ticks. -/
def execBatchDeadline (h : Cmd) (s : State) : Out :=
  match s.batches.find? (fun b => b.members.any (fun m => m.1 == h)) with
  | none => .next s
  | some b =>
    let due := b.members.any (fun m => decide ((s.entry m.1).acceptTs + 2 * m.2.deadlineNs ≤ s.now))
    if due then .next (s.runBatch b) else .next s

/-! ### CONVOLVE (R173, R186 to R191, R261) -/

/-- Checks of CONVOLVE. -/
def State.convolveChecks (s : State) (h : Cmd) (p : ConvolveParams) : List Check :=
  let job := (s.entry h).jobId
  let x := s.tensor? job p.x
  let w := s.tensor? job p.w
  let o := s.tensor? job p.out
  let sc := fun (t : Option Tensor) => match t with | some t => s.scaleCheck (t.forRole p.role) | none => none
  let flow := match x, o with
    | some x, some o => p.fsRate == 0 || ((x.stored == fmtBF16 || x.stored == fmtLNS16) && (o.stored == fmtBF16 || o.stored == fmtLNS16))
    | _, _ => true
  let flat := fun (t : Option Tensor) => match t with | some t => t.p.space != 3 | none => false
  [s.jobCheck h, s.param h (operandOk x && flat x) 0, s.param h (operandOk w && flat w) 4, s.param h (o.isSome && flat o) 8,
   s.param h (decide (p.role ≤ 2)) 12, s.param h (decide (p.rnd ≤ 2)) 13, s.param h (drainOk p.drainFunc) 14,
   s.param h (decide (p.fsRate ≤ 2) && flow) 15, sc x, sc w, match o with | some t => s.outScaleCheck t | none => none,
   check (s.jobGroup job 0x41).isSome stNoResources 0]

/-- Positions of a grid in an order (R187, R197). -/
def gridPositions (order : Nat) (e : List Nat) : Nat :=
  if order = 0 then e.getD 0 1 * e.getD 1 1 * e.getD 2 1
  else 64 * (ceilDiv (e.getD 0 1) 4 * ceilDiv (e.getD 1 1) 4 * ceilDiv (e.getD 2 1) 4)

/-- The extent of the contraction index of a lowered map (R188). -/
def Geom.kExtent (g : Geom) : Nat := g.kern.foldl (· * ·) 1 * g.per

/-- A tensor's view with a geometry record's lowering (R186, R187). -/
def lowerView (v : View) (g : Geom) (fsRate rows cols : Nat) : View :=
  { v with geom := some g, d := { v.d with addrMode := 2, fsRate := fsRate }, rEnd := rows, cEnd := cols }

/-- The task of a CONVOLVE: the operands by its role, from one geometry record (R173, R187, R190; log 30). -/
def State.convolveTask (s : State) (p : ConvolveParams) (tx tw tout : Tensor) : Except RdErr Task := do
  let bs ← s.rdBytes p.geomAddr 64
  if !geomOk bs p.fsRate || (p.role = 1 && (Geom.of bs).up ≠ 0) then .error (.geom p.geomAddr)
  else
    let g := Geom.of bs
    let tx := tx.forRole p.role
    let vx ← tx.view s .plain 0
    let vw ← tw.view s .plain 0
    let vo ← tout.view s .out p.rnd
    let (dx, dw) := deliverPair tx.stored tw.stored
    let (dw', dx') := deliverPair tw.stored tx.stored
    let outP := gridPositions g.posOrder g.outE
    let inP := gridPositions 0 g.inE
    let strict := s.strict tx.job
    if p.role = 0 then
      let a := lowerView vx { g with lower := 0 } p.fsRate outP g.kExtent
      let b := if g.group = 0 then vw else lowerView vw { g with lower := 3 } 0 vw.rEnd vo.cEnd
      let o := if g.posOrder = 1 then lowerView vo { g with cSrc := vo.cEnd } p.fsRate vo.rEnd vo.cEnd else vo
      .ok ⟨⟨strict, ⟨a, false, dx⟩, ⟨b, false, dw⟩, min g.kExtent b.rEnd, 0⟩, o, min outP o.rEnd, min b.cEnd o.cEnd, tx.scale, tw.scale⟩
    else if p.role = 1 then
      -- X is dY, feature-major; the output is dX transposed (R173). Each side has its own channels: K runs over taps and
      -- those of dY, 128 or more a tap, and the rows of W keep the forward channel stride (log 48)
      let gb := { g with lower := 2, posOrder := 0, cpad := 0, cSrc := vx.rEnd }
      let b := lowerView vx gb 0 gb.kExtent inP
      let a := lowerView vw { g with lower := 4, cSrc := vo.rEnd, perOut := gb.per } 0 vo.rEnd gb.kExtent
      .ok ⟨⟨strict, ⟨a, false, dw'⟩, ⟨b, false, dx'⟩, gb.kExtent, 0⟩, vo, vo.rEnd, min inP vo.cEnd, tw.scale, tx.scale⟩
    else
      -- W is dY, feature-major, read transposed; the output is dW (R173)
      let a := lowerView vx { g with lower := 1, posOrder := 0 } p.fsRate g.kExtent (gridPositions 0 g.outE)
      .ok ⟨⟨strict, ⟨a, false, dx⟩, ⟨vw, true, dw⟩, min (gridPositions 0 g.outE) vw.cEnd, 0⟩, vo, min g.kExtent vo.rEnd,
        min vw.rEnd vo.cEnd, tx.scale, tw.scale⟩

/-- Stripes of a CONVOLVE on a group: `STRIPES` of its Chambers, or all (R192, R261). -/
def stripeChambers (stripes : Nat) (cs : List Nat) : List Nat := if stripes = 0 then cs else cs.take stripes

/-- The Flowstone unit of a stripe's rows (R192). -/
def stripeUnit (fsRate : Nat) : Nat := if fsRate = 0 then 1 else 4

/-- Tiles of 128 positions that some rows of a map hold. -/
def Geom.haloTiles (g : Geom) (rows : Nat) : Nat :=
  let e := g.inE
  ceilDiv (rows * (e.getD 0 1 * e.getD 1 1 * e.getD 2 1 / max 1 (e.getD g.stripeAxis 1))) 128

/-- How a CONVOLVE is divided: a forward map in stripes (R192), a gradient product by output block (R177). -/
def convolveDivision (p : ConvolveParams) (g : Geom) (m n : Nat) : Division :=
  if p.role = 0 then .stripes g g.stripeAxis (stripeUnit p.fsRate) else .blocks m n

/-- The programs of a CONVOLVE, and its group afterwards (R177, R178, R192 to R195). -/
def State.convolvePlans (s : State) (gr : StageGroup) (p : ConvolveParams) (g : Geom) (t : Task) : StageGroup × Planned :=
  let (m, n, k) := t.blocks
  if p.role = 0 then
    let unit := stripeUnit p.fsRate
    let cs := stripeChambers p.stripes gr.chambers
    let ts := (List.range cs.length).map (fun i => g.stripe unit cs i)
    let halos := if gr.layers = 0 then ts.map (fun x => (g.haloTiles x.above, g.haloTiles x.below)) else gr.halos
    let next := ts.map (fun x =>
      let h := halos.getD x.rank (0, 0)
      (h.1 + (if x.rank = 0 then 0 else (g.stripe unit cs (x.rank - 1)).published g unit cs false),
       h.2 + (if x.rank + 1 = cs.length then 0 else (g.stripe unit cs (x.rank + 1)).published g unit cs true)))
    let plans := ts.map (fun x => (gr.stripePlans x g unit cs n k (halos.getD x.rank (0, 0)), 128 * x.tiles g))
    ({ gr with layers := gr.layers + 1, halos := next },
     { plans := plans.flatMap (·.1)
       work := plans.flatMap (fun x => x.1.map (fun y => (y.chamber, planWork [{ t.bounds with mEnd := x.2 }] y.words))) })
  else
    let c := gr.chambers.length
    let runs := fun rank => let b := blocksOf c m n rank; if p.role = 1 then gradientRuns 0 b k else chunkRuns 1 b k
    let ranks := (List.range c).filter (fun r => !(runs r).isEmpty)
    ((if p.role = 2 then { gr with grads := gr.grads + 1, dws := if gr.dws.contains p.out then gr.dws else gr.dws ++ [p.out] } else gr),
     { plans := ranks.map (fun r => gr.backward s p.role (gr.chambers.getD r 0) (runs r))
       work := ranks.map (fun r => (gr.chambers.getD r 0, planWork [t.bounds] (bankedRuns 0 0 0 (runs r)))) })

/-- CONVOLVE: a contraction whose map operand is lowered (R186 to R191). How many stripes it is cut into changes no result
(R192, R196). It waits while a Chamber of its group is held. -/
def execConvolve (h : Cmd) (p : ConvolveParams) (s : State) : Out :=
  let job := (s.entry h).jobId
  let s := s.refetchTensors job [p.x, p.w]
  s.run h (s.convolveChecks h p)
    (if !s.stageRuns (s.jobGroup job 0x41) then s
     else
     match s.tensor? job p.x, s.tensor? job p.w, s.tensor? job p.out, s.jobGroup job 0x41 with
     | some tx, some tw, some tout, some gr =>
       match s.convolveTask p tx tw tout with
       | .error e => s.rdStop h 0x41 e
       | .ok t =>
         match s.runTasks (s.heldRects h 0x41) none [({}, t)] with
         | .error e => s.rdStop h 0x41 e
         | .ok r =>
           let fin := drainFin (s.strict job) (s.jobImage job) p.drainFunc (s.outDraws h tout p.stream)
           let g := Geom.of (s.bytes p.geomAddr 64)
           let (m, n, _) := t.blocks
           let (gr', ps) := s.convolvePlans gr p g t
           let cs := if p.role = 0 then stripeChambers p.stripes gr.chambers else gr.chambers
           ((s.setGroup gr').runPlans ps (s.stacksOf job 0 [p.x, p.w])).produce h 0x41 (if p.role = 0 then tout else tout.unsaved)
             p.stream p.rnd (r.divide (convolveDivision p g m n) cs) (drainGauss p.drainFunc) fin true
     | _, _, _, _ => s.bad h 0)

end Sys2Proof.Machine
end

