-- ==== Sys2Proof/Machine/Attend.lean ====
section
/-!
DEFINITION. ATTEND as a whole operation: scores with their masks, the statistics and probability passes, key segments and
ragged batches (R121 to R127, R153, R154, R158, R159, R166 to R171, R261, R435, R438).
-/
namespace Sys2Proof.Machine

/-- One sequence of an ATTEND: its problem, its references and their half views, its lengths (R438). -/
structure Sequence where
  x : Problem
  kRef : PageRef
  vRef : PageRef
  kView : View
  vView : View
  lens : List Nat
  seqLen : Nat
deriving DecidableEq, Repr

/-- The view of a half that a page reference names (R160). -/
def refView (r : PageRef) (base half : Nat) (lens : List Nat) : View :=
  let d : Desc :=
    { format := r.hdr.format, deliver := r.hdr.format, space := 3, addrMode := 0, trans := false, ptrAxis := 0, fsRate := 0
      scale := 0x3F800000, base := base, rowStride := 0, rows := if half = 0 then r.hdr.dim else 0xFFFFFFFF
      cols := if half = 0 then 0xFFFFFFFF else r.hdr.dim, rowSel := 15, colSel := 15, rnd := 0, spill := false
      aDesc := 0, bDesc := 0, drainLen := 0, drainWord := 0, aux := half }
  { d := d, role := .plain, c := 0, base := base, rLo := 0, rEnd := if half = 0 then r.hdr.dim else 128 * r.len, cLo := 0
    cEnd := if half = 0 then 128 * r.len else r.hdr.dim, page := some r, seqLen := lenSel lens r.seqSel
    qOrg := if r.qSel = 15 then 0 else lens.getD r.qSel 0 }

/-- Sequence of a problem (R438): the references of the command, or those of the sequence record that `B_BASE` names. -/
def State.sequence (s : State) (p : AttendParams) (listed : Bool) (x : Problem) : Except RdErr Sequence := do
  let rec' := x.b.getD 0
  let (ka, va) := if listed then (rec', rec' + 64) else (p.kRef, p.vRef)
  let k ← readRef s ka
  let v ← readRef s va
  let bs ← s.rdBytes (va + 64) 64
  let lens := (List.range 16).map (fun i => fieldLE bs (4 * i) 4)
  .ok { x := x, kRef := k, vRef := v, kView := refView k ka 0 lens, vView := refView v va 1 lens, lens := lens
        seqLen := if k.seqSel = 15 then 128 * k.len else lens.getD k.seqSel 0 }

/-- The class of a page format: logarithmic, or one delivered as BF16 (R153). -/
def lnsPages (r : PageRef) : Bool := r.hdr.format == fmtLNS16 || r.hdr.format == fmtLNS8

/-- Delivered formats of the queries and probabilities, and of the pages (R153, R435). -/
def pageFormats (r : PageRef) : Nat × Nat := if lnsPages r then (fmtLNS16, r.hdr.format) else (fmtBF16, fmtBF16)

/-- What an ATTEND works with on one sequence. -/
structure AttendCtx where
  p : AttendParams
  strict : Bool
  img : SfBank
  q : View
  /-- Scale of the queries. -/
  sq : Nat
  out : View
  seq : Sequence
  rows : Nat
  /-- Rectangles of the output that the command resumes from (R354). -/
  rects : List Rect := []
deriving DecidableEq, Repr

/-- The score of query row i against key column n: the drained value of the score product, none where the lane is excluded
(R49, R166). The score scratch has scale 1.0 (log 31). -/
def AttendCtx.score (x : AttendCtx) (s : State) (i n lp : Nat) : Except RdErr (Option Acc44 × Nat) := do
  let r := x.seq.kRef
  let ref : ScoreRef := ⟨128 * lp, x.seq.kView.seqLen, true, r.mask, r.window, x.seq.kView.qOrg⟩
  if ref.excludes (x.seq.kView.qOrg + i) (128 * lp + n % 128) then .ok (none, 0)
  else
    let (dq, dk) := pageFormats r
    let prod : Product := ⟨x.strict, ⟨x.q, false, dq⟩, ⟨x.seq.kView, false, dk⟩, min x.q.cEnd r.hdr.dim, 0⟩
    let (acc, fl) ← prod.acc s i n
    let (y, f) := accRoundF x.strict ((accNum acc).mul (accNum (combinedScale x.strict x.sq x.seq.kView.scale 0x3F800000)))
    .ok (some y, nfOr fl f)

/-- The 128 lanes of row i in key block j, excluded ones at the mask value (R120, R166). -/
def AttendCtx.scoreRow (x : AttendCtx) (s : State) (i j lp : Nat) : Nat → Except RdErr (List Acc44 × Nat)
  | 0 => .ok ([], 0)
  | n + 1 => do
    let (ls, fl) ← x.scoreRow s i j lp n
    let (y, f) ← x.score s i (128 * j + n) lp
    .ok (ls ++ [y.getD accMask], nfOr fl f)

/-- The statistics of row i over key blocks j … (R121, R127). -/
def AttendCtx.sumBlocks (x : AttendCtx) (s : State) (i : Nat) (r : RsRow × Bool × Nat) : List Nat → Except RdErr (RsRow × Bool × Nat)
  | [] => .ok r
  | j :: js => do
    let (lp, _) ← x.seq.kRef.lpage s j
    let (lanes, fl) ← x.scoreRow s i j lp 128
    let o := smxSumRow x.img x.strict x.p.scoreScale r.1 lanes (fun _ => true)
    x.sumBlocks s i (o.row, r.2.1 || o.ranged, nfOr r.2.2 (nfOr fl o.flags)) js

/-- Key blocks of the segments of an operation: `KEY_SEG` counts key blocks as `K_SEG` counts K blocks, and 0 is one segment
(R127; log 31). -/
def AttendCtx.segments (x : AttendCtx) : List (List Nat) :=
  let n := x.seq.kRef.len
  if x.p.keySeg = 0 || n ≤ x.p.keySeg then [List.range n]
  else (List.range (ceilDiv n x.p.keySeg)).map (fun g =>
    (List.range (min x.p.keySeg (n - g * x.p.keySeg))).map (g * x.p.keySeg + ·))

/-- A row finished, with its flags and its domain case (R111, R123). -/
def AttendCtx.finish (x : AttendCtx) (r : RsRow) : RsRow × Nat :=
  let (y, f, d) := rsFinish x.img x.strict r
  (y, nfOr f (nfWhen d nfDomain))

/-- Row statistics of row i: one finished set, or the records of the segments added in ascending order and finished
(R123, R127). -/
def AttendCtx.stats (x : AttendCtx) (s : State) (i : Nat) : Except RdErr (RsRow × Bool × Nat) := do
  let parts ← x.segments.mapM (fun g => x.sumBlocks s i ({}, false, 0) g)
  let finished := parts.map (fun r => (x.finish r.1, r.2))
  let ranged := finished.any (fun r => r.2.1)
  let flags := finished.foldl (fun f r => nfOr f (nfOr r.1.2 r.2.2)) 0
  match finished with
  | [r] => .ok (r.1.1, ranged, flags)
  | rs =>
    let (all, fa) := rs.foldl (fun acc r =>
      let y := rsOfRecord x.strict (rsRecord r.1.1)
      (rsAccRow x.strict acc.1 y, nfOr acc.2 (rsAccFlags x.strict acc.1 y))) ({}, 0)
    let (y, f) := x.finish all
    .ok (y, ranged || all.range, nfOr flags (nfOr fa f))

/-- Probabilities of row i in key block j as the output product takes them: SMX_PROB, stored in the P ring in the format
that goes with the pages, nearest-even with scale 1.0, and loaded from it (R125, R153; log 31). -/
def AttendCtx.probRow (x : AttendCtx) (s : State) (i j : Nat) (r : RsRow) : Except RdErr (List Nat × Bool × Nat) := do
  let (lp, _) ← x.seq.kRef.lpage s j
  let (lanes, fl) ← x.scoreRow s i j lp 128
  let o := smxProbRow x.img x.strict x.p.scoreScale r lanes (fun _ => true)
  let f := (pageFormats x.seq.kRef).1
  let st := o.lanes.map (storeConvert x.strict f 0 (fun _ => 0))
  let ld := st.map (fun y => loadConvert x.strict f f y.code)
  .ok (ld.map (·.1), o.ranged, nfOr (nfOr fl o.flags) (nfOr (st.foldl (fun g y => nfOr g y.flags) 0) (ld.foldl (fun g y => nfOr g y.2) 0)))

/-- The probabilities of row i by key block. -/
def AttendCtx.probs (x : AttendCtx) (s : State) (i : Nat) (r : RsRow) : List Nat → Except RdErr (List (Nat × List Nat) × Bool × Nat)
  | [] => .ok ([], false, 0)
  | j :: js => do
    let (ps, rg, fl) ← x.probRow s i j r
    let (rest, rg', fl') ← x.probs s i r js
    .ok ((j, ps) :: rest, rg || rg', nfOr fl fl')

/-- The chain of P · V for output column d over the lanes of a key block (R168). -/
def AttendCtx.lanes (x : AttendCtx) (s : State) (j d : Nat) (ps : List Nat) (acc : Acc44 × Nat) : Nat → Except RdErr (Acc44 × Nat)
  | 0 => .ok acc
  | n + 1 => do
    let (a, fl) ← x.lanes s j d ps acc n
    let (dp, dv) := pageFormats x.seq.vRef
    let (v, f) ← (⟨x.seq.vView, false, dv⟩ : Factor).read s x.strict (128 * j + n) d
    let (a, o) := accStep x.strict a (cellProduct dp dv (ps.getD n (zeroCode dp)) v)
    .ok (a, nfOr fl (nfOr f (nfWhen o nfAccOverflow)))

/-- One segment's chain from +0, in ascending list position; a key block with every probability +0 by exclusion adds
nothing and its page is not walked (R157, R167, R168). -/
def AttendCtx.chain (x : AttendCtx) (s : State) (d : Nat) (acc : Acc44 × Nat) : List (Nat × List Nat) → Except RdErr (Acc44 × Nat)
  | [] => .ok acc
  | (j, ps) :: rest => do
    let acc ← x.lanes s j d ps acc 128
    x.chain s d acc rest

/-- Segment results added in ascending order (R141, R168). -/
def AttendCtx.join (x : AttendCtx) (s : State) (d : Nat) (acc : Option (Acc44 × Nat)) : List (List (Nat × List Nat)) → Except RdErr (Acc44 × Nat)
  | [] => .ok (acc.getD (accZero, 0))
  | g :: gs => do
    let part ← x.chain s d (accZero, 0) g
    match acc with
    | none => x.join s d (some part) gs
    | some a =>
      let (v, f) := accRoundF x.strict ((accNum a.1).add (accNum part.1))
      x.join s d (some (v, nfOr (nfOr a.2 part.2) f)) gs

/-- One output. A block refills from a partial that ends with a key block of the only segment, or with a segment (R70, R354). -/
def AttendCtx.output (x : AttendCtx) (s : State) (i cols d : Nat) (segs : List (List (Nat × List Nat))) : Except RdErr (Acc44 × Nat) :=
  match resumeAt x.rects x.rows cols i d with
  | .upto k acc =>
    let j := k / 128
    match segs with
    | [g] => x.chain s d (acc, 0) (g.filter (fun e => decide (j ≤ e.1)))
    | _ =>
      if x.p.keySeg = 0 || j % x.p.keySeg ≠ 0 then x.join s d none segs
      else x.join s d (some (acc, 0)) (segs.drop (j / x.p.keySeg))
  | _ => x.join s d none segs

/-- A key block whose every lane is excluded for all rows of query block m is skipped (R167). -/
def AttendCtx.skips (x : AttendCtx) (s : State) (m j : Nat) : Except RdErr Bool := do
  let (lp, _) ← x.seq.kRef.lpage s j
  let r := x.seq.kRef
  .ok ((⟨128 * lp, x.seq.kView.seqLen, true, r.mask, r.window, x.seq.kView.qOrg⟩ : ScoreRef).allMasked m)

/-- The record of query block m of a problem (R123, R124, R261; log 31). -/
def AttendCtx.recordAddr (x : AttendCtx) (m : Nat) : Nat :=
  x.p.rsAddr + 2048 * (x.seq.x.no * ceilDiv x.q.d.rows 128 + m)

/-- Columns of the output. -/
def AttendCtx.cols (x : AttendCtx) : Nat := min x.out.cEnd x.seq.vRef.hdr.dim

/-- One query row: its statistics row, its outputs, and whether a softmax range was met. -/
def AttendCtx.row (x : AttendCtx) (s : State) (i : Nat) : Except RdErr (RsRow × List OutElem × Bool) := do
  let (st, rg, fl) ← if x.p.pass = 0 then x.stats s i
    else do
      let bs ← s.rdBytes (x.recordAddr (i / 128) + 16 * (i % 128)) 16
      .ok (rsOfRecord x.strict bs, false, 0)
  let segs ← x.segments.mapM (fun g => do
    let kept ← g.filterM (fun j => (x.skips s (i / 128) j).map (fun b => !b))
    x.probs s i st kept)
  let rg := rg || segs.any (fun g => g.2.1) || st.range
  let fl := nfOr (nfOr fl (segs.foldl (fun f g => nfOr f g.2.2) 0)) (nfWhen rg nfRange)
  let outs ← (List.range x.cols).mapM (fun d => (x.output s i x.cols d (segs.map (·.1))).map (fun a => (d, a)))
  .ok (st, outs.map (fun o => ⟨i, o.1, o.2.1, nfOr fl o.2.2⟩), rg)

/-- The rows of a sequence. -/
def AttendCtx.all (x : AttendCtx) (s : State) : Nat → Except RdErr (List RsRow × List OutElem × Bool)
  | 0 => .ok ([], [], false)
  | n + 1 => do
    let (rs, es, rg) ← x.all s n
    let (r, e, rg') ← x.row s n
    .ok (rs ++ [r], es ++ e, rg || rg')

/-- The records that a forward pass writes: 128 rows a block, rows beyond the queries cleared (R123, R124). -/
def AttendCtx.records (x : AttendCtx) (rs : List RsRow) : List (Nat × List Byte) :=
  (List.range (ceilDiv rs.length 128)).map (fun m =>
    (x.recordAddr m, (List.range 128).flatMap (fun r => rsRecord (rs.getD (128 * m + r) {}))))

/-- The context of a sequence; a paged output's first token is the length word that its own reference selects (R158, R162). -/
def State.attendCtx (s : State) (rects : List Rect) (p : AttendParams) (tq tout : Tensor) (q : Sequence) : Except RdErr AttendCtx := do
  let vq ← (tq.at q.x.a).view s .plain 0 q.lens
  let org ← s.outOrg (tout.at q.x.out) (fun i => q.lens.getD i 0)
  let vo ← (tout.at q.x.out).view s .out p.rnd q.lens org
  .ok { p := p, strict := s.strict tq.job, img := s.jobImage tq.job, q := vq, sq := tq.scaleIn vq, out := vo, seq := q
        rows := min (min vq.rEnd vo.rEnd) q.x.m, rects := rects }

/-- The sequences of an ATTEND, in list order. -/
def State.sequences (s : State) (p : AttendParams) : Except RdErr (List Sequence) := do
  let listed := decide (p.listCount ≠ 0)
  let xs ← if listed then s.problems p.listAddr p.listCount else pure [{}]
  xs.mapM (s.sequence p listed)

/-- The programs of a sequence on the Chambers of a group: each query block on one, its key segments on those that follow (R168, R169),
with the key blocks that a mask skips taken out of the work (R167). -/
def AttendCtx.plans (x : AttendCtx) (s : State) (g : StageGroup) : List (Nat × List PlanWord × Work) :=
  let c := g.chambers.length
  let mb := ceilDiv x.rows 128
  let segs := x.segments
  let bounds : NestBounds := { mLo := 0, mEnd := x.rows, mTop := 2 ^ 40, nLo := 0, nEnd := 128 * x.seq.kRef.len, nTop := 2 ^ 40, keptK := 1, group := none }
  (List.range mb).flatMap (fun m => segs.zipIdx.map (fun y =>
    let ws := attendWords (x.p.pass == 0) m (y.1.headD 0) y.1.length y.2 segs.length
    let masked := (y.1.filter (fun j => match x.skips s m j with | .ok b => b | .error _ => false)).length
    let passes := if x.p.pass = 0 then 2 else 1
    let w := planWork [bounds] ws
    (g.chambers.getD ((rankOf mb c m + y.2) % c) 0, ws,
     { w with sweeps := w.sweeps - (passes + 1) * masked, masked := passes * masked })))

/-- What an ATTEND produces: outputs, and the writes of its records. -/
def State.attendAll (s : State) (rects : List Rect) (p : AttendParams) (tq tout : Tensor) : List Sequence → Except RdErr (Produced × List (Nat × List Byte))
  | [] => .ok ({}, [])
  | q :: qs => do
    let x ← s.attendCtx rects p tq tout q
    let (rs, es, rg) ← x.all s x.rows
    let (r, ws) ← s.attendAll rects p tq tout qs
    let am := amaxOf 0x3F800000 q.vView.scale (es.map (·.acc))
    let ws' := if p.pass = 0 && p.rsAddr ≠ 0 then x.records rs else []
    let part : OutPart := { v := x.out, listed := q.x.no, elems := es, sb := q.vView.scale, rects := rects, rows := x.rows, cols := x.cols }
    .ok ({ parts := part :: r.parts, amax := max am r.amax, flags := nfOr ((es.map (·.flags)).foldl nfOr 0) r.flags
           status := if rg then 4 else r.status }, ws' ++ ws)

/-- The programs of an ATTEND, one a Chamber: its sequences' one after the other. -/
def State.attendPlans (s : State) (g : StageGroup) (p : AttendParams) (tq tout : Tensor) (qs : List Sequence) : Planned :=
  let all := qs.flatMap (fun q => match s.attendCtx [] p tq tout q with | .ok x => x.plans s g | .error _ => [])
  { plans := (g.chambers.filter (fun c => all.any (fun x => x.1 == c))).map (fun c =>
      g.plan c 0 1 ((all.filter (fun x => x.1 == c)).flatMap (fun x => x.2.1)))
    work := all.map (fun x => (x.1, x.2.2)) }

/-- The format classes of the pages and the queries agree (R153). -/
def attendFormats (tq : Tensor) (qs : List Sequence) : Bool :=
  qs.all (fun q => q.kRef.hdr.format == q.vRef.hdr.format &&
    (if lnsPages q.kRef then tq.stored == fmtLNS16 || tq.stored == fmtLNS8 else tq.stored != fmtSpill))

/-- Checks of ATTEND on its parameters and tensors. -/
def State.attendChecks (s : State) (h : Cmd) (p : AttendParams) : List Check :=
  let job := (s.entry h).jobId
  let q := s.tensor? job p.q
  let o := s.tensor? job p.out
  [s.jobCheck h, s.param h (operandOk q) 0, s.param h o.isSome 4, s.param h (fpClass fmtFP32 fpFP32 p.scoreScale != .inf &&
     fpClass fmtFP32 fpFP32 p.scoreScale != .nan) 24, s.param h (decide (p.pass ≤ 1)) 40, s.param h (decide (p.rnd ≤ 2)) 41,
   s.param h (decide (p.edges.length ≤ 16)) 42, match q with | some t => s.scaleCheck t | none => none,
   match o with | some t => s.outScaleCheck t | none => none] ++
    s.listScales q (·.a) p.listAddr p.listCount ++ s.listScales o (·.out) p.listAddr p.listCount ++
    [check (s.jobGroup job 0x42).isSome stNoResources 0]

/-- ATTEND (R168). Its score and probability tiles are not seen; its output and its records are written. It waits while a Chamber of
its group is held. -/
def execAttend (h : Cmd) (p : AttendParams) (s : State) : Out :=
  let job := (s.entry h).jobId
  let s := s.refetchTensors job [p.q]
  s.run h (s.attendChecks h p)
    (if !s.stageRuns (s.jobGroup job 0x42) then s
     else
     match s.tensor? job p.q, s.tensor? job p.out, s.sequences p, s.jobGroup job 0x42 with
     | some tq, some tout, .ok qs, some g =>
       -- the tables that its references name, before it begins (R154)
       match qs.findSome? (fun q => (hdrScales q.kRef.hdr).orElse (fun _ => hdrScales q.vRef.hdr)) with
       | some (st, d) => s.fail h st d
       | none =>
         if !attendFormats tq qs then s.bad h 0
         else
           match badBuckets p.edges (qs.map (·.seqLen)) with
           | some d => s.fail h stBadBuckets d
           | none =>
             match s.attendAll (if p.listCount = 0 then s.heldRects h 0x42 else []) p tq tout qs with
             | .error e => s.rdStop h 0x42 e
             | .ok (r, ws) =>
               match ws.find? (fun w => !s.hostRange w.1 w.2.length) with
               | some w => s.addrFail h w.1
               | none =>
                 let fin := drainFin (s.strict job) (s.jobImage job) 0xFF (s.outDraws h tout p.stream)
                 let r := { r with parts := r.parts.flatMap (fun y => y.divide (.alongM (ceilDiv y.rows 128)) g.chambers) }
                 ((((s.storeAll ws).setGroup { g with chunks := g.chunks + 1 })).runPlans (s.attendPlans g p tq tout qs) (List.range 32)).produce h 0x42
                   (if p.pass = 0 then tout else tout.unsaved) p.stream p.rnd r {} fin false
     | _, _, .error e, _ => s.rdStop h 0x42 e
     | _, _, _, _ => s.bad h 0)

end Sys2Proof.Machine
end

