-- ==== Sys2Proof/Machine/Time.lean ====
section
/-!
DEFINITION. Module time: TIME flits, the reference, steps and slews, convergence and its loss (R313 to R320).
-/
namespace Sys2Proof.Machine

/-! ### Convergence (R317, R319) -/

/-- The payload of a log entry of class 0x06: θ in 1/16 tick, `HOPS`, reference port (R326). -/
def State.timePayload (s : State) : List Byte :=
  bytesLE 4 (s.reg .modTimeOffset 0) ++ bytesLE 1 (s.reg .modTimeHops 0) ++ bytesLE 1 (s.reg .modTimeRefPort 0)

/-- Every die's copy was within 1 ns of die 0 at its last exchange (R314, R317). -/
def State.diesClose (s : State) : Bool := s.dieOffset.all (fun e => decide (e.2.natAbs ≤ 32))

/-- `TIME_ROOT_SELF`: this module is the root that `MOD_TIME_ROOT` names. -/
def State.rootNow (s : State) : State :=
  let self := s.reg .modRootValid 0 == 1 && s.reg .fabAddrValid 0 == 1 && s.reg .modTimeRoot 0 == s.self
  let s := s.put .modTimeRootSelf 0 (if self then 1 else 0)
  if self then (s.put .modTimeHops 0 0).put .modTimeRefPort 0 7 else s

/-- The conditions of R317; while no root is named the module runs free (R329). -/
def State.mayConverge (s : State) : Bool :=
  s.reg .modRootValid 0 == 1 && s.diesClose &&
    (s.reg .modTimeRootSelf 0 == 1 ||
      (decide (s.reg .modTimeRefPort 0 < 6) && (s.port (s.reg .modTimeRefPort 0)).partnerState == 1 && decide (64 ≤ s.refGood)))

/-- The module becomes converged (R317, R408). -/
def State.tryConverge (s : State) : State :=
  if s.reg .modTimeConverged 0 = 1 || !s.mayConverge then s
  else
    let s := (s.flag .modTimeConverged 0).put .modTimeConvergedAt 0 s.now
    (s.log 3 0 0x0602 s.timePayload).hostEvent 7

/-- The module loses convergence (R319, R408). -/
def State.loseTime (s : State) : State :=
  let s := { s with refGood := 0, refFar := false, slew := 0, slewTicks := 0 }
  if s.reg .modTimeConverged 0 = 0 then s
  else ((s.put .modTimeConverged 0 0).flag .modTimeLost 0).log 3 0 0x0603 s.timePayload |>.hostEvent 7

/-! ### The reference (R316, R319) -/

/-- A port whose partner may be the reference. -/
def State.refCandidate (s : State) (p : Nat) : Bool :=
  let x := s.port p
  s.reg .portMode p == 0 && s.reg .portLinkState p != 0 && x.partnerState == 1 && decide (x.partnerHops < 255) &&
    x.partnerRoot == s.reg .modTimeRoot 0 && s.reg .modRootValid 0 == 1

/-- The candidate of least `HOPS`, the lower port first. -/
def State.bestRef (s : State) : Option Nat :=
  ((List.range 6).filter s.refCandidate).foldl (fun best p =>
    match best with
    | none => some p
    | some q => if (s.port p).partnerHops < (s.port q).partnerHops then some p else some q) none

/-- A port is taken as the reference. -/
def State.setRef (s : State) (p : Nat) : State :=
  let hops := min 255 ((s.port p).partnerHops + 1)
  let s := if s.reg .modTimeHops 0 < hops then { s with refFar := true } else s
  (s.put .modTimeRefPort 0 p).put .modTimeHops 0 hops

/-- The module follows the best reference; a change of it starts the count of good exchanges again before convergence. With
none left, convergence is lost. -/
def State.follow (s : State) : State :=
  if s.reg .modTimeRootSelf 0 = 1 then s
  else
    let old := s.reg .modTimeRefPort 0
    match s.bestRef with
    | some p => if p = old then s.setRef p else { s.setRef p with refGood := 0 }
    | none => if old = 7 then s else ((s.loseTime).put .modTimeRefPort 0 7).put .modTimeHops 0 255

/-- `MOD_TIME_ROOT` is written (R319). -/
def State.setTimeRoot (s : State) (root valid : Nat) : State :=
  let s := ((s.put .modTimeRoot 0 root).put .modRootValid 0 valid).loseTime
  let s := (s.put .modTimeRefPort 0 7).put .modTimeHops 0 255
  (s.rootNow.follow).tryConverge

/-- The module's own address has changed: it may have become the root, or have ceased to be it (R319, R329). -/
def State.addrChanged (s : State) : State :=
  let was := s.reg .modTimeRootSelf 0
  let s := s.rootNow
  if s.reg .modTimeRootSelf 0 = was then s
  else if was = 1 then ((s.loseTime.put .modTimeRefPort 0 7).put .modTimeHops 0 255).follow
  else s.tryConverge

/-! ### Offset (R316) -/

/-- Twice θ of an exchange in sixteenths of a tick. -/
def timeOffset2 (f : TimeFlit) : Int :=
  let t1 : Int := (16 * f.tTxEcho + f.echoFine : Nat)
  let t2 : Int := (16 * f.tRxLast + f.fineRx : Nat)
  let t3 : Int := (16 * f.tTx + f.fineTx : Nat)
  let t4 : Int := (16 * f.rxTime + f.rxFine : Nat)
  (t2 - t1) + (t3 - t4)

/-- The time moves by a number of sixteenths of a tick. -/
def State.shiftTime (s : State) (x : Int) : State :=
  let v := ((16 * s.now + s.fine : Nat) : Int) + x
  let n := v.toNat
  ({ s with fine := n % 16 }).put .modTimeNow 0 (n / 16)

/-- A step of the time before convergence (R316, R326). -/
def State.stepTime (s : State) (x : Int) : State :=
  if x = 0 then s
  else
    let s := ((s.shiftTime x).flag .modTimeStepped 0).bump .modTimeSteps 0 1
    s.log 3 0 0x0601 s.timePayload

/-- What an exchange with the reference does: the offset is θ rounded to a sixteenth of a tick either way, as the free value
says. At more than one tick a converged module that has changed to a farther reference loses convergence (R319). -/
def State.exchange (s : State) (f : TimeFlit) : State :=
  let d := timeOffset2 f
  let (v, s) := s.takeFree
  let x := if d % 2 = 0 then d / 2 else d / 2 + (v % 2 : Nat)
  let s := s.put .modTimeOffset 0 (unsigned 32 x)
  let good := decide (d.natAbs ≤ 32)
  let farther := s.refFar
  let s := { s with refGood := if good then s.refGood + 1 else 0, refFar := false }
  if s.reg .modTimeConverged 0 = 0 then (s.stepTime x).tryConverge
  else if farther && !good then s.loseTime
  else { s with slew := x }

/-- TIME_FLIT (R315, R316). -/
def execTimeFlit (p : Nat) (f : TimeFlit) (s : State) : Out :=
  if s.reg .portMode p = 1 || s.reg .portLinkState p = 0 then .next s
  else
    let s := s.modPort p (fun x => { x with
      lastTimeRx := f.rxTime, lastTimeRxFine := f.rxFine, lastPartnerTx := f.tTx, partnerHops := f.hops, partnerRoot := f.rootAddr
      partnerState := f.tstate })
    let s := s.follow
    -- the partner has echoed a flit of this module once it has received one
    if s.reg .modTimeRefPort 0 = p && s.reg .modTimeRootSelf 0 = 0 && f.tTxEcho ≠ 0 then
      .next (s.exchange f)
    else .next s.tryConverge

/-- TIME_FLIT_SEND (R315): from DETECT onward. -/
def execTimeFlitSend (p : Nat) (s : State) : Out :=
  if s.reg .portMode p = 1 || s.reg .portLinkState p = 0 then .next s
  else
    let x := s.port p
    let f : TimeFlit :=
      { tTx := s.now, fineTx := s.fine, fineRx := x.lastTimeRxFine, tstate := s.reg .modTimeConverged 0, hops := s.reg .modTimeHops 0
        rootAddr := s.reg .modTimeRoot 0, tRxLast := x.lastTimeRx, tTxEcho := x.lastPartnerTx, rxTime := 0, rxFine := 0 }
    .next ((s.modPort p (fun x => { x with lastTimeTx := s.now })).send (.time p f))

/-- DIE_TIME_EXCHANGE (R313, R317): the keeper of a die finds the error of its copy against die 0, in sixteenths of a tick,
and corrects it. -/
def execDieTimeExchange (d : Nat) (errorSixteenths : Int) (s : State) : Out :=
  if d = 0 then .next s.tryConverge
  else .next ({ s with dieOffset := tset 0 s.dieOffset d errorSixteenths }).tryConverge

end Sys2Proof.Machine
end

