-- ==== Sys2Proof/Machine/Links.lean ====
section
/-!
DEFINITION. Links of the torus: training, capability records, flits with their acknowledgements, failure of a port and the
registers that command a port (R266 to R276, R283, R292).
-/
namespace Sys2Proof.Machine

/-! ### States of a link (R268) -/

def linkDown : Nat := 0
def linkDetect : Nat := 1
def linkEqualise : Nat := 2
def linkLock : Nat := 3
def linkCaps : Nat := 4
def linkStandby : Nat := 5
def linkActive : Nat := 6

/-- `HISTORY_READY`: some port is in service and every such port has its history (R283). -/
def State.historyReady (s : State) : State :=
  let ps := (List.range 6).filter (fun p => s.reg .portInService p == 1)
  s.put .fabHistoryReady 0 (if !ps.isEmpty && ps.all (fun p => (s.port p).history) then 1 else 0)

/-- A port with nothing of its last link: what DOWN and DETECT leave. -/
def Port.fresh (x : Port) : Port :=
  { x with caps := none, sentCaps := false, trial := 1, settled := none, txSeq := 0, rxSeq := 0, retry := [], queue := [], sent := []
           used := List.replicate 8 0, heard := false, history := false }

/-- Registers of the trained link, cleared in DOWN and DETECT. -/
def State.clearLink (s : State) (p : Nat) : State :=
  (((s.put .portRate p (if s.reg .portMode p = 1 then 3 else 0)).put .portProtocol p 0).put .portHalf p 0).put .portLaneHalf p 0

/-- A port that leaves ACTIVE: it is out of service, and every packet with a flit that is not acknowledged, then every packet
that waits, is injected again as if it had just arrived at this port (R276). -/
def State.leaveActive (s : State) (p : Nat) (ks : List Packet) : State :=
  let s := ((s.bumpSat .portDownCount p 1).put .portInService p 0).historyReady
  (ks.foldl (fun s k => s.forwardOr k (some p)) s).follow

/-- A change of `LINK_STATE`: its log entry and its event (R268, R326, R408), and what the change does to the port. -/
def State.linkState (s : State) (p new : Nat) : State :=
  let old := s.reg .portLinkState p
  if old = new then s
  else
    let x := s.port p
    let waiting := x.sent.map (·.1) ++ x.queue
    let s := (s.modPort p (fun x => { x with stateSince := s.now })).put .portLinkState p new
    let s := (s.log 4 p 0x0501 (bytesLE 1 p ++ bytesLE 1 old ++ bytesLE 1 new ++ bytesLE 3 (s.reg .portPeerAddr p))).hostEvent 3
    let s := if new ≤ 1 then (s.modPort p Port.fresh).clearLink p else s
    let s := if new = 0 then s.modPort p (fun x => { x with partnerState := 0, partnerHops := 255 }) else s
    if old = 6 then s.leaveActive p waiting
    else if new = 6 then ({ s with portsFailedAt := tset 0 s.portsFailedAt (8 * s.self + p) 0 }.bumpSat .portTrainCount p 1).send (.flit p [])
    else if new = 0 then s.follow
    else s

/-- A port that may train: torus, enabled, and neither failed nor refused (R268, R269, R275). -/
def State.mayTrain (s : State) (p : Nat) : Bool :=
  s.reg .portMode p == 0 && s.reg .portEnable p == 1 && !(s.port p).blocked

/-- A port in DOWN that may train enters DETECT (R268). -/
def State.leaveDown (s : State) (p : Nat) : State :=
  if s.reg .portLinkState p = 0 && s.mayTrain p then s.linkState p 1 else s

/-- `ENABLE` is written (R268, R290). -/
def State.setEnable (s : State) (p v : Nat) : State :=
  let s := s.put .portEnable p v
  if v % 2 = 0 then s.linkState p 0 else s.leaveDown p

/-- `RETRAIN` is written with 1 (R268, R269, R275): an ACTIVE port leaves to DOWN, and the port returns to DETECT, whatever
`ENABLE` says (log 52). -/
def State.retrain (s : State) (p : Nat) : State :=
  if s.reg .portMode p = 1 then s
  else
    let s := s.modPort p (fun x => { x with blocked := false })
    let s := if s.reg .portLinkState p = 6 then s.linkState p 0 else s
    s.linkState p 1

/-- `MODE` is written (R292). -/
def State.setMode (s : State) (p v : Nat) : State :=
  if s.reg .portLinkState p = 0 then (s.put .portMode p v).put .portRate p (if v % 2 = 1 then 3 else 0)
  else s.flag .portAccessErr p

/-- `IN_SERVICE` is set (R272). -/
def State.setInService (s : State) (p : Nat) : State :=
  let s := s.flag .portInService p
  (if s.reg .portLinkState p = 5 then s.linkState p 6 else s).historyReady

/-- RETRAIN. -/
def execRetrain (p : Nat) (s : State) : Out := .next (s.retrain p)

/-- IN_SERVICE. -/
def execInService (p : Nat) (s : State) : Out := .next (s.setInService p)

/-- MODE. -/
def execMode (p value : Nat) (s : State) : Out := .next (s.setMode p value)

/-! ### Training (R267 to R269) -/

/-- DETECT_SIGNAL (R268, R269): the first trial is at rate 1. -/
def execDetectSignal (p : Nat) (s : State) : Out :=
  if s.reg .portLinkState p = 1 then .next (s.linkState p 2) else .next s

/-- DETECT_RETRY (R268): a port that is DOWN and may train begins; one in DETECT looks again. -/
def execDetectRetry (p : Nat) (s : State) : Out := .next (s.leaveDown p)

/-- EQUALISE_COMPLETE (R267, R268): `lowOk` and `highOk` say which halves of the lanes have equalised. -/
def execEqualiseComplete (p : Nat) (lowOk highOk : Bool) (s : State) : Out :=
  if s.reg .portLinkState p ≠ 2 then .next s
  else if lowOk && highOk then .next (((s.put .portHalf p 0).put .portLaneHalf p 0).linkState p 3)
  else if (lowOk || highOk) && s.reg .portHalfOk p == 1 then
    .next (((s.flag .portHalf p).put .portLaneHalf p (if lowOk then 0 else 1)).linkState p 3)
  else .next s

/-- LOCK_ACQUIRED (R268). -/
def execLockAcquired (p : Nat) (s : State) : Out :=
  if s.reg .portLinkState p = 3 then .next ((s.put .portRate p (s.port p).trial).linkState p 4) else .next s

/-- Limit of a state in ticks (R268). -/
def linkLimit (st : Nat) : Option Nat :=
  if st = 2 then some 40000000 else if st = 3 || st = 4 then some 2000000 else none

/-- TRAIN_FAIL (R268). -/
def execTrainFail (p : Nat) (s : State) : Out :=
  match linkLimit (s.reg .portLinkState p) with
  | some t =>
    if (s.port p).stateSince + t ≤ s.now then .next ((s.flag .portTrainFail p).linkState p 1) else .next s
  | none => .next s

/-! ### Capability records (R269 to R272) -/

/-- This module's record on a port (R270). -/
def State.ownCaps (s : State) (p : Nat) : CapsRecord :=
  { partKind := 2, protoMax := 3, protoMin := 2, rates := 3, contractMajor := 3, contractMinor := 0, features := 15, port := p
    moduleAddr := s.self, addrValid := s.reg .fabAddrValid 0 == 1, timeNow := s.now, timeState := s.reg .modTimeConverged 0
    halfOk := s.reg .portHalfOk p == 1 }

/-- The highest link protocol in both ends' ranges (R269). -/
def commonProtocol (r : CapsRecord) : Option Nat :=
  if r.protoMin ≤ 3 && 3 ≤ r.protoMax then some 3 else if r.protoMin ≤ 2 && 2 ≤ r.protoMax then some 2 else none

/-- The module that port p must meet (R271). -/
def State.neighbour (s : State) (p : Nat) : Nat :=
  let step := fun axis =>
    let n := s.extent axis
    let c := coordOf s.self axis
    if p / 2 = axis then (if p % 2 = 0 then (c + 1) % n else (c + n - 1) % n) else c
  step 0 * 4096 + step 1 * 64 + step 2

/-- A partner's record agrees with the torus (R271). -/
def State.peerAgrees (s : State) (p : Nat) (r : CapsRecord) : Bool :=
  s.reg .fabAddrCheck 0 == 0 ||
    (r.addrValid && r.moduleAddr % 2 ^ 18 == s.neighbour p && r.port == p / 2 * 2 + (1 - p % 2))

/-- Both ends hold the other's record: the link's protocol and rate are settled, and the port goes on or is refused (R268,
R269, R271). -/
def State.settleLink (s : State) (p : Nat) (r : CapsRecord) : State :=
  let x := s.port p
  let s := (s.put .portPeerKind p r.partKind).put .portPeerAddr p r.moduleAddr
  match commonProtocol r with
  | none => ((s.flag .portNoCommon p).linkState p 0).modPort p (fun x => { x with blocked := true })
  | some v =>
    if (match x.settled with | some w => w != v | none => false) then s.linkState p 0
    else if s.reg .portHalf p = 1 && !r.halfOk then s.linkState p 0
    else if x.trial = 1 && bit r.rates 1 then
      (s.modPort p (fun x => { x with trial := 2, settled := some v, caps := none, sentCaps := false })).linkState p 2
    else if !s.peerAgrees p r then (s.flag .portAddrMismatch p).linkState p 0
    else
      let s := (s.put .portProtocol p v).linkState p 5
      if s.reg .portInService p = 1 then s.linkState p 6 else s

/-- The port goes on once it has sent its record and holds the partner's. -/
def State.trySettle (s : State) (p : Nat) : State :=
  let x := s.port p
  match x.caps with
  | some r => if x.sentCaps then s.settleLink p r else s
  | none => s

/-- CAPS_FLIT (R268 to R271). -/
def execCapsFlit (p : Nat) (r : CapsRecord) (s : State) : Out :=
  if s.reg .portLinkState p ≠ 4 then .next s
  else .next ((s.modPort p (fun x => { x with caps := some r })).trySettle p)

/-- CAPS_FLIT_SEND (R268): in CAPS, and in STANDBY for a partner that is still in CAPS (R272). -/
def execCapsFlitSend (p : Nat) (s : State) : Out :=
  if s.reg .portLinkState p = 4 then
    .next (((s.send (.caps p (s.ownCaps p))).modPort p (fun x => { x with sentCaps := true })).trySettle p)
  else if s.reg .portLinkState p = 5 then .next (s.send (.caps p (s.ownCaps p)))
  else .next s

/-! ### Flits (R272 to R277) -/

/-- The first eight bytes of a flit (R273). -/
def flitHeader (f : Flit) : Nat :=
  f.seq % 4096 + f.ackSeq % 4096 * 2 ^ 12 + (if f.ackValid then 2 ^ 24 else 0) + (if f.nak then 2 ^ 25 else 0) +
    f.creditVc % 8 * 2 ^ 26 + f.credits % 1024 * 2 ^ 29 + f.kind % 16 * 2 ^ 39

/-- The CRC of a flit over its bytes 0 to 251. -/
def flitCrc (f : Flit) : Nat := crc32c (bytesLE 8 (flitHeader f) ++ padTo 244 f.payload)

/-- Flits of the retry buffer that an acknowledgement of `ack` leaves; all of them where it names none of them. -/
def unackedAfter (ack : Nat) (rs : List Retry) : List Retry :=
  if rs.any (fun r => r.seq == ack) then (rs.dropWhile (fun r => r.seq != ack)).drop 1 else rs

/-- An acknowledgement releases flits, and the packets whose last flit it names or passes (R274). -/
def State.ackFlits (s : State) (p ack : Nat) : State :=
  s.modPort p (fun x =>
    let left := unackedAfter ack x.retry
    { x with retry := left, ackAt := if left.length < x.retry.length then s.now else x.ackAt, sent := x.sent.filter (fun k => left.any (fun r => r.seq == k.2)) })

/-- Returned buffer of a virtual channel (R277). -/
def State.takeCredits (s : State) (p vc n : Nat) : State :=
  s.modPort p (fun x => { x with used := x.used.set vc (x.used.getD vc 0 - n) })

/-- A port declares itself failed: it tells its keeper and stays down until `RETRAIN` (R275). -/
def State.declareFailed (s : State) (p : Nat) : State :=
  let s := { s with portsFailedAt := tset 0 s.portsFailedAt (8 * s.self + p) s.now }
  let s := (s.modPort p (fun x => { x with blocked := true })).flag .portPortFailed p
  (s.linkState p 0).raise 4 p evOther []

/-- Every flit of the retry buffer goes again, in the original order (R274). A flit that has gone 16 times is the end of the
port (R275). -/
def State.replay (s : State) (p : Nat) : State :=
  let rs := (s.port p).retry
  if rs.isEmpty then s
  else
    let s := s.modPort p (fun x => { x with retry := x.retry.map (fun r => { r with sends := r.sends + 1 }) })
    let s := rs.foldl (fun s r => s.send (.flit p r.payload)) s
    let s := (s.bump .portReplays p 1).bump .portFlitsTx p rs.length
    if rs.any (fun r => decide (16 ≤ r.sends + 1)) then s.declareFailed p else s

/-- A flit of `KIND` 0 or 1 with a good CRC on an ACTIVE link: acknowledgement, replay, credits, and delivery in order. -/
def State.takeFlit (s : State) (p : Nat) (f : Flit) : State :=
  let s := if f.ackValid then s.ackFlits p f.ackSeq else s
  let s := s.takeCredits p (f.creditVc % 8) f.credits
  let s := if f.nak then s.replay p else s
  let x := s.port p
  let s :=
    if f.kind = 1 || s.reg .portLinkState p ≠ 6 then s
    else if f.seq = x.rxSeq then (s.modPort p (fun x => { x with rxSeq := (x.rxSeq + 1) % 4096 })).bump .portFlitsRx p 1
    else s.send (.nak p ((x.rxSeq + 4095) % 4096))
  s.drainPort p

/-- DATA_FLIT (R272 to R274): a flit that fails its CRC is discarded and answered with `NAK`. CAPS and TIME flits have rows
of their own. -/
def execDataFlit (p : Nat) (f : Flit) (s : State) : Out :=
  let st := s.reg .portLinkState p
  if st < 5 then .next s
  else if f.crc ≠ flitCrc f then
    let s := s.bump .portCrcErrors p 1
    .next (if st = 6 then s.send (.nak p (((s.port p).rxSeq + 4095) % 4096)) else s)
  else if f.kind ≥ 2 then .next s
  else
    let s := s.modPort p (fun x => { x with heard := true })
    if st = 6 then .next (s.takeFlit p f) else .next s

/-- PORT_FAILURE (R275, R276): a locked port declares itself failed. -/
def execPortFailure (p : Nat) (s : State) : Out :=
  let st := s.reg .portLinkState p
  if st < 4 then .next s else .next (s.declareFailed p)

/-- PORT_HISTORY_READY (R283): ACTIVE for 1 ms. -/
def execPortHistoryReady (p : Nat) (s : State) : Out :=
  if s.reg .portLinkState p = 6 && decide ((s.port p).stateSince + 2000000 ≤ s.now) then
    .next ((s.modPort p (fun x => { x with history := true })).historyReady)
  else .next s

end Sys2Proof.Machine
end

