-- ==== Sys2Proof/Machine/Nv.lean ====
section
/-!
DEFINITION. The non-volatile memory and what is kept in it: rings of records, settings, firmware slots, the retirement
list, and the identity key with its signatures (R238, R239, R378 to R398).
-/
namespace Sys2Proof.Machine

/-! ### Lines (R378 to R381) -/

def nvKeyRing : Nat := 0x10000
def nvSlotRing : Nat := 0x20000
def nvSettings : Nat := 0x30000
def nvRetired : Nat := 0x40000
def nvSlotA : Nat := 0x80000
def nvSlotB : Nat := 0x200000

/-- The 64 bytes of a line; a line never written reads zero (log 6). -/
def State.nvLine (s : State) (n : Nat) : List Byte := padTo 64 (tget [] s.nvMem n)

/-- The bytes of `[off, off + n)`. -/
def State.nvBytes (s : State) (off n : Nat) : List Byte :=
  (((List.range ((off % 64 + n + 63) / 64)).flatMap (fun i => s.nvLine (off / 64 + i))).drop (off % 64)).take n

/-- A line is in force at once: boot and manufacture write and read back before they go on. -/
def State.nvPut (s : State) (line : Nat) (bs : List Byte) : State :=
  ({ s with nvMem := tset [] s.nvMem line (padTo 64 (bs.take 64)) }).bump .modNvWrites 0 1

/-- The content that a line will have once every write that waits has been made. -/
def State.nvAhead (s : State) (line : Nat) : List Byte :=
  s.nvQueue.foldl (fun bs w => if w.line = line then w.bytes else bs) (s.nvLine line)

/-- A line with bytes `off` onward replaced. -/
def splice (line : List Byte) (off : Nat) (bs : List Byte) : List Byte := line.take off ++ bs ++ line.drop (off + bs.length)

/-- A line write joins the queue (R381). Tags: 0 retirement entry, 1 key-state record, 2 slot-state record, 3 settings,
4 firmware slot. -/
def State.nvWrite (s : State) (prio tag line : Nat) (bs : List Byte) : State :=
  { s with nvQueue := s.nvQueue ++ [⟨prio, line, bs, 0, tag⟩] }

/-- The lines of a byte string that starts on a line. -/
def linesOf (off : Nat) (bs : List Byte) : List (Nat × List Byte) :=
  (List.range (ceilDiv bs.length 64)).map (fun i => (off / 64 + i, padTo 64 ((bs.drop (64 * i)).take 64)))

/-! ### Records with a CRC (R380) -/

/-- A record with its CRC-32C in the last four bytes. -/
def sealRecord (bs : List Byte) : List Byte :=
  let body := bs.take (bs.length - 4) ++ [0, 0, 0, 0]
  bs.take (bs.length - 4) ++ bytesLE 4 (crc32c body)

def sealed (bs : List Byte) : Bool := crc32c (zeroed bs (bs.length - 4) 4) == fieldLE bs (bs.length - 4) 4

/-- The record in force of a ring of records of `n` bytes, with its position: a correct CRC and the highest `RECORD_SEQ`.
Only lines that have been written are looked at: a line of zeros has no correct CRC. -/
def State.ringRecord (s : State) (off n : Nat) : Option (Nat × List Byte) :=
  let lines := (s.nvMem.map (·.1)).filter (fun l => decide (off / 64 ≤ l) && decide (l < off / 64 + 1024))
  let recs := lines.flatMap (fun l => (List.range (64 / n)).map (fun i =>
    ((l - off / 64) * (64 / n) + i, ((s.nvLine l).drop (n * i)).take n)))
  (recs.filter (fun r => sealed r.2)).foldl (fun best r =>
    match best with
    | none => some r
    | some b => if fieldLE b.2 0 4 < fieldLE r.2 0 4 then some r else some b) none

/-- Position and sequence number of the next record of a ring of `count` records. -/
def nextRecord (r : Option (Nat × List Byte)) (count : Nat) : Nat × Nat :=
  match r with
  | some (p, bs) => ((p + 1) % count, fieldLE bs 0 4 + 1)
  | none => (0, 0)

/-! ### Slot state (R384) -/

/-- The content of a slot-state record; its places within the record are log 34. -/
structure SlotState where
  committed : Nat := 0
  pending : Nat := 0xFF
  trials : Nat := 0
  secCounter : Nat := 0
  revoked : Nat := 0
  reverted : Nat := 0
deriving DecidableEq, Repr

def SlotState.bytes (x : SlotState) (seq : Nat) : List Byte :=
  sealRecord (bytesLE 4 seq ++ bytesLE 1 x.committed ++ bytesLE 1 x.pending ++ bytesLE 1 x.trials ++ bytesLE 1 x.revoked ++
    bytesLE 2 x.secCounter ++ bytesLE 1 x.reverted ++ List.replicate 53 0)

def State.slotState (s : State) : SlotState :=
  match s.ringRecord nvSlotRing 64 with
  | none => {}
  | some (_, bs) => { committed := fieldLE bs 4 1, pending := fieldLE bs 5 1, trials := fieldLE bs 6 1, revoked := fieldLE bs 7 1
                      secCounter := fieldLE bs 8 2, reverted := fieldLE bs 10 1 }

/-- Line and bytes of the next slot-state record. -/
def State.slotRecord (s : State) (x : SlotState) : Nat × List Byte :=
  let (p, q) := nextRecord (s.ringRecord nvSlotRing 64) 1024
  (nvSlotRing / 64 + p, x.bytes q)

/-- A slot-state record written at once. -/
def State.putSlotState (s : State) (x : SlotState) : State := let (l, bs) := s.slotRecord x; s.nvPut l bs

/-! ### Firmware images (R382, R383) -/

def imageLen (hd : List Byte) : Nat := 256 + fieldLE hd 20 4 + fieldLE hd 24 4

/-- Every header field lies within its range, the reserved bytes are zero and the part is this one. -/
def imageHeaderOk (hd : List Byte) : Bool :=
  fieldLE hd 0 4 == 0x4E52584F && fieldLE hd 4 2 == 1 && fieldLE hd 6 1 == 1 && decide (fieldLE hd 7 1 ≤ 1) &&
    fieldLE hd 18 1 == 2 && decide (fieldLE hd 19 1 ≤ 1) && decide (fieldLE hd 20 4 ≤ 1568768) && fieldLE hd 24 4 == 3604 &&
    zeroLE hd 60 196

/-- The 32 bytes of a SHA-256 digest, the first byte highest. -/
def digest (bs : List Byte) : List Byte := (bytesLE 32 (Config.sha256 bs).toNat).reverse

/-- The checks of R383 in their order: the code of R388 that an image fails with, none where it is accepted. -/
def imageFails (x : SlotState) (img : List Byte) : Option Nat :=
  let hd := img.take 256
  let payload := (img.drop 256).take (fieldLE hd 20 4)
  if !imageHeaderOk hd then some 4
  else if digest payload ≠ (hd.drop 28).take 32 then some 1
  else if fieldLE hd 7 1 = 0 && x.revoked = 1 then some 3
  else if !Config.hssVerify (fieldLE hd 7 1) (hd ++ payload) ((img.drop (256 + fieldLE hd 20 4)).take 3604) then some 1
  else if fieldLE hd 12 2 < x.secCounter then some 2
  else none

def slotBase (slot : Nat) : Nat := if slot = 0 then nvSlotA else nvSlotB

/-- The image in a slot; as much of it as its header says, where the header is one. -/
def State.slotImage (s : State) (slot : Nat) : List Byte :=
  let hd := s.nvBytes (slotBase slot) 256
  if imageHeaderOk hd then s.nvBytes (slotBase slot) (imageLen hd) else hd

def State.slotPasses (s : State) (x : SlotState) (slot : Nat) : Bool := (imageFails x (s.slotImage slot)).isNone

/-! ### FW_ACTIVATE (R388) -/

/-- The slot that is not committed. -/
def State.otherSlot (s : State) : Nat := 1 - s.slotState.committed

/-- A FW_ACTIVATE that ends without an image in place: `BAD_PARAM` with `DETAIL` 0. -/
def fwDone (code : Nat) : Done := { status := stBadParam, detail := 0, result := code }

/-- FW_ACTIVATE: the image is checked and its lines go to the slot that is not committed. -/
def execFwActivate (h : Cmd) (imageAddr : Nat) (s : State) : Out :=
  let hd := s.bytes imageAddr 256
  let n := if imageHeaderOk hd then imageLen hd else 256
  let img := s.bytes imageAddr n
  let slot := s.otherSlot
  let got := s.refetchFirst imageAddr n
  let read := got.readRange none clsManagement false imageAddr n
  let s1 := (linesOf (slotBase slot) img).foldl (fun s l => s.nvWrite 5 4 l.1 l.2)
    { read.hold h 0x79 [] with boot := { s.boot with fwBusy := some (h, slot) } }
  s.run h [check s.boot.fwBusy.isNone stBusy 0]
    (if !s.hostRange imageAddr 256 then s.addrFail h imageAddr
     else if !s.hostRange imageAddr n then s.addrFail h imageAddr
     else if got.poisoned imageAddr n then got.rdStop h 0x79 (got.poisonErr imageAddr n)
     else
       match imageFails s.slotState img with
       | some code => read.complete h (fwDone code)
       | none => s1)

/-- The last line of a slot is written: the slot is checked and named as pending. -/
def State.slotWritten (s : State) : State :=
  match s.boot.fwBusy with
  | none => s
  | some (h, slot) =>
    let img := s.slotImage slot
    let hd := img.take 256
    if digest ((img.drop 256).take (fieldLE hd 20 4)) = (hd.drop 28).take 32 then
      let (l, bs) := s.slotRecord { s.slotState with pending := slot, trials := 0 }
      s.nvWrite 3 2 l bs
    else ({ s with boot := { s.boot with fwBusy := none } }).finish h (fwDone 5)

/-- The slot-state record is in force: the image runs at the next module reset. -/
def State.slotPending (s : State) : State :=
  match s.boot.fwBusy with
  | none => s
  | some (h, _) => (({ s with boot := { s.boot with fwBusy := none } }).put .modFwPending 0 1).finish h {}

/-! ### Settings (R397, R398) -/

/-- The fixed fields of a settings image: offset, bytes, and the values that are in range. -/
def settingsFields : List (Nat × Nat × (Nat → Bool)) :=
  let addr := fun v => bits v 30 18 == 0
  let zero := fun v => v == 0
  let any := fun (_ : Nat) => true
  [(0, 4, fun v => v == 1), (4, 4, addr),
   (8, 4, fun v => bits v 7 6 == 0 && bits v 15 14 == 0 && bits v 23 22 == 0 && bits v 31 27 == 0), (12, 4, addr),
   (16, 2, fun v => v == 0 || (decide (1800 ≤ v) && decide (v ≤ 7200))), (18, 1, fun v => decide (v < 64)),
   (19, 1, fun v => decide (v < 64)), (20, 1, fun v => decide (v < 4)), (21, 11, zero), (32, 4, any), (36, 4, any), (40, 4, any),
   (44, 2, any), (46, 210, zero)]

/-- The first field that a write of `[lo, hi)` touches and that is out of range in the image. -/
def settingsBad (img : List Byte) (lo hi : Nat) : Option Nat :=
  (settingsFields.find? (fun f => decide (lo < f.1 + f.2.1) && decide (f.1 < hi) && !f.2.2 (fieldLE img f.1 f.2.1))).map (·.1)

def bankBase (b : Nat) : Nat := nvSettings + 0x8000 * b

/-- A bank's header and image. -/
def State.bank (s : State) (b : Nat) : List Byte := s.nvBytes (bankBase b) (64 + 16384)

/-- A bank whose header carries the right CRC over header and image, with its `GENERATION` (R380). -/
def State.bankGen (s : State) (b : Nat) : Option Nat :=
  if s.nvMem.all (fun l => !(l.1 == bankBase b / 64)) then none
  else
    let bs := s.bank b
    if crc32c (zeroed bs 60 4) = fieldLE bs 60 4 then some (fieldLE bs 0 4) else none

/-- The bank in force, with its generation. -/
def State.bankInForce (s : State) : Option (Nat × Nat) :=
  match s.bankGen 0, s.bankGen 1 with
  | some a, some b => if a < b then some (1, b) else some (0, a)
  | some a, none => some (0, a)
  | none, some b => some (1, b)
  | none, none => none

/-- The settings image in force; zeros where no bank has ever been stored. -/
def State.settingsImage (s : State) : List Byte :=
  match s.bankInForce with
  | some (b, _) => s.nvBytes (bankBase b + 64) 16384
  | none => List.replicate 16384 0

/-- SETTINGS_STORE (R398): the other bank is written, its header last. -/
def execSettingsStore (h : Cmd) (offset : Nat) (data : List Byte) (s : State) : Out :=
  let new := splice s.settingsImage offset data
  let (b, gen) := match s.bankInForce with | some (b, g) => (1 - b, g + 1) | none => (0, 1)
  let hd := bytesLE 4 gen ++ List.replicate 60 0
  let hd := hd.take 60 ++ bytesLE 4 (crc32c (hd ++ new))
  let bad := settingsBad new offset (offset + data.length)
  let s1 := (linesOf (bankBase b + 64) new).foldl (fun s l => s.nvWrite 4 3 l.1 l.2)
    { s.hold h 0x72 [] with boot := { s.boot with setBusy := some h } }
  s.run h [check s.boot.setBusy.isNone stBusy 0, s.param h (decide (data.length ≤ 960)) 4,
           s.param h (decide (offset + data.length ≤ 16384)) 0,
           s.param h bad.isNone (8 + (bad.getD 0 - offset))]
    (s1.nvWrite 4 3 (bankBase b / 64) hd)

/-- The new bank is in force. -/
def State.settingsStored (s : State) : State :=
  match s.boot.setBusy with
  | none => s
  | some h =>
    let s := match s.bankInForce with | some (_, g) => s.put .modSettingsGen 0 g | none => s
    ({ s with boot := { s.boot with setBusy := none } }).finish h {}

/-! ### The identity key (R389 to R396) -/

/-- `NEXT_Q` of the key-state record in force. -/
def State.keyRecord (s : State) : Option Nat := (s.ringRecord nvKeyRing 32).map (fun r => fieldLE r.2 4 4)

/-- The identity key was never initialised (R393). -/
def State.keyUninit (s : State) : Bool := !s.keyInit || s.keyRecord.isNone

/-- Line and content of the next key-state record, `NEXT_Q` being q (R392). -/
def State.keyWrite (s : State) (q : Nat) : Nat × List Byte :=
  let (p, n) := nextRecord (s.ringRecord nvKeyRing 32) 2048
  let line := nvKeyRing / 64 + p / 2
  (line, splice (s.nvAhead line) (32 * (p % 2)) (sealRecord (bytesLE 4 n ++ bytesLE 4 q ++ List.replicate 24 0)))

/-- Usable bytes of a stack: what is mapped, less its retired blocks (R2, R238). -/
def State.stackUsable (s : State) (k : Nat) : Nat :=
  let lost := (s.retired.filter (fun b => b / 0x100000 == k && decide (b % 0x100000 * 65536 < s.stackBytes k))).length
  s.stackBytes k - 65536 * lost

def State.hbmUsable (s : State) : Nat := ((List.range 32).map s.stackUsable).foldl (· + ·) 0

def orderCode : Nat := if Config.order2048 then 2048 else 1536
def serialBytes : List Byte := (padTo 16 Config.serial).take 16

/-- Where firmware keeps the chain block: in the reserved memory of Gallery 0 (R395; log 26). -/
def chainAddr : Nat := galleryBase + 0xD0000

/-- The chain block of bottom tree j (R395). -/
def chainBlock (j : Nat) : List Byte :=
  (padTo 2568 (Config.chainPart j)).take 2568 ++ (padTo 3732 Config.deviceCert).take 3732

/-- `MODULE_ADDR` with its valid bit. -/
def State.addrWord (s : State) : Nat := s.reg .fabModuleAddr 0 + 2 ^ 31 * s.reg .fabAddrValid 0

/-- The report body of R394. -/
def State.reportBody (s : State) (nonce q : Nat) : List Byte :=
  let slot := s.reg .modActiveSlot 0
  let img := s.slotImage slot
  let fl := (1 - s.reg .modTimeConverged 0) + 2 * s.reg .modTrialBoot 0 + 4 * s.reg .modFwReverted 0
  padTo 256 (bytesLE 4 1 ++ bytesLE 4 2924 ++ bytesLE 32 nonce ++ bytesLE 8 s.now ++ bytesLE 1 fl ++ bytesLE 1 2 ++
    bytesLE 2 orderCode ++ serialBytes ++ bytesLE 4 (s.reg .modRunFwVersion 0) ++ bytesLE 2 (s.reg .modRunSecVersion 0) ++
    bytesLE 1 slot ++ bytesLE 1 (fieldLE img 7 1) ++ digest img ++ digest s.boot.settings ++ bytesLE 4 s.addrWord ++
    bytesLE 8 s.hbmUsable ++ bytesLE 2 (s.reg .modRetiredChambers 0) ++ [0, 0] ++ bytesLE 4 q ++ bytesLE 8 chainAddr ++
    bytesLE 4 6300)

/-- The signed report (R394). -/
def State.report (s : State) (nonce q : Nat) : List Byte :=
  let body := s.reportBody nonce q
  body ++ (padTo 2668 (Config.lmsSign q body)).take 2668

/-- The next signature begins: the key-state record that consumes its index is written first (R392, R393). -/
def State.nextSign (s : State) : State :=
  let q := s.reg .modKeyNextQ 0
  match s.keys.waiting with
  | [] => s
  | x :: rest =>
    if s.keys.signing.isSome || s.reg .modKeyReady 0 = 0 then s
    else
      let s := { s with keys := { s.keys with waiting := rest } }
      if 2 ^ 25 ≤ q then (s.flag .modKeyExhausted 0).finish x.1 { status := stBusy }
      else
        let (l, bs) := s.keyWrite (q + 1)
        ({ s with keys := { s.keys with signing := some x } }).nvWrite 1 1 l bs

/-- The tree of the index in force: the prebuilt next tree, or none until it is rebuilt (R391, R395). -/
def State.keyTree (s : State) : State :=
  let j := s.reg .modKeyNextQ 0 / 2 ^ 15
  if s.keys.tree = some j then s
  else if s.keys.nextTree = some j then
    ({ s with keys := { s.keys with tree := some j, nextTree := none } }).write chainAddr (chainBlock j)
  else ({ s with keys := { s.keys with tree := none } }).put .modKeyReady 0 0

/-- The key-state record is in force: the index is consumed and the report signed with it leaves (R392, R394). -/
def State.keyInForce (s : State) : State :=
  match s.keys.signing with
  | none => s
  | some (h, nonce, addr) =>
    let q := s.reg .modKeyNextQ 0
    let report := s.report nonce q
    let s := ({ s with keys := { s.keys with signing := none } }).put .modKeyNextQ 0 (q + 1)
    let s := if q + 1 = 2 ^ 25 then s.flag .modKeyExhausted 0 else s
    let s :=
      if !s.isOut h then s
      else
        let s := s.bump .modAttests 0 1
        if s.pcie.busMaster then (s.hostWrite addr report).finish h {}
        else { s with keys := { s.keys with unsent := s.keys.unsent ++ [(h, addr, report)] } }
    s.keyTree.nextSign

/-- ATTEST (R391 to R394). -/
def execAttest (h : Cmd) (nonce hostAddr : Nat) (s : State) : Out :=
  let used := decide (2 ^ 25 ≤ s.reg .modKeyNextQ 0)
  let s0 := if used && !s.keyUninit && s.ready h then s.flag .modKeyExhausted 0 else s
  let s1 := (s.hold h 0x73 []).put .modAttestTokens 0 (s.reg .modAttestTokens 0 - 1)
  let s2 := { s1 with keys := { s1.keys with waiting := s1.keys.waiting ++ [(h, nonce, hostAddr)] } }
  s0.run h [check (!s.keyUninit) stKeyUninit 0, check (!used) stBusy 0, check (s.reg .modAttestTokens 0 != 0) stBusy 0] s2.nextSign

/-- KEY_TREE_REBUILD (R391): the tree of the current index, or the next one once 4,096 leaves of the current one remain. -/
def execKeyTreeRebuild (next : Bool) (s : State) : Out :=
  let q := s.reg .modKeyNextQ 0
  let j := q / 2 ^ 15
  if s.keyUninit || s.reg .modKeyUninit 0 = 1 then .next s
  else if next then
    if 28672 ≤ q % 2 ^ 15 then .next { s with keys := { s.keys with nextTree := some (j + 1) } } else .next s
  else
    let s := (({ s with keys := { s.keys with tree := some j } }).put .modKeyReady 0 1).write chainAddr (chainBlock j)
    .next s.nextSign

/-- ATTEST_TOKEN_REFILL (R393). -/
def execAttestTokenRefill (s : State) : Out := .next (s.put .modAttestTokens 0 (min 64 (s.reg .modAttestTokens 0 + 1)))

/-! ### NV_LINE_WRITE (R381) -/

/-- The last line of a record or bank is in force. -/
def State.nvDone (s : State) (tag : Nat) : State :=
  match tag with
  | 1 => s.keyInForce
  | 2 => s.slotPending
  | 3 => s.settingsStored
  | 4 => s.slotWritten
  | _ => s

/-- The writer abandons a record. A firmware slot completes with outcome 5 (R388); for the others the spec names no status,
and their commands end by their time limit (log 35). -/
def State.nvAbandon (s : State) (tag : Nat) : State :=
  -- each retirement entry is a record of its own
  let s := if tag = 0 then s else { s with nvQueue := s.nvQueue.filter (fun w => w.tag != tag) }
  match tag with
  | 1 => ({ s with keys := { s.keys with signing := none } }).nextSign
  | 3 => { s with boot := { s.boot with setBusy := none } }
  | 0 => s
  | _ =>
    match s.boot.fwBusy with
    | some (h, _) => ({ s with boot := { s.boot with fwBusy := none } }).finish h (fwDone 5)
    | none => s

/-- NV_LINE_WRITE: a line is written and read back. One that does not read back as written holds free bytes, and is written
again until it has failed eight times. -/
def execNvLineWrite (ok : Bool) (s : State) : Out :=
  match nvHead s.nvQueue with
  | none => .next s
  | some w =>
    if ok then
      let s := ({ s with nvQueue := s.nvQueue.erase w }).nvPut w.line w.bytes
      .next (if w.tag ≠ 0 && s.nvQueue.any (fun x => x.tag == w.tag) then s else s.nvDone w.tag)
    else
      let (f, s) := s.takeFree
      let s := { s with nvMem := tset [] s.nvMem w.line (bytesLE 64 f) }
      if w.tries < 7 then .next { s with nvQueue := s.nvQueue.map (fun x => if x = w then { x with tries := x.tries + 1 } else x) }
      else .next (({ s with nvQueue := s.nvQueue.erase w }).flag .modNvWriteErr 0 |>.nvAbandon w.tag)

/-! ### The retirement list (R238, R239) -/

/-- The entries of the list: those written and those that wait. -/
def State.retireEntries (s : State) : List Nat :=
  let lines := ((s.nvMem.map (·.1)) ++ (s.nvQueue.filter (fun w => w.tag == 0)).map (·.line)).eraseDups
  let mine := lines.filter (fun l => decide (nvRetired / 64 ≤ l) && decide (l < nvRetired / 64 + 4096))
  (mine.flatMap (fun l => (List.range 8).map (fun i => fieldLE (s.nvAhead l) (8 * i) 8))).filter (· != 0)

/-- An entry goes to the list; its operating hours are a free value (log 36). When the list is full the retirement holds
for the present power cycle only. -/
def State.retireEntry (s : State) (k block kind : Nat) : State :=
  let n := s.retireEntries.length
  let (f, s) := s.takeFree
  if n ≥ 32768 then s.flag .hbmRetListFull k
  else
    let line := nvRetired / 64 + n / 8
    s.nvWrite 2 0 line (splice (s.nvAhead line) (8 * (n % 8)) (bytesLE 8 (block + kind * 2 ^ 25 + f % 2 ^ 32 * 2 ^ 32)))

/-- BLOCK_RETIREMENT (R238): the block leaves the free pool; an allocation that holds it stays. -/
def State.retireBlock (s : State) (block kind : Nat) : State :=
  let k := block / 0x100000
  if s.retired.contains block then s
  else
    let s := { s with retired := block :: s.retired }
    let s := (s.bump .hbmRetiredBlocks k 1).flag .hbmRetireEvent k
    let s := s.retireEntry k block kind
    let s := s.log 3 0 0x0702 (bytesLE 8 (block * 65536) ++ bytesLE 1 kind)
    s.hostEvent 1

end Sys2Proof.Machine
end

