-- ==== Sys2Proof/Machine/Power.lean ====
section
/-!
DEFINITION. Power: input measurements and shutdown, power states, the cap loop and duty holds, Gallery points, the keeper's
rounds and the steward's thermal actions (R18, R29, R242, R357 to R375).
-/
namespace Sys2Proof.Machine

/-! ### The input (R357 to R360) -/

/-- What survives the loss of the input: the non-volatile memory and what manufacture fixed, with what lies outside the
module (R360, R378). A line write under way leaves the line's old or its new content, whichever the free value says. -/
def State.powerOff (s : State) : State :=
  let (f, s) := s.takeFree
  { State.reset with nvMem := s.nvCut (f % 2 == 1), mfgOpen := s.mfgOpen, keyInit := s.keyInit, hostMem := s.hostMem, fresh := s.fresh
                     outbox := s.outbox, pending := s.pending, thermTripLow := s.thermTripLow
                     pcie := { perst := s.pcie.perst }, power := { tripped := s.power.tripped } }

/-- INPUT_POWER_UP (R361): the front stage and the always-on rail come up, the SMBus address is sampled (R413) and boot
begins with stage 1 (R385). After a thermal trip only removal of the input ends the shutdown (R375). -/
def execInputPowerUp (addrSel : Nat) (s : State) : Out :=
  if s.power.on || s.power.tripped then .next s
  else
    let s := { s with power := { s.power with on := true }, smbus := { s.smbus with address := 0x4C + addrSel % 4 } }
    .next (s.put .modBootStage 0 1)

/-- The module is Off (R359, R360). -/
def State.shutdown (s : State) : State := if s.power.on then s.powerOff else s

/-- UNDER_VOLTAGE_SHUTDOWN (R359). -/
def execUnderVoltageShutdown (s : State) : Out := .next s.shutdown

/-- OVER_VOLTAGE_SHUTDOWN (R359). -/
def execOverVoltageShutdown (s : State) : Out := .next s.shutdown

/-- INPUT_REMOVAL (R360, R375): `therm_trip_n` is released with the input. -/
def execInputRemoval (s : State) : Out :=
  let s := s.powerOff
  .next { s with thermTripLow := false, power := { s.power with tripped := false } }

/-- THERMAL_TRIP (R375). -/
def execThermalTrip (s : State) : Out :=
  let s := s.shutdown
  .next { s with thermTripLow := true, power := { s.power with tripped := true } }

/-- A status bit that passes from 0 to 1 is an event of its kind; while it is set, nothing more is reported (R349). -/
def State.onset (s : State) (f : Field) (u : Nat) (k : State → State) : State :=
  if s.reg f u = 1 then s else k (s.flag f u)

/-- The effective cap (R359, R366): the lowest of the host's, the management's and the input's limit. -/
def State.capNow (s : State) : Nat :=
  let vin := s.reg .modVin 0
  let input := if 4300 ≤ vin && vin < 4400 then min 7200 (164 * vin / 100) else 7200
  min (min (s.reg .modHostCap 0) (s.reg .modMgmtCap 0)) input

/-- `EFFECTIVE_CAP` follows; a change of it is logged (R326, class 0x03). -/
def State.setCap (s : State) : State :=
  let c := s.capNow
  if c = s.reg .modEffectiveCap 0 then s else (s.put .modEffectiveCap 0 c).log 3 0 0x0302 (bytesLE 4 c)

/-- An emergency divide (R358): every Chamber clock is halved at its present voltage. -/
def State.emergencyDivide (s : State) : State :=
  if s.reg .glDivided 0 = 1 then s
  else
    let s := (List.range 32).foldl (fun s g => s.flag .glDivided g) s
    (s.bump .modEmergDivides 0 1).onset .modEmergDivide 0 (fun s => s.hostEvent 6)

/-- INPUT_SAMPLE (R358, R359): voltage in 10 mV and current in 10 mA units over 1 µs, and the 10 µs mean of power in W.
The 1 µs mean is over the limit above 7,200 W and above 164 A. -/
def execInputSample (vin iin pin : Nat) (s : State) : Out :=
  let s := ((s.put .modVin 0 vin).put .modIin 0 iin).put .modPin 0 pin
  let e := s.power.energyFrac + vin * iin
  let s := { s with power := { s.power with energyFrac := e % 10000000 } }
  let s := s.bump .modInputEnergy 0 (e / 10000000)
  let s := if vin < 4400 then s.onset .modInputLow 0 (fun s => (s.hostEvent 6).alert 1) else s
  let s := if vin > 5950 then s.onset .modInputHigh 0 (fun s => (s.hostEvent 6).alert 2) else s
  let s := s.setCap
  .next (if vin * iin > 72000000 || iin > 16400 then s.emergencyDivide else s)

/-! ### Gallery points (R18, R364, R365, R370, R371) -/

/-- Voltage of a point in mV (R364). -/
def pointMv (i : Nat) : Nat := 800 - 15 * i

/-- Relative power of a point, in thousandths (R364). -/
def pointRel (i : Nat) : Nat := [1000, 931, 865, 802, 742, 684, 630, 579, 530, 484, 440, 399, 360, 324, 290, 258].getD i 258

/-- The Galleries adjacent to one (R370). -/
def adjacent (g : Nat) : List Nat := [g / 4 * 4 + (g % 4 ^^^ 1), g / 4 * 4 + (g % 4 ^^^ 2)]

/-- A Gallery whose Chamber rail is powered (R370, R385). -/
def State.live (s : State) (g : Nat) : Bool := s.reg .glRailGated g == 0 && decide (3 ≤ s.reg .modBootStage 0)

/-- The target of a Gallery (R18, R365): the highest index requested; outside Running the lowest point (R362). -/
def State.pointTarget (s : State) (g : Nat) : Nat :=
  if s.reg .modPowerState 0 = 3 then max (max (s.reg .glReqComplex g) (s.reg .glReqSteward g)) (s.reg .glReqKeeper g) else 15

/-- `POINT_TARGET` and `POINT_MOVING` follow the requests. -/
def State.retarget (s : State) (g : Nat) : State :=
  let t := s.pointTarget g
  let at' := s.reg .glPointNow g == t && (s.galPower g).mv == pointMv t
  (s.put .glPointTarget g t).put .glPointMoving g (if at' || s.reg .glRailGated g = 1 then 0 else 1)

/-- The clock switches to the target (R365); the change is logged (R326, class 0x03). -/
def State.switchClock (s : State) (g : Nat) : State :=
  let old := s.reg .glPointNow g
  let t := s.reg .glPointTarget g
  if old = t then s
  else
    (s.put .glPointNow g t).log 1 g 0x0301
      (bytesLE 1 g ++ bytesLE 1 old ++ bytesLE 1 t ++ bytesLE 1 (s.reg .glThermalState g))

/-- A change that has reached its target is complete. -/
def State.settlePoint (s : State) (g : Nat) : State :=
  let t := s.reg .glPointTarget g
  if s.reg .glPointMoving g = 1 && s.reg .glPointNow g = t && (s.galPower g).mv = pointMv t then
    (s.put .glPointMoving g 0).bump .glPointChanges g 1
  else s

/-- The next voltage of a Gallery: one step of 15 mV towards its target, never below what the running clock needs (R365). -/
def State.nextMv (s : State) (g : Nat) : Nat :=
  let mv := (s.galPower g).mv
  let t := pointMv (s.reg .glPointTarget g)
  if mv < t then mv + 15
  else if t < mv && pointMv (s.reg .glPointNow g) ≤ mv - 15 then mv - 15
  else mv

def gap (a b : Nat) : Nat := if a < b then b - a else a - b

/-- A step is allowed where each live adjacent Gallery comes nearer, or stays within 120 mV after every step (R371). -/
def State.stepOk (s : State) (g : Nat) (after : Nat → Nat) : Bool :=
  (adjacent g).all (fun a =>
    !s.live a || decide (gap (after g) (s.galPower a).mv < gap (s.galPower g).mv (s.galPower a).mv) ||
      decide (gap (after g) (after a) ≤ 120))

def State.setMv (s : State) (g mv : Nat) : State := s.modGalPower g (fun x => { x with mv := mv })

/-- POINT_CHANGE_STEP (R365, R371): lowering switches the clock and then steps the voltage; raising steps the voltage and
then switches the clock. -/
def execPointChangeStep (g : Nat) (s : State) : Out :=
  if s.reg .glPointMoving g = 0 then .next s
  else
    let now := s.reg .glPointNow g
    let t := s.reg .glPointTarget g
    if now < t || (t < now && pointMv t ≤ (s.galPower g).mv) then .next ((s.switchClock g).settlePoint g)
    else
      let mv := s.nextMv g
      let after := fun a => if a = g then mv else (s.galPower a).mv
      .next ((if s.stepOk g after then s.setMv g mv else s).settlePoint g)

/-- Steps of a round that the limit allows: a step that breaks it is withdrawn, until none does (R371). -/
def State.roundSteps (s : State) : Nat → List (Nat × Nat) → List (Nat × Nat)
  | 0, xs => xs
  | n + 1, xs =>
    let after := fun a => match xs.find? (fun x => x.1 == a) with | some x => x.2 | none => (s.galPower a).mv
    s.roundSteps n (xs.map (fun x => if s.stepOk x.1 after then x else (x.1, (s.galPower x.1).mv)))

/-- The keeper's request for a Gallery (R371). -/
def State.keeperRequest (s : State) (g : Nat) : Nat :=
  (((adjacent g).filter s.live).map (fun a => s.reg .glPointTarget a)).foldl max 0 - 8

/-- A round in which the keeper's request sets the target counts its 1.5 µs (R371). -/
def State.keeperLimits (s : State) (g : Nat) : State :=
  if s.reg .glReqKeeper g ≤ max (s.reg .glReqComplex g) (s.reg .glReqSteward g) || s.reg .modPowerState 0 ≠ 3 then s
  else
    let halves := (s.galPower g).adjHalf + 3
    let s := s.modGalPower g (fun x => { x with adjHalf := halves % 2 })
    (s.flag .glAdjVoltLimit g).bump .glAdjLimitTime g (halves / 2)

/-- KEEPER_ROUND (R371). -/
def execKeeperRound (d : Nat) (s : State) : Out :=
  let gs := ((List.range 4).map (fun i => 4 * d + i)).filter s.live
  let reqs := gs.map (fun g => (g, s.keeperRequest g))
  let s := reqs.foldl (fun s r => s.put .glReqKeeper r.1 r.2) s
  let s := gs.foldl (fun s g => (s.retarget g).keeperLimits g) s
  let steps := s.roundSteps 4 (gs.map (fun g => (g, s.nextMv g)))
  let s := steps.foldl (fun s x => s.setMv x.1 x.2) s
  .next (gs.foldl (fun s g => s.settlePoint g) s)

/-! ### The cap (R29, R366, R367) -/

/-- POWER_CAP: 0 removes the cap; it completes once the cap is met. -/
def execPowerCap (h : Cmd) (cap : Nat) (s : State) : Out :=
  let s1 := (s.put .modHostCap 0 (if cap = 0 then 7200 else cap)).setCap
  let s2 := { s1 with power := { s1.power with capCmds := s1.power.capCmds ++ [h], winSum := 0, winRuns := 0 } }
  s.run h [s.param h (cap == 0 || (decide (1800 ≤ cap) && decide (cap ≤ 7200))) 0] (s2.hold h 0x71 [])

/-- The cap is met: every POWER_CAP that waits completes. -/
def State.capMet (s : State) : State :=
  let hs := s.power.capCmds
  hs.foldl (fun s h => s.finish h {}) { s with power := { s.power with capCmds := [] } }

/-- The index after a run of the loop that is over the cap by `excess` W (R367); none of the comparisons divides. -/
def capIndex (idx pch excess : Nat) : Nat :=
  let fits := fun i => decide (((pointRel i * 100 * pch : Nat) : Int) ≤
    (pointRel idx : Int) * ((100 * pch : Nat) - (94 * excess : Nat) : Int))
  ((List.range 16).find? (fun i => decide (idx < i) && fits i)).getD 15

/-- The duty after such a run, where point 15 does not meet the cap; its numerator and denominator (R367). -/
def capDuty (idx pch excess : Nat) : Option (Nat × Nat) :=
  let want : Int := (pointRel idx : Int) * ((100 * pch : Nat) - (94 * excess : Nat) : Int)
  let full : Int := (pointRel 15 * 100 * pch : Nat)
  if want < full then some ((full - want).toNat, full.toNat) else none

/-- `DUTY` shows the duty in per cent; which way it is rounded is a free value. A hold lasts at most its whole period. -/
def State.showDuty (s : State) : State :=
  let (n, d) := s.power.duty
  let (f, s1) := s.takeFree
  let q := 100 * n / max 1 d
  if 100 * n % max 1 d = 0 then s.put .modDuty 0 (min 100 q) else s1.put .modDuty 0 (min 100 (q + f % 2))

/-- The loop's result in every Gallery. -/
def State.setCapPoint (s : State) (idx : Nat) : State :=
  (List.range 32).foldl (fun s g => (s.put .glReqComplex g idx).retarget g) (s.put .modCapPoint 0 idx)

/-- The 1 ms window of the loop's input powers, in which a cap below 4,500 W is met (R366). -/
def State.capWindow (s : State) (pin : Nat) : State :=
  let cap := s.reg .modEffectiveCap 0
  let sum := s.power.winSum + pin
  let full := decide (s.power.winRuns + 1 ≥ 100)
  let s := { s with power := { s.power with winSum := if full then 0 else sum, winRuns := if full then 0 else s.power.winRuns + 1 } }
  if 4500 ≤ cap then (if pin ≤ cap then s.capMet else s) else if full && sum ≤ 100 * cap then s.capMet else s

/-- A run over the cap. With no Chamber-rail power to scale, the duty is a free value. -/
def State.capOver (s : State) (pch excess : Nat) : State :=
  let idx := s.reg .modCapPoint 0
  let new := capIndex idx pch excess
  let s := { s with power := { s.power with lowRuns := 0 } }
  let lowered := decide (idx < new)
  let s := s.setCapPoint new
  let (duty, s) :=
    if pch = 0 then let (f, s1) := s.takeFree; (some (f % 101, 100), s1) else (capDuty idx pch excess, s)
  match duty with
  | some d => ({ s with power := { s.power with duty := d } }).showDuty.onset .modCapLimiting 0 (fun s => s.alert 3)
  | none => if lowered then s.onset .modCapLimiting 0 (fun s => s.alert 3) else s

/-- A run below the cap. -/
def State.capUnder (s : State) (low : Bool) : State :=
  let runs := if low then min 100 (s.power.lowRuns + 1) else 0
  let s := { s with power := { s.power with lowRuns := runs } }
  let (n, d) := s.power.duty
  let idx := s.reg .modCapPoint 0
  if runs < 100 then s
  else if n ≠ 0 then
    ({ s with power := { s.power with duty := if 20 * n ≤ d then (0, 1) else (20 * n - d, 20 * d) } }).showDuty
  else if idx ≠ 0 then s.setCapPoint (idx - 1)
  else s

/-- CAP_LOOP (R358, R366, R367): powers are means over the last 10 µs in W. Its set points release an emergency divide. -/
def execCapLoop (pin chamberRail : Nat) (s : State) : Out :=
  let s := (s.put .modPin 0 pin).setCap
  let cap := s.reg .modEffectiveCap 0
  let limited := s.reg .modCapPoint 0 ≠ 0 || s.power.duty.1 ≠ 0
  let s := if limited then s.bump .modCapTime 0 10 else s
  let s := if cap < pin then s.capOver chamberRail (pin - cap) else s.capUnder (decide (pin + 200 < cap))
  let s := (List.range 32).foldl (fun s g => s.put .glDivided g 0) s
  .next (s.capWindow pin)

/-- DUTY_HOLD (R14, R15, R367): the complex holds every Gallery for the duty's part of the period and releases those that
this hold stopped. -/
def execDutyHold (on : Bool) (s : State) : Out :=
  if on then
    if s.power.duty.1 = 0 || !s.power.dutyHeld.isEmpty then .next s
    else
      let gs := (List.range 32).filter (fun g => s.reg .glComplexHold g == 0)
      let s := gs.foldl (fun s g => ((s.flag .glComplexHold g).reachStop (.gallery g)).syncIdles (.gallery g)) s
      .next { s with power := { s.power with dutyHeld := gs } }
  else
    let s := s.power.dutyHeld.foldl (fun s g => ((s.put .glComplexHold g 0).leaveStop (.gallery g)).syncIdles (.gallery g)) s
    .next { s with power := { s.power with dutyHeld := [] } }

/-! ### Power states (R362, R363) -/

/-- Rails, clocks and memories of a new state (R221, R362, R370). -/
def State.enterPower (s : State) (st : Nat) : State :=
  let s := s.put .modPowerState 0 st
  let parked := if st = 1 then 1 else 0
  (List.range 32).foldl (fun s g =>
    let dead := (List.range 8).all (fun i => s.reg .chRetired (8 * g + i) == 1)
    let s := s.put .glRailGated g (if st = 1 || dead then 1 else 0)
    let s := if s.reg .hbmStackOnline g = 1 then s.put .hbmSelfRefresh g parked else s
    let s := s.retarget g
    let moving := s.reg .glPointMoving g = 1
    let s := (s.switchClock g).setMv g (if st = 1 then 500 else pointMv (s.reg .glPointTarget g))
    if moving then s.settlePoint g else s) s

/-- The next POWER_STATE that waits takes effect (R363). -/
def State.takePower (s : State) (h : Cmd) (target : Nat) : State :=
  let st := s.reg .modPowerState 0
  let running := s.outstanding.any (fun o => !(o.cmd == h) && o.phase != .fetched && o.opcode != 0x70)
  if target = 0 && (s.jobs.any (fun j => !j.ended) || running) then s.finish h { status := stState, detail := st }
  else
    let s := if target = 2 then s.put .modStayRunning 0 1 else if target = 1 then s.put .modStayRunning 0 0 else s
    let held := if target = 2 then false else s.power.hold || (decide (target = 1) && decide (st = 3) && s.strandsBusy)
    let s := { s with power := { s.power with hold := held } }
    if st = target + 1 then s.finish h {} else { s with power := { s.power with moving := some (target + 1, some h) } }

/-- POWER_STATE commands take effect one at a time, in the order in which they start (R363). -/
def State.nextPower (s : State) : Nat → State
  | 0 => s
  | n + 1 =>
    if s.power.moving.isSome then s
    else
      match s.power.queuedPower with
      | [] => s
      | (t, h) :: rest => (({ s with power := { s.power with queuedPower := rest } }).takePower h t).nextPower n

/-- POWER_STATE (R261, R363). -/
def execPowerState (h : Cmd) (target : Nat) (s : State) : Out :=
  let s1 := s.hold h 0x70 []
  let s2 := { s1 with power := { s1.power with queuedPower := s1.power.queuedPower ++ [(target, h)] } }
  s.run h [s.param h (decide (target ≤ 2)) 0] (s2.nextPower (s2.power.queuedPower.length))

/-- POWER_TRANSITION_COMPLETE (R363): one transition of the table ends. Running is left only once no strand runs. -/
def execPowerTransitionComplete (s : State) : Out :=
  match s.power.moving with
  | none => .next s
  | some (t, h) =>
    let st := s.reg .modPowerState 0
    if st = 3 && t < 3 && s.strandsBusy then .next s
    else
      let goal := if st < t then st + 1 else if t < st then st - 1 else t
      let s := s.enterPower goal
      if goal ≠ t then .next s
      else
        let s := { s with power := { s.power with moving := none } }
        let s := match h with | some h => s.finish h {} | none => s
        .next (s.nextPower s.power.queuedPower.length)

/-- IDLE_TO_READY (R363). -/
def execIdleToReady (s : State) : Out :=
  if s.reg .modPowerState 0 = 3 && s.power.moving.isNone && s.reg .modStayRunning 0 = 0 && !s.strandsBusy &&
      decide (s.power.busyAt + 2000 * s.reg .modIdleToReadyUs 0 ≤ s.now) then
    .next { s with power := { s.power with moving := some (2, none) } }
  else .next s

/-! ### Thermal control (R242, R372 to R375) -/

/-- The steward's request is the highest index that any of its reasons asks for. -/
def State.stewardRequest (s : State) (g : Nat) : State :=
  let x := s.galPower g
  let r := [x.reqPred, x.reqStack, x.reqStackLow, x.reqDie, x.reqDieLow, x.reqAdj].foldl max 0
  (s.put .glReqSteward g r).retarget g

/-- The steward holds its Gallery for one reason (R14, R242, R374); a hold of either is one hold. -/
def State.thermalHold (s : State) (g : Nat) (stack : Bool) : State :=
  let x := s.galPower g
  if (if stack then x.holdStack else x.holdDie) then s
  else
    let first := !x.holdStack && !x.holdDie
    let s := s.modGalPower g (fun x => { x with
      holdStack := x.holdStack || stack, holdDie := x.holdDie || !stack, holdSince := if first then s.now else x.holdSince
      holdRecovered := x.holdRecovered && !first })
    ((s.stop .steward (.gallery g) true).raise 1 g evOther [2]).alert 4

/-- One reason for the hold is gone. -/
def State.thermalRelease (s : State) (g : Nat) (stack : Bool) : State :=
  let x := s.galPower g
  let y := { x with holdStack := x.holdStack && !stack, holdDie := x.holdDie && stack }
  let s := s.modGalPower g (fun _ => y)
  if (x.holdStack || x.holdDie) && !y.holdStack && !y.holdDie then s.start .steward (.gallery g) else s

/-- An action that was not in force before: a thermal event of the host (R408). -/
def State.acted (s : State) (before : Bool) : State := if before then s else s.hostEvent 2

/-- `THERMAL_STATE` (R243); a change of it is logged (R326, class 0x03). -/
def State.thermalState (s : State) (g : Nat) : State :=
  let x := s.galPower g
  let t := if x.holdStack then 4 else if x.reqStackLow ≠ 0 then 3 else if s.reg .hbmRefresh2x g = 1 then 2
           else if x.reqStack ≠ 0 then 1 else 0
  if t = s.reg .glThermalState g then s
  else
    let now := s.reg .glPointNow g
    (s.put .glThermalState g t).log 1 g 0x0303 (bytesLE 1 g ++ bytesLE 1 now ++ bytesLE 1 now ++ bytesLE 1 t)

/-- The stack's temperature: the larger of its own readout and the base-die sensors beneath it. -/
def State.stackTemp (s : State) (g : Nat) : State :=
  let t := max (s.reg .hbmTempStack g) (s.reg .hbmTempBase g)
  (s.put .glStackTemp g t).put .glStackTempMax g (max t (s.reg .glStackTempMax g))

/-- The steward's actions on the measured stack temperature (R221, R242). -/
def State.stackActions (s : State) (g : Nat) : State :=
  let s := s.stackTemp g
  let t := s.reg .glStackTemp g
  let fast := s.reg .hbmRefresh2x g == 1
  let s :=
    if t > 85 && !fast then ((s.put .hbmRefresh2x g 1).raise 1 g evOther [1]).hostEvent 2
    else if t < 83 then s.put .hbmRefresh2x g 0 else s
  let low := (s.galPower g).reqStackLow ≠ 0
  let s := if t ≥ 92 then (s.modGalPower g (fun x => { x with reqStackLow := 15 })).acted low
           else if t < 88 then s.modGalPower g (fun x => { x with reqStackLow := 0 }) else s
  let held := (s.galPower g).holdStack
  let s := if t ≥ 95 then (s.thermalHold g true).acted held else if t < 90 then s.thermalRelease g true else s
  (s.stewardRequest g).thermalState g

/-- The steward's actions on the predicted stack temperature (R242). -/
def State.stackPrediction (s : State) (g pred index : Nat) : State :=
  let before := (s.galPower g).reqStack ≠ 0
  if pred > 83 then (s.modGalPower g (fun x => { x with reqStack := index })).acted before
  else if pred ≤ 80 then s.modGalPower g (fun x => { x with reqStack := 0 }) else s

/-- The steward's actions on the compute-die temperature (R374). -/
def State.dieActions (s : State) (g t pred index : Nat) : State :=
  let x := s.galPower g
  let hot := fun (s : State) (before : Bool) => (s.flag .glDieHot g).acted before
  let s := if pred > 100 then hot (s.modGalPower g (fun x => { x with reqDie := index })) (x.reqDie ≠ 0)
           else if pred ≤ 97 then s.modGalPower g (fun x => { x with reqDie := 0 }) else s
  let s := if t > 105 then hot (s.modGalPower g (fun x => { x with reqDieLow := 15 })) (x.reqDieLow ≠ 0)
           else if t ≤ 100 then s.modGalPower g (fun x => { x with reqDieLow := 0 }) else s
  if t ≥ 110 then hot (s.thermalHold g false) x.holdDie else if t ≤ 105 then s.thermalRelease g false else s

/-- How much hotter a Gallery is than its coolest live adjacent one. -/
def State.hotter (s : State) (g : Nat) : Nat :=
  (((adjacent g).filter s.live).map (fun a => s.reg .glDieTemp g - s.reg .glDieTemp a)).foldl max 0

/-- The steward's actions on the temperature difference to its neighbours (R372). -/
def State.adjActions (s : State) (g : Nat) : State :=
  let d := s.hotter g
  let x := s.galPower g
  let raising := s.live g && (decide (d > 30) || (x.adjRaising && decide (d > 25)))
  let others := [x.reqPred, x.reqStack, x.reqStackLow, x.reqDie, x.reqDieLow].foldl max 0
  if raising then
    let s := s.modGalPower g (fun x => { x with adjRaising := true, reqAdj := min 15 (max others x.reqAdj + 1), adjSince := s.now })
    let s := s.flag .glAdjTempLimit g
    if d > 30 && s.reg .glPointNow g = 15 then s.onset .glAdjTempStuck g (fun s => s.raise 1 g evOther [3]) else s
  else
    let s := s.modGalPower g (fun x => { x with adjRaising := false })
    if x.reqAdj = 0 || s.now < x.adjSince + 2000000 then s
    else s.modGalPower g (fun x => { x with reqAdj := if x.reqAdj - 1 ≤ others then 0 else x.reqAdj - 1, adjSince := s.now })

/-- PREDICTOR_UPDATE (R242, R372 to R374). -/
def execPredictorUpdate (g : Nat) (t : TempReading) (s : State) : Out :=
  let s := ((s.put .glDieTemp g t.dieTemp).put .glDieTempPred g t.diePred).put .hbmTempBase g t.stackBase
  let s := s.put .glDieTempMax g (max (s.reg .glDieTemp g) (s.reg .glDieTempMax g))
  let s := s.bump .glRailEnergy g t.railEnergy
  let s := if t.ran10ms && t.predErr ≤ 15 then s.flag .glPredConverged g else s
  let s := s.modGalPower g (fun x => { x with reqPred := if s.reg .glPredConverged g = 1 then 0 else 6 })
  let s := s.stackPrediction g t.stackPred t.predIndex
  let s := s.dieActions g t.dieTemp t.diePred t.predIndex
  let s := s.stackActions g
  .next ((s.adjActions g).stewardRequest g)

/-- COOLANT_READ (R375): temperatures in 0.5 °C units. -/
def execCoolantRead (inlet outlet : Nat) (s : State) : Out :=
  let s := (s.put .modCoolantIn 0 inlet).put .modCoolantOut 0 outlet
  .next (if inlet > 60 then s.onset .modInletHot 0 (fun s => ((s.raise 5 0 evOther [4]).hostEvent 2).alert 0) else s)

/-- HBM_TEMPERATURE_READOUT (R221, R242): once per millisecond. -/
def execHbmTemperatureReadout (stack temp : Nat) (s : State) : Out :=
  .next ((s.put .hbmTempStack stack temp).stackActions stack)

/-- HBM_REFRESH (R221, R228): a per-bank refresh takes bank time beneath the slot frame and changes no state of this model
(R19). -/
def execHbmRefresh (_stack : Nat) (s : State) : Out := .next s

end Sys2Proof.Machine
end

