-- ==== Sys2Proof/Machine/Boot.lean ====
section
/-!
DEFINITION. Boot, module and function resets, the start of the host link and the test access port (R378 to R390, R397, R402,
R409, R416, R417).
-/
namespace Sys2Proof.Machine

/-! ### The choice of a firmware slot (R383, R384) -/

/-- The record that the ROM leaves in force before it looks at an image. -/
def SlotState.tried (x : SlotState) : SlotState :=
  if 1 < x.pending then x
  else if x.trials < 3 then { x with trials := x.trials + 1 }
  else { x with pending := 0xFF, trials := 0, reverted := 1 }

/-- The slot that such a record names. -/
def SlotState.names (x : SlotState) : Nat := if x.pending ≤ 1 then x.pending else x.committed

/-- The registers of the record in force and of the image that runs (R399, R405). -/
def State.runImage (s : State) (x : SlotState) (slot : Nat) (trial : Bool) : State :=
  let hd := s.nvBytes (slotBase slot) 256
  let s := (s.put .modActiveSlot 0 slot).put .modTrialBoot 0 (if trial then 1 else 0)
  let s := (s.put .modFwReverted 0 x.reverted).put .modRoot0Revoked 0 x.revoked
  let s := (s.put .modFwPending 0 (if x.pending ≤ 1 then 1 else 0)).put .modSecCounter 0 x.secCounter
  let s := (s.put .modRunFwVersion 0 (fieldLE hd 8 4)).put .modRunSecVersion 0 (fieldLE hd 12 2)
  (s.put .pciFwIfMin 0 (fieldLE hd 14 1)).put .pciFwIfMax 0 (fieldLE hd 15 1)

/-- The ROM chooses a slot: the one that the record names, or the other where that one fails R383; none where both fail. -/
def State.chooseSlot (s : State) : Option State :=
  let before := s.slotState
  let x := before.tried
  let slot := x.names
  let s := if x = before then s else s.putSlotState x
  if s.slotPasses x slot then some (s.runImage x slot (decide (x.pending ≤ 1)))
  else if s.slotPasses x (1 - slot) then some (s.runImage x (1 - slot) false)
  else none

/-- Boot stops with an error: stage 2, the always-on rail alone, and the alert (R386, R415). -/
def State.bootStops (s : State) (err : Nat) : State := ((s.put .modBootStage 0 2).put .modBootErr 0 err).alert 5

/-- The ROM's choice, and the stage that follows. -/
def State.bootSlot (s : State) : State :=
  match s.chooseSlot with
  | some s => s.put .modBootStage 0 3
  | none => s.bootStops 1

/-! ### The host link (R402) -/

/-- The link trains; configuration requests complete with a retry status for 100 ms more. -/
def State.trainPcie (s : State) : State :=
  if s.pcie.perst || s.pcie.trained then s
  else { s with pcie := { s.pcie with trained := true, readyAt := s.now + 200000000 } }.put .mgtLinkUp 0 1

/-- PERST_DEASSERT (R402): the link trains once stage 1 has ended. -/
def execPerstDeassert (s : State) : Out :=
  let s := { s with pcie := { s.pcie with perst := false } }
  .next (if 2 ≤ s.reg .modBootStage 0 then s.trainPcie else s)

/-! ### Units that fail a boot test (R386) -/

/-- A unit is out of service; its error record follows in stage 7. -/
def State.bootFailed (s : State) (cls unit : Nat) : State :=
  { s with boot := { s.boot with failed := s.boot.failed ++ [(cls, unit)] } }

/-- The port of a die, where it has one (R11). -/
def diePorts (d : Nat) : List Nat := (List.range 6).filter (fun p => portDie p == d)

/-- A die whose keeper or links fail: its Galleries are gated, and so their Chambers are out of service; its port stays
DOWN. -/
def State.dieFails (s : State) (d : Nat) : State :=
  let s := (List.range 32).foldl (fun s i => s.retireChamber (32 * d + i)) s
  let s := (List.range 4).foldl (fun s i => s.flag .glRailGated (4 * d + i)) s
  ((diePorts d).foldl (fun s p => s.modPort p (fun x => { x with blocked := true })) s).bootFailed 7 d

/-- A stack that fails training leaves the address map, as under R241. -/
def State.stackFails (s : State) (k : Nat) : State :=
  ({ s with withdrawn := k :: s.withdrawn }.put .hbmStackOnline k 0).bootFailed 5 k

/-- A Chamber that fails its self-test is retired (R16). -/
def State.chamberBootFails (s : State) (c : Nat) : State := (s.retireChamber c).bootFailed 1 c

/-- The error record of a unit that failed its boot test: fault classes and actions of R330 and R348. -/
def State.bootRecord (s : State) (cls unit : Nat) : State :=
  let org := if cls = 1 then s.origin 0 unit else if cls = 5 then s.origin 5 unit else s.origin 2 unit
  let action := if cls = 1 then 2 else if cls = 5 then 5 else 0
  s.errRecord { origin := org, cls := cls, action := action, outcome := 0, stopTs := s.now, resumeTs := s.now, unit := unit } s.now

/-! ### Stage 5: memory and the retirement list (R238 to R241) -/

/-- One entry of the retirement list takes effect. -/
def State.loadRetired (s : State) (e : Nat) : State :=
  let block := bits e 24 0
  if bits e 27 25 ≤ 1 then
    if s.retired.contains block then s
    else { s with retired := block :: s.retired }.bump .hbmRetiredBlocks (block / 0x100000) 1
  else if bits e 27 25 = 2 then
    let k := bits block 9 5
    let ch := bits block 4 0
    if s.withdrawn.contains k then s
    else if s.reg .hbmNarrowed k = 0 then (s.flag .hbmNarrowed k).put .hbmFailedCh k ch
    else if s.reg .hbmFailedCh k = ch then s
    else { s with withdrawn := k :: s.withdrawn }.put .hbmStackOnline k 0
  else s

/-- Every memory of the module is written with zero. -/
def State.zeroMemory (s : State) : State := { s with mem := [], poison := [], xferSources := [], lost := [] }

/-! ### Stage 6: special-function tables (R116, R128) -/

/-- The published native table image is loaded into a Chamber (R434; log 11). -/
def State.loadNative (s : State) (c : Nat) : State :=
  if s.reg .chRetired c = 1 then s else s.loadPublished c 0

/-! ### Stage 7: settings, keys and rings (R387, R391, R397) -/

/-- A value of a settings field, where it is not 0, which selects the reset value. -/
def State.setting (s : State) (img : List Byte) (off n : Nat) (f : Nat → State) : State :=
  if fieldLE img off n = 0 then s else f (fieldLE img off n)

/-- The settings image is applied. The RWS fields are loaded only at a boot that follows input power-up (R387). -/
def State.applySettings (s : State) (img : List Byte) : State :=
  let s := if s.boot.fresh then
      s.setting img 4 4 (fun v => (s.put .fabModuleAddr 0 (bits v 17 0)).put .fabAddrValid 0 (bits v 31 31))
    else s
  let s := s.setting img 8 4 (fun v =>
    let s := ((s.put .fabSizeX 0 (bits v 5 0)).put .fabSizeY 0 (bits v 13 8)).put .fabSizeZ 0 (bits v 21 16)
    ((s.put .fabWrapX 0 (bits v 24 24)).put .fabWrapY 0 (bits v 25 25)).put .fabWrapZ 0 (bits v 26 26))
  let s := s.setting img 12 4 (fun v => s.setTimeRoot (bits v 17 0) (bits v 31 31))
  let s := s.setting img 16 2 (fun v => (s.put .modHostCap 0 v).setCap)
  let s := (List.range 6).foldl (fun s p => if bit (fieldLE img 18 1) p then s.setMode p 1 else s) s
  let s := (List.range 6).foldl (fun s p => if bit (fieldLE img 19 1) p then s.setEnable p 0 else s) s
  let s := s.setting img 32 4 (fun v => s.put .modCollTimeoutUs 0 v)
  let s := s.setting img 36 4 (fun v => s.put .modRetireWindow 0 v)
  let s := s.setting img 40 4 (fun v => (List.range 32).foldl (fun s k => s.put .hbmScrubPeriod k v) s)
  s.setting img 44 2 (fun v => (List.range 32).foldl (fun s k => s.put .hbmRetCeLimit k v) s)

/-- The bank in force is applied, or reset values stand: where no bank was ever stored, and where a field of it is out of
range, which sets `SETTINGS_DEFAULTED`. -/
def State.bootSettings (s : State) : State :=
  match s.bankInForce with
  | none => { s with boot := { s.boot with settings := [] } }
  | some (b, gen) =>
    let img := s.nvBytes (bankBase b + 64) 16384
    let s := { s with boot := { s.boot with settings := img } }.put .modSettingsGen 0 gen
    if (settingsBad img 0 256).isSome then s.flag .modSettingsDefaulted 0 else s.applySettings img

/-- `PARK_AT_BOOT` of the settings that were applied. -/
def State.parkAtBoot (s : State) : Bool :=
  s.reg .modSettingsDefaulted 0 == 0 && bit (fieldLE s.boot.settings 20 1) 1

/-- The key registers follow the key-state record. -/
def State.bootKeys (s : State) : State :=
  let q := s.keyRecord.getD 0
  let s := s.put .modKeyUninit 0 (if s.keyUninit then 1 else 0)
  (s.put .modKeyNextQ 0 q).put .modKeyExhausted 0 (if 2 ^ 25 ≤ q then 1 else 0)

/-- Where firmware places a Chamber's boundary ring: a multiple of 96 in its Gallery's reserved memory (log 26). -/
def boundaryRing (c : Nat) : Nat :=
  let a := galleryBase + c / 8 * gallerySize + c % 8 * 0x10000
  a + (96 - a % 96) % 96

/-- The boundary, error-record and abort rings are placed. -/
def State.placeRings (s : State) : State :=
  let s := (s.put .modErrBase 0 (galleryBase + 0xE0000)).put .modCollAbortBase 0 (galleryBase + 0xF0000)
  (List.range 256).foldl (fun s c =>
    (s.put .chBoundaryBase c (boundaryRing c)).modChamber c (fun x => { x with boundaryPos := 0 })) s

/-! ### Stage 8: release (R17, R268, R384, R393) -/

/-- The record that commits the slot which has booted. -/
def State.committed (s : State) : SlotState :=
  let slot := s.reg .modActiveSlot 0
  let hd := s.nvBytes (slotBase slot) 256
  let x := s.slotState
  { x with committed := slot, pending := 0xFF, trials := 0, secCounter := max x.secCounter (fieldLE hd 12 2)
           revoked := if bit (fieldLE hd 19 1) 0 then 1 else x.revoked }

/-- `COMPLEX_HOLD` of every element is released. -/
def State.releaseHolds (s : State) : State :=
  let s := (List.range 8).foldl (fun s d => s.start .complex (.die d)) s
  let s := (List.range 32).foldl (fun s g => s.start .complex (.gallery g)) s
  (List.range 256).foldl (fun s c => s.start .complex (.chamber c)) s

/-- The end of boot. -/
def State.endBoot (s : State) : State :=
  let x := s.committed
  let s := s.putSlotState x
  let s := ((s.put .modSecCounter 0 x.secCounter).put .modRoot0Revoked 0 x.revoked).put .modFwPending 0 0
  let s := s.releaseHolds
  let s := (List.range 6).foldl (fun s p => s.leaveDown p) s
  let s := ((s.put .pciReady 0 1).put .modBootTime 0 s.now).put .modAttestTokens 0 1
  { s.enterPower (if s.parkAtBoot then 1 else 2) with boot := { s.boot with fresh := false } }

/-! ### BOOT_STAGE_END (R385, R386) -/

/-- The work of stage 1 to 8 is done; the next stage begins. -/
def State.bootStage (s : State) (f : BootFindings) : State :=
  let next := fun (s : State) => s.put .modBootStage 0 (s.reg .modBootStage 0 + 1)
  match s.reg .modBootStage 0 with
  | 1 => (if f.complexFails then s.bootStops 3 else next s).trainPcie
  | 2 => if f.recordFails then s.bootStops 2 else s.bootSlot
  | 3 => next (f.failedDies.foldl State.dieFails s)
  | 4 =>
    let s := (List.range 32).foldl (fun s k => if f.failedStacks.contains k then s.stackFails k else s.flag .hbmStackOnline k) s
    next s
  | 5 => next (s.retireEntries.foldl State.loadRetired s.zeroMemory)
  | 6 => next ((List.range 256).foldl (fun s c => s.loadNative c) (f.failedChambers.foldl State.chamberBootFails s))
  | 7 =>
    let s := (s.bootSettings.bootKeys.placeRings).rootNow
    next (s.boot.failed.foldl (fun s x => s.bootRecord x.1 x.2) { s with boot := { s.boot with failed := [] } })
  | 8 => s.endBoot
  | _ => s

/-- BOOT_STAGE_END. Nothing ends while boot has stopped with an error, is held by EXTEST (R417), or is over. -/
def execBootStageEnd (f : BootFindings) (s : State) : Out :=
  if !s.power.on || s.reg .modBootErr 0 ≠ 0 || s.reg .modPowerState 0 ≠ 0 ||
      (s.jtag.extestHold && s.reg .modBootStage 0 == 2) then .next s
  else .next (s.bootStage f)

/-! ### Resets (R387, R409, R416) -/

/-- BAR0 at its reset values, but for what says which firmware runs and whether it is ready, and every MSI-X entry masked
(R405, R409). -/
def State.clearBar0 (s : State) : State :=
  let fs : List Field := [.pciAqSqBase, .pciAqStqBase, .pciAqSqLog2, .pciAqStqLog2, .pciAqEnable, .pciAqReady, .pciAqError,
    .pciEvent, .pciEventMask, .pciWinBase, .pciAccessErr]
  let s := fs.foldl (fun s f => s.put f 0 (resetVal f 0)) s
  let ms : List Field := [.pciMsixAddr, .pciMsixAddrHigh, .pciMsixData, .pciMsixMask]
  let s := (List.range 64).foldl (fun s v => ms.foldl (fun s f => s.setReg f 0 v (resetVal f v)) s) s
  { s with pcie := { s.pcie with lower := [], pba := [] } }

/-- What a Function Level Reset does (R409): the jobs end, with reason 2 for their collectives; every command is cancelled
without a status entry, and every queue is ABSENT. A command whose collective still waits for its abort completes with it. -/
def State.functionReset (s : State) : State :=
  let s := (s.jobs.filter (fun j => !j.ended)).foldl (fun s j => s.abortColls j.id) s
  let s := (List.range 64).foldl (fun s q => s.silence q) s
  let s := s.outstanding.foldl (fun s o => s.stopCommand o.cmd stCollAbort 2) s
  let s := (List.range 64).foldl (fun s q => s.tryAbsent q) s
  let s := s.jobs.foldl (fun s j => s.releaseJob j.id) s
  s.clearBar0

/-- PCIE_RESET (R409). -/
def execPcieReset (s : State) : Out := .next s.functionReset

/-- Retired blocks that a full list does not hold: they are kept for the power cycle (R239). -/
def State.unlisted (s : State) : List Nat :=
  let es := s.retireEntries
  if es.length < 32768 then []
  else s.retired.filter (fun b => !es.any (fun e => decide (bits e 27 25 ≤ 1) && bits e 24 0 == b))

/-- What a module reset keeps: the non-volatile memory, the retirements that its list could not take, RWS fields (R7), what manufacture fixed, memory until stage 5 writes
it with zero, the host link, what lies outside the module, and the energy that R377 counts since power-up. A line write under
way leaves the line's old or its new content, whichever the free value says. -/
def State.resetKeeping (s : State) : State :=
  let (f, s) := s.takeFree
  let r : State :=
    { State.reset with nvMem := s.nvCut (f % 2 == 1), mfgOpen := s.mfgOpen, keyInit := s.keyInit, hostMem := s.hostMem, mem := s.mem, poison := s.poison, lost := s.lost, retired := s.unlisted
                       fresh := s.fresh, outbox := s.outbox, pending := s.pending, jtag := s.jtag, smbus := { address := s.smbus.address }
                       pcie := { s.pcie with readyAt := 0, lower := [], pba := [] }, boot := { fresh := s.boot.fresh }
                       power := { on := s.power.on, energyFrac := s.power.energyFrac }, thermTripLow := s.thermTripLow }
  let keep : List Field := [.fabModuleAddr, .fabAddrValid, .modInputEnergy, .mgtLinkUp]
  keep.foldl (fun r f => r.put f 0 (s.reg f 0)) r

/-- A module reset: the function is reset too, and boot runs stages 3 to 8 again with the ROM's choice of a slot; one that has
not yet come to stage 3 begins again with stage 2 (R384, R387, R409). -/
def State.moduleReset (s : State) : State :=
  if !s.power.on then s
  else
    let stage := s.reg .modBootStage 0
    let s := s.functionReset.resetKeeping
    if 3 ≤ stage then s.bootSlot else s.put .modBootStage 0 (max 1 stage)

/-- BOOT_LIMIT (R386): boot has not come to its end within 5 s. -/
def execBootLimit (s : State) : Out :=
  let stage := s.reg .modBootStage 0
  if stage = 0 || s.reg .modPowerState 0 ≠ 0 || s.reg .modBootErr 0 ≠ 0 || (s.jtag.extestHold && stage == 2) then .next s
  else .next s.moduleReset

/-- MGT_RESET_KEY (R416). -/
def execMgtResetKey (value : Nat) (s : State) : Out :=
  .next (if value % 65536 = 0xD2C1 then s.moduleReset else s.flag .mgtAccessErr 0)

/-! ### The test access port (R390, R417) -/

/-- An instruction is in the test access port; what it shifts out leaves the module. Without its rail the port does
nothing. -/
def State.jtagInstr (s : State) (i : JtagInstr) (k : State → State) : Out :=
  if !s.power.on then .next s else .next (k { s with jtag := { s.jtag with instr := i } })

/-- TRST_N: the port is reset, and boot goes on. -/
def execTrstN (s : State) : Out := .next { s with jtag := { s.jtag with instr := .idcode, extestHold := false } }

/-- BYPASS: the bypass register of IEEE 1149.1 captures 0. -/
def execBypass (s : State) : Out := s.jtagInstr .bypass (fun s => s.send (.jtag 1 0))

/-- IDCODE. -/
def execIdcode (s : State) : Out := s.jtagInstr .idcode (fun s => s.send (.jtag 32 0x1D2004A7))

/-- SAMPLE_PRELOAD: the boundary register's cells are not in the spec. -/
def execSamplePreload (s : State) : Out := s.jtagInstr .samplePreload id

/-- EXTEST: accepted while `BOOT_STAGE` is 2 or less; it holds boot in stage 2. -/
def execExtest (s : State) : Out :=
  if 2 < s.reg .modBootStage 0 then .next s
  else s.jtagInstr .extest (fun s => { s with jtag := { s.jtag with extestHold := true } })

/-- SVL_STATUS. -/
def execSvlStatus (s : State) : Out :=
  s.jtagInstr .svlStatus (fun s => s.send (.jtag 32 (s.reg .modBootStage 0 + 16 * s.reg .modBootErr 0 +
    (if s.mfgOpen then 2 ^ 8 else 0) + (if s.keyInit then 2 ^ 9 else 0))))

/-- Images are taken while boot has stopped with an error, and while manufacture is open. -/
def State.imageOpen (s : State) : Bool := s.reg .modBootErr 0 != 0 || s.mfgOpen

/-- SVL_IMG_LOAD: the staging SRAM holds 2 MiB. -/
def execSvlImgLoad (data : List Byte) (s : State) : Out :=
  if !s.imageOpen then .next s
  else s.jtagInstr .svlImgLoad (fun s => { s with jtag := { s.jtag with staging := data.take 0x200000 } })

/-- SVL_IMG_COMMIT: an image that passes R383 goes to the slot that is not committed and is named as pending; then the module
is reset. One that fails is not written, and nothing is reset. -/
def execSvlImgCommit (s : State) : Out :=
  let img := s.jtag.staging.take (imageLen s.jtag.staging)
  if !s.imageOpen then .next s
  else
    s.jtagInstr .svlImgCommit (fun s =>
      if (imageFails s.slotState img).isSome then s
      else
        let slot := s.otherSlot
        let s := (linesOf (slotBase slot) img).foldl (fun s l => s.nvPut l.1 l.2) s
        (s.putSlotState { s.slotState with pending := slot, trials := 0 }).moduleReset)

/-- Where the manufacturing record holds the identity public key: its second 4 KiB. -/
def nvIdentity : Nat := 64

/-- SVL_KEY_PROV (R390): the device seed is drawn into the sealed area, the public key goes to the manufacturing record, and
a key-state record with `NEXT_Q` 0 is in force. -/
def execSvlKeyProv (s : State) : Out :=
  if !s.mfgOpen then .next s
  else
    s.jtagInstr .svlKeyProv (fun s =>
      let (f, s) := s.takeFree
      let seed := f % 2 ^ 256
      let s := s.nvPut 0 (bytesLE 32 seed)
      let s := s.nvPut nvIdentity ((padTo 60 (Config.identityPub seed)).take 60)
      let (l, bs) := s.keyWrite 0
      { s.nvPut l bs with keyInit := true })

end Sys2Proof.Machine
end

