-- ==== Sys2Proof/Machine/Context.lean ====
section
/-!
DEFINITION. Saving and restoring the context of a job (R27, R28, R353, R354).
-/
namespace Sys2Proof.Machine

/-! ### The parts of a context (R353) -/

/-- Offsets of byte strings that follow one another from `base`, each on a multiple of `grain`, and the end. -/
def placeAll (grain base : Nat) : List (List Byte) → List Nat × Nat
  | [] => ([], base)
  | x :: xs =>
    let a := ceilDiv base grain * grain
    let (os, z) := placeAll grain (a + x.length) xs
    (a :: os, z)

/-- Byte strings at their offsets, zeros between them. -/
def layOut (base : Nat) : List (Nat × List Byte) → List Byte
  | [] => []
  | (a, x) :: xs => List.replicate (a - base) 0 ++ x ++ layOut (a + x.length) xs

/-- The rows of a tensor one after the other. -/
def State.tensorRows (s : State) (t : Tensor) : List Byte :=
  let n := t.p.cols * fmtBytes t.stored
  (List.range t.p.rows).flatMap (fun r => s.bytes (t.p.base + r * t.p.rowStride) n)

/-- The logical pages that a table maps, with their entries. -/
def State.validPages (s : State) (hd : PtHeader) : List (Nat × Nat) :=
  (List.range (ceilDiv hd.limit 4096)).flatMap (fun d =>
    let de := s.num (hd.dir + 8 * d) 8
    if de % 2 = 0 then []
    else (List.range (min 4096 (hd.limit - 4096 * d))).filterMap (fun i =>
      let e := s.num (de / 32768 * 32768 + 8 * i) 8
      if e % 2 = 1 then some (4096 * d + i, e) else none))

/-- A paged tensor as a context holds it: its page-table header, its valid entries and the pages they name. -/
def State.tensorPages (s : State) (t : Tensor) : List Byte :=
  match readRef s t.p.base with
  | .error _ => []
  | .ok r =>
    let es := s.validPages r.hdr
    s.bytes r.pt 64 ++ es.flatMap (fun e => bytesLE 8 e.2) ++
      es.flatMap (fun e => s.bytes (e.2 / 16384 * 16384) (256 * r.hdr.dim * fmtBytes r.hdr.format))

/-- The content of a tensor. -/
def State.tensorData (s : State) (t : Tensor) : List Byte := if t.p.space = 3 then s.tensorPages t else s.tensorRows t

/-- A tensor entry. -/
def tensorEntry (t : Tensor) (dataOff histOff : Nat) : List Byte :=
  bytesLE 4 t.p.id ++ bytesLE 1 t.p.format ++ bytesLE 1 t.p.space ++ bytesLE 1 t.p.policy ++ bytesLE 1 t.lastHist.length ++
    bytesLE 4 t.scale ++ bytesLE 4 t.p.rows ++ bytesLE 4 t.p.cols ++ bytesLE 1 t.p.histH ++ bytesLE 1 t.p.histM ++
    bytesLE 1 t.p.saveMode ++ bytesLE 1 t.p.saveFmt ++ bytesLE 8 dataOff ++ bytesLE 8 t.p.base ++ bytesLE 8 histOff ++
    List.replicate 16 0

/-- A rectangle. -/
def rectBytes (x : Rect) (partialOff : Nat) : List Byte :=
  bytesLE 4 x.r0 ++ bytesLE 4 x.r1 ++ bytesLE 4 x.c0 ++ bytesLE 4 x.c1 ++ bytesLE 8 x.kDone ++ bytesLE 8 partialOff ++
    List.replicate 16 0

/-- A progress entry. -/
def progressEntry (x : Progress) (rectOff : Nat) : List Byte :=
  bytesLE 2 x.opcode ++ [0, 0] ++ bytesLE 4 x.paramCrc ++ bytesLE 4 x.rects.length ++ List.replicate 4 0 ++ bytesLE 8 rectOff ++
    List.replicate 8 0

/-- The context of a job: header, tables, rectangles, partials, histories, and the tensors unless they stay in place. -/
def State.contextBytes (s : State) (j : Job) (inPlace : Bool) : List Byte :=
  let ts := s.tensors.filter (fun t => t.job == j.id)
  let ps := (s.halted ++ s.progress).filter (fun x => x.job == j.id)
  let rects := ps.flatMap (·.rects)
  let progOff := 128 + 64 * ts.length
  let rectOff := progOff + 32 * ps.length
  let (partOffs, z1) := placeAll 8 (rectOff + 48 * rects.length) (rects.map (fun x => x.partials.flatMap (bytesLE 8)))
  let (histOffs, z2) := placeAll 8 z1 (ts.map (fun t => t.lastHist.flatMap (bytesLE 4)))
  let data := ts.map (fun t => if inPlace then [] else s.tensorData t)
  let (dataOffs, z3) := placeAll 64 z2 data
  let total := if inPlace then z2 else z3
  let firstRect := fun k => rectOff + 48 * (((ps.take k).map (fun x => x.rects.length)).foldl (· + ·) 0)
  let entries := (List.range ts.length).flatMap (fun k =>
    match ts[k]? with
    | some t => tensorEntry t (if inPlace then 0 else dataOffs.getD k 0) (histOffs.getD k 0)
    | none => [])
  let progress := (ps.zipIdx).flatMap (fun x => progressEntry x.1 (firstRect x.2))
  let table := (rects.zipIdx).flatMap (fun x => rectBytes x.1 (partOffs.getD x.2 0))
  let blobs := partOffs.zip (rects.map (fun x => x.partials.flatMap (bytesLE 8))) ++
    histOffs.zip (ts.map (fun t => t.lastHist.flatMap (bytesLE 4))) ++ (if inPlace then [] else dataOffs.zip data)
  let head := fun crc => bytesLE 4 j.major ++ [2, 0, 0, 0] ++ bytesLE 16 j.profile ++ bytesLE 16 j.seed ++ bytesLE 4 j.rank ++
    bytesLE 4 ts.length ++ bytesLE 4 ps.length ++ bytesLE 4 crc ++ bytesLE 8 total ++ bytesLE 8 128 ++ bytesLE 8 progOff ++
    bytesLE 8 s.now ++ List.replicate 40 0
  let rest := entries ++ progress ++ table ++ layOut (rectOff + 48 * rects.length) blobs
  head (crc32c (head 0 ++ rest)) ++ rest

/-! ### CONTEXT_SAVE (R353) -/

/-- Commands of a job that have started and are not complete. -/
def State.runningOf (s : State) (job : Nat) : List Outstanding :=
  s.outstanding.filter (fun o => o.jobId == job && o.phase != .fetched)

/-- The first poisoned place of what a context copies. -/
def State.contextPoison (s : State) (job : Nat) : Option Nat :=
  (s.tensors.filter (fun t => t.job == job && t.p.space != 3)).findSome? (fun t =>
    s.poisonAt t.p.base t.bytes)

/-- Where the context goes: the destination, or a free range of a stack that firmware takes for it. -/
def State.contextPlace (s : State) (dest size : Nat) : Option Nat × State :=
  if dest ≠ 0 then (some dest, s)
  else
    let (pick, s) := s.takeFree
    let n := ceilDiv size 65536 * 65536
    match (List.range 32).findSome? (fun k => s.place 2 ((pick + k) % 32) n (pick / 32)) with
    | some a => (some a, { s with allocs := (a, n) :: s.allocs })
    | none => (none, s)

/-- The job has come to rest: its context is written and the command completes. -/
def State.writeContext (s : State) (h : Cmd) (j : Job) (dest : Nat) : State :=
  let bs := s.contextBytes j (decide (dest = 0))
  match if dest = 0 then none else s.contextPoison j.id with
  | some a => s.rdStop h 0x74 (.poison a)
  | none =>
    match s.contextPlace dest bs.length with
    | (none, s) => s.fail h stNoMemory 0
    | (some a, s) =>
      if !s.hostRange a bs.length then s.addrFail h a
      else
        let saved : SavedContext := { addr := a, own := decide (dest = 0), tensors := s.tensors.filter (fun t => t.job == j.id) }
        let s := { s.store a bs with contexts := saved :: s.contexts.filter (fun x => x.addr != a)
                                     halted := s.halted.filter (fun x => x.job != j.id) }
        s.complete h { result := bs.length, job := some j.id }

/-- A CONTEXT_SAVE that waits goes on once no command of its job runs. -/
def State.trySave (s : State) (h : Cmd) (job dest : Nat) : State :=
  match s.job? job with
  | none => s.fail h stNoJob 0
  | some j => if (s.runningOf job).isEmpty then s.writeContext h j dest else s

/-- Every CONTEXT_SAVE that waits. -/
def State.trySaves (s : State) : State :=
  (s.outstanding.filter (fun o => o.opcode == 0x74 && o.phase == .held && o.held.length == 12)).foldl (fun s o =>
    s.trySave o.cmd (fieldLE o.held 0 4) (fieldLE o.held 4 8)) s

/-- A command of a Chamber that has no strand now is at rest: it completes at once, with nothing of its output summed. -/
def State.saveIdle (s : State) (h : Cmd) (job : Nat) : State :=
  ((s.runningOf job).filter (fun o => opChambers o.opcode && (s.strandsOf o.cmd).isEmpty)).foldl (fun s o =>
    let x : Progress := { job := job, opcode := o.opcode, paramCrc := crc32c o.params, rects := [] }
    ({ s with halted := s.halted ++ [x] }).stopCommand o.cmd stCancelled h.seq) s

/-- CONTEXT_SAVE: the job's commands are fetched and started no more; those that run stop at their strands' boundaries
(`saveStop`), and transfers, collectives and sampler requests, which have no strands, run to their end (log 39). -/
def execContextSave (h : Cmd) (jobId dest : Nat) (s : State) : Out :=
  let live := match s.job? jobId with | some j => !j.ended | none => false
  let s1 := (s.hold h 0x74 (bytesLE 4 jobId ++ bytesLE 8 dest)).modJob jobId (fun j => { j with saving := true })
  s.run h [check live stNoJob 0] ((s1.saveIdle h jobId).trySave h jobId dest)

/-! ### CONTEXT_RESTORE (R354) -/

/-- The numbered words of a byte string. -/
def wordsOf (bs : List Byte) (off width n : Nat) : List Nat := (List.range n).map (fun i => fieldLE bs (off + width * i) width)

/-- A rectangle as a context holds it. -/
def rectOf (ctx : List Byte) (off : Nat) : Rect :=
  let r0 := fieldLE ctx off 4
  let r1 := fieldLE ctx (off + 4) 4
  let c0 := fieldLE ctx (off + 8) 4
  let c1 := fieldLE ctx (off + 12) 4
  let k := fieldLE ctx (off + 16) 8
  { r0 := r0, r1 := r1, c0 := c0, c1 := c1, kDone := k
    partials := if k = 0xFFFFFFFFFFFFFFFF then [] else wordsOf ctx (fieldLE ctx (off + 24) 8) 8 (min ((r1 - r0) * (c1 - c0)) (ctx.length / 8)) }

/-- A progress entry as a context holds it. -/
def progressOf (job : Nat) (ctx : List Byte) (off : Nat) : Progress :=
  let n := min (fieldLE ctx (off + 8) 4) (ctx.length / 48)
  { job := job, opcode := fieldLE ctx off 2, paramCrc := fieldLE ctx (off + 4) 4
    rects := (List.range n).map (fun i => rectOf ctx (fieldLE ctx (off + 16) 8 + 48 * i)) }

/-- A tensor of a context. What its entry does not hold (the row stride in place, the bases of its index and of its saved copy,
its half) is what this module kept when it wrote the context at `src`; where another module wrote it, these are free values. -/
def State.restoreTensor (s : State) (job src : Nat) (ctx : List Byte) (off : Nat) : Tensor × State :=
  let id := fieldLE ctx off 4
  let dataOff := fieldLE ctx (off + 24) 8
  let kept := (s.contexts.find? (fun x => x.addr == src)).bind (fun x => x.tensors.find? (fun t => t.p.id == id))
  let (f1, s1) := s.takeFree
  let (f2, s1) := s1.takeFree
  let (f3, s1) := s1.takeFree
  let (f4, s1) := s1.takeFree
  let (idxBase, saveBase, half, stride) := match kept with
    | some t => (t.p.idxBase, t.p.saveBase, t.p.pageHalf, t.p.rowStride)
    | none => (f1 % 2 ^ 56, f2 % 2 ^ 64, f3 % 2, f4 % 2 ^ 64)
  let space := fieldLE ctx (off + 5) 1
  let copied := dataOff != 0 && space != 3
  let p : TensorParams :=
    { id := id, format := fieldLE ctx (off + 4) 1, space := space, policy := fieldLE ctx (off + 6) 1, histH := fieldLE ctx (off + 20) 1
      histM := fieldLE ctx (off + 21) 1, saveMode := fieldLE ctx (off + 22) 1, saveFmt := fieldLE ctx (off + 23) 1, pageHalf := half
      scale := fieldLE ctx (off + 8) 4, base := if copied then src + dataOff else fieldLE ctx (off + 32) 8
      rows := fieldLE ctx (off + 12) 4, cols := fieldLE ctx (off + 16) 4, rowStride := stride, saveBase := saveBase, idxBase := idxBase }
  let t : Tensor := { job := job, p := p, scale := fieldLE ctx (off + 8) 4, hist := wordsOf ctx (fieldLE ctx (off + 40) 8) 4 (fieldLE ctx (off + 7) 1) }
  let t := if copied then { t with p := { p with rowStride := p.cols * fmtBytes t.stored } } else t
  (t, if kept.isSome then s else s1)

/-- The job that a context describes. Its rank map is the one that this module holds under the map's CRC. -/
def State.contextJob (s : State) (ctx : List Byte) : Job :=
  let b := fun i => fieldLE ctx (8 + i) 1
  let legacy := b 0 = 2
  let crc := fieldLE ctx 16 4
  let map := s.jobs.find? (fun j => j.mapCrc == crc && !j.ranks.isEmpty)
  { id := s.nextJob, major := b 0, minor := b 1, format := b 2, fwIf := b 3, sfMode := if legacy then 1 else b 4 % 16
    generator := if legacy then 1 else b 4 / 16, numerics := b 5 % 16, collOrder := b 5 / 16, mapCrc := crc, tag := fieldLE ctx 20 2
    seed := fieldLE ctx 24 16, rank := fieldLE ctx 40 4
    ranks := match map with | some j => j.ranks | none => []
    nx := match map with | some j => j.nx | none => 1
    ny := match map with | some j => j.ny | none => 1
    nz := match map with | some j => j.nz | none => 1 }

/-- The tensors of a context, in its order. -/
def State.bindTensors (s : State) (job src : Nat) (ctx : List Byte) : List Nat → State
  | [] => s
  | off :: offs =>
    let (t, s) := s.restoreTensor job src ctx off
    ({ s with tensors := s.tensors ++ [t] }).bindTensors job src ctx offs

/-- The job is admitted with its tensors and its progress. -/
def State.restoreJob (s : State) (h : Cmd) (src : Nat) (ctx : List Byte) : State :=
  let j := s.contextJob ctx
  let need := if j.ranks.isEmpty then 0 else s.reg .modSumpJobSegs 0
  let nt := min (fieldLE ctx 44 4) (ctx.length / 64)
  let np := min (fieldLE ctx 48 4) (ctx.length / 32)
  if s.reg .modSumpFree 0 < need then s.fail h stNoResources 0
  else
    let s := s.put .modSumpFree 0 (s.reg .modSumpFree 0 - need)
    let s := if need = 0 then s else s.bump .modCollJobs 0 1
    let s := { s with jobs := s.jobs ++ [{ j with pool := need, poolFree := need, claimMax := s.reg .modClaimMaxSegs 0 }], nextJob := s.nextJob + 1
                      progress := s.progress ++ (List.range np).map (fun i => progressOf j.id ctx (fieldLE ctx 72 8 + 32 * i)) }
    let s := s.bindTensors j.id src ctx ((List.range nt).map (fun i => fieldLE ctx 64 8 + 64 * i))
    s.complete h { result := j.id, job := some j.id }

/-- CONTEXT_RESTORE; source 0 names the context that firmware placed last (log 40). -/
def execContextRestore (h : Cmd) (src : Nat) (s : State) : Out :=
  let a := if src = 0 then ((s.contexts.find? (·.own)).map (·.addr)).getD 0 else src
  let hd := s.bytes a 128
  let n := fieldLE hd 56 8
  let s := if s.ready h then (s.refetchFirst a 128).refetchFirst a n else s
  let ctx := s.bytes a n
  s.run h []
    (if !s.hostRange a 128 then s.addrFail h a
     else if s.poisoned a 128 then s.rdStop h 0x75 (s.poisonErr a 128)
     else if !(fieldLE hd 0 4 == 2 || fieldLE hd 0 4 == 3) || !(fieldLE hd 4 1 == 1 || fieldLE hd 4 1 == 2) || n < 128 then s.bad h 8
     else if !s.hostRange a n then s.addrFail h a
     else if s.poisoned a n then s.rdStop h 0x75 (s.poisonErr a n)
     else if crc32c (zeroed ctx 52 4) ≠ fieldLE hd 52 4 then s.bad h 8
     else if !ownVersions.contains (fieldLE hd 8 1, fieldLE hd 9 1) then s.fail h stVersionContract (versionNum 3 0)
     else (s.readRange none clsManagement false a n).restoreJob h a ctx)

end Sys2Proof.Machine
end

