-- ==== Sys2Proof/Machine/Elementwise.lean ====
section
/-!
DEFINITION. MAP, OPT_STEP and SAMPLE as whole operations (R93, R107, R184, R203 to R218, R261, R437).
-/
namespace Sys2Proof.Machine

/-! ### MAP (R437) -/

/-- Registers that a MAP's words may read and write (R437). -/
def mapReads (r : Nat) : Bool := r ≤ 1 || decide (24 ≤ r)
def mapWrites (r : Nat) : Bool := r == 0 || decide (24 ≤ r)

/-- The status that a word earns (R437), none where it may run. -/
def mapWordStatus (w : Nat) : Option Nat :=
  let op := w % 256
  let fn := bits w 13 8
  let dst := bits w 18 14
  let src := bits w 23 19
  let src2 := bits w 28 24
  if op ≠ 0x30 && op ≠ 0x38 then some stBadParam
  else if w ||| (wordMask op).getD 0 ≠ (wordMask op).getD 0 then some stReserved
  else if op = 0x30 then
    if vopKnown fn && mapWrites dst && mapReads src && (bit w 29 || mapReads src2) then none else some stBadParam
  else if (decide (fn ≤ 0x0B) || fn == 0x30) && mapWrites dst && mapReads src && bits w 62 55 != 0xFF then none
  else some stBadParam

/-- The check of the words, in order. -/
def State.mapWords (s : State) (h : Cmd) (ws : List Nat) : Check :=
  (List.range ws.length).findSome? (fun i => (mapWordStatus (ws.getD i 0)).map (fun st => (st, s.at h (24 + 8 * i))))

/-- The vector registers of one group. -/
abbrev MapRegs := Tbl (List Acc44)

/-- Lanes of a register of group `n` that no word of the MAP has written: free, and the same whenever the MAP runs (R21; log 73). -/
def freeLanes (n reg : Nat) : List Acc44 := (List.range 512).map (fun l => BitVec.ofNat 44 (Config.mapLane n reg l))

/-- One word of a MAP on the registers of a group; `word l` is the generator word of lane l. -/
def mapWord (strict : Bool) (img : SfBank) (word : Nat → Nat) (regs : MapRegs × Nat) (w : Nat) : MapRegs × Nat :=
  let get := fun r => tget zeroLanes regs.1 r
  let dst := bits w 18 14
  let src := bits w 23 19
  if w % 256 = 0x30 then
    let b := if bit w 29 then List.replicate 512 (accRound strict (fp32 (bits w 63 32))).1 else get (bits w 28 24)
    let (v, f) := vopRun strict (bits w 13 8) (get dst) (get src) b
    (tset zeroLanes regs.1 dst v, nfOr regs.2 f)
  else
    let fn := bits w 13 8
    let outs := if fn = 0x30 then
        ((get src).zip (List.range 512)).map (fun x => gaussLane img strict (bits w 63 32) (word x.2) x.1)
      else (get src).map (sfLane img strict fn (bits w 63 32))
    (tset zeroLanes regs.1 dst (outs.map (·.value)), outs.foldl (fun f o => nfOr f (nfOr o.flags (nfWhen o.domain nfDomain))) regs.2)

/-- The 512 lanes of a source in a group, each times the scale (R437). -/
def mapLanes (s : State) (strict : Bool) (v : View) (scale : Nat) : List (Nat × Nat) → Except RdErr (List Acc44 × Nat)
  | [] => .ok ([], 0)
  | (r, c) :: xs => do
    let e ← v.read1 s r c
    if e.poisoned then .error (.poison e.addr)
    else
      let (a, f) := match e.code with | some k => vloadLane strict v.d.format k | none => (accZero, 0)
      let (y, f') := accRoundF strict ((accNum a).mul (fp32 scale))
      let (rest, fr) ← mapLanes s strict v scale xs
      .ok (y :: rest, nfOr (nfOr f f') fr)

/-- What a MAP works with. -/
structure MapCtx where
  strict : Bool
  img : SfBank
  src : View
  sSrc : Nat
  src2 : Option (View × Nat)
  dst : View
  words : List Nat
  dr : Draws
deriving DecidableEq, Repr

/-- One group of 512 elements: rows 4g to 4g + 3 of column block b; its elements carry the flags of its words. -/
def MapCtx.group (x : MapCtx) (s : State) (g b n : Nat) : Except RdErr (List OutElem) := do
  let ps := lanePlaces g b
  let (v0, f0) ← mapLanes s x.strict x.src x.sSrc ps
  let (v1, f1) ← match x.src2 with
    | some (v, sc) => mapLanes s x.strict v sc ps
    | none => pure (freeLanes n 1, 0)
  let free : MapRegs := (List.range 8).map (fun i => (24 + i, freeLanes n (24 + i)))
  let word := fun l => gaussBits x.img x.dr (x.dst.logical 0 (4 * g + l / 128) (128 * b + l % 128))
  let (regs, fl) := x.words.foldl (mapWord x.strict x.img word) ((0, v0) :: (1, v1) :: free, nfOr f0 f1)
  let es := (ps.zip (tget zeroLanes regs 0)).filter (fun e => decide (e.1.1 < x.dst.rEnd) && decide (e.1.2 < x.dst.cEnd))
  .ok (es.map (fun e => ⟨e.1.1, e.1.2, e.2, fl⟩))

/-- The groups of a MAP, numbered. -/
def MapCtx.groups (x : MapCtx) (s : State) : List (Nat × Nat × Nat) → Except RdErr (List OutElem)
  | [] => .ok []
  | (n, g, b) :: gs => do
    let es ← x.group s g b n
    let rest ← x.groups s gs
    .ok (es ++ rest)

/-- Checks of MAP. -/
def State.mapChecks (s : State) (h : Cmd) (p : MapParams) : List Check :=
  let job := (s.entry h).jobId
  let src := s.tensor? job p.src
  let src2 := s.tensor? job p.src2
  let dst := s.tensor? job p.dst
  let sc := fun (t : Option Tensor) => match t with | some t => s.scaleCheck t | none => none
  let covers := fun (t : Option Tensor) => match t, dst with
    | some a, some d => decide (d.p.rows ≤ a.p.rows) && decide (d.p.cols ≤ a.p.cols)
    | _, _ => true
  let n := p.words.length
  [s.jobCheck h, s.param h (decide (1 ≤ n) && decide (n ≤ 15)) 12, s.mapWords h p.words, s.param h (decide (p.rnd ≤ 2)) 13,
   s.param h (src.isSome && covers src) 0, s.param h (p.src2 == 0xFFFFFFFF || (src2.isSome && covers src2)) 4,
   s.param h dst.isSome 8, sc src, if p.src2 = 0xFFFFFFFF then none else sc src2,
   match dst with | some t => s.outScaleCheck t | none => none, check (s.jobGroup job 0x43).isSome stNoResources 0]

/-- The tensors of a MAP, and what it works with. -/
def State.mapCtx (s : State) (h : Cmd) (p : MapParams) : Except RdErr (Option (Tensor × MapCtx)) := do
  let job := (s.entry h).jobId
  match s.tensor? job p.src, s.tensor? job p.dst with
  | some a, some d =>
    let va ← a.view s .plain 0
    let vd ← d.view s .out p.rnd
    let second ← match s.tensor? job p.src2 with
      | some b => if p.src2 = 0xFFFFFFFF then pure none else (b.view s .plain 0).map (fun v => some (v, b.scaleIn v))
      | none => pure none
    .ok (some (d, { strict := s.strict job, img := s.jobImage job, src := va, sSrc := a.scaleIn va, src2 := second, dst := vd
                    words := p.words, dr := s.outDraws h d p.stream }))
  | _, _ => .ok none

/-- The groups of a MAP's output, numbered. -/
def MapCtx.all (x : MapCtx) : List (Nat × Nat × Nat) :=
  let nb := ceilDiv x.dst.cEnd 128
  (places (ceilDiv x.dst.rEnd 4) nb).map (fun y => (y.1 * nb + y.2, y.1, y.2))

/-- GAUSS words of a MAP. -/
def MapCtx.gauss (x : MapCtx) : GaussUse :=
  { words := (x.words.filter (fun w => w % 256 == 0x38 && bits w 13 8 == 0x30)).length, rows := 4 }

/-- What a MAP hands to the Store; `rects` are of the command that it resumes. -/
def MapCtx.produced (x : MapCtx) (rects : List Rect) (es : List OutElem) : Produced :=
  { parts := [{ v := x.dst, listed := 0, elems := es, rects := rects, rows := x.dst.rEnd, cols := x.dst.cEnd }]
    amax := amaxOf 0x3F800000 0x3F800000 (es.map (·.acc)), flags := (es.map (·.flags)).foldl nfOr 0 }

/-- The Store's value of a lane: divided by the scale of `DST`. -/
def MapCtx.fin (x : MapCtx) (scale : Nat) (_ : OutPart) (_ _ : Nat) (a : Acc44) : Acc44 × Nat :=
  accRoundF x.strict ((accNum a).div (fp32 scale))

/-- Two tensors share bytes of memory. -/
def Tensor.meets (a b : Tensor) : Bool :=
  (⟨a.p.base, a.p.base + a.bytes⟩ : Span).meets ⟨b.p.base, b.p.base + b.bytes⟩

/-- What a resumed MAP had found in blocks that it wrote over a source is not there to be read again: the amax and the flags of that
part are free values (R337; log 39). -/
def State.openPart (s : State) (h : Cmd) (p : MapParams) (d : Tensor) (r : Produced) : Produced × State :=
  let job := (s.entry h).jobId
  let covers := [p.src, p.src2].any (fun id => match s.tensor? job id with | some t => t.meets d | none => false)
  if covers && (s.heldRects h 0x43).any Rect.written then
    let (f, s) := s.takeFree
    ({ r with amax := max r.amax (f % 0x7F800000), flags := nfOr r.flags (f / 0x7F800000 % 256) }, s)
  else (r, s)

/-- The programs of an element-wise command on a group: each Chamber's share of the row blocks (R148). -/
def StageGroup.elementPlans (g : StageGroup) (rows cols : Nat) (build : Nat → Nat → StrandPlan) : Planned :=
  let c := g.chambers.length
  let mb := ceilDiv rows 128
  Planned.of [] (((g.chambers.zipIdx.map (fun x => (x.1, groupsOf (128 * (share mb c x.2).2) cols))).filter (fun x => x.2 ≠ 0)).map
    (fun x => build x.1 x.2))

/-- MAP: V0 divided by the scale of `DST`, its amax before that (R50, R437). It waits while a Chamber of its group is held. -/
def execMap (h : Cmd) (p : MapParams) (s : State) : Out :=
  let s := s.refetchTensors (s.entry h).jobId [p.src, p.src2]
  let gr := s.jobGroup (s.entry h).jobId 0x43
  s.run h (s.mapChecks h p)
    (if !s.stageRuns gr then s
     else
     match s.mapCtx h p, gr with
     | .error e, _ => s.rdStop h 0x43 e
     | .ok (some (d, x)), some g =>
       match x.groups s x.all with
       | .error e => s.rdStop h 0x43 e
       | .ok es =>
         let (r, s1) := s.openPart h p d (x.produced (s.heldRects h 0x43) es)
         let plans := g.elementPlans x.dst.rEnd x.dst.cEnd (fun c n => g.plan c 0 1 [.map n])
         ((s1.setGroup g).runPlans plans (s.stacksOf g.job 0 [p.src, p.src2])).produce h 0x43 d p.stream p.rnd
           (r.divide (.alongM (ceilDiv x.dst.rEnd 128)) g.chambers) x.gauss x.fin false
     | _, _ => s.bad h 0)

/-! ### OPT_STEP (R181 to R184) -/

/-- New m, v and w of one element from w, m, v, dw (R184), with the flags that its roundings raise. -/
def adamStep (st : Bool) (img : SfBank) (p : OptParams) (gs : Nat) (w m v dw : Acc44) : Acc44 × Acc44 × Acc44 × Nat :=
  let imm := fun c => (accRound st (fp32 c)).1
  let mul := fun a b => accRoundF st ((accNum a).mul (accNum b))
  let fma := fun d a b => accRoundF st ((accNum d).add ((accNum a).mul (accNum b)))
  let g := mul dw (imm gs)
  let t := mul m (imm p.b1)
  let m' := fma t.1 g.1 (imm p.c1)
  let q := mul g.1 g.1
  let t2 := mul v (imm p.b2)
  let v' := fma t2.1 q.1 (imm p.c2)
  let mh := mul m'.1 (imm p.h1)
  let vh := mul v'.1 (imm p.h2)
  let ve := accRoundF st ((accNum vh.1).add (accNum (imm p.e2)))
  let r := sfLane img st 5 0x3F800000 ve.1
  let u := mul mh.1 r.value
  let u' := fma u.1 w (imm p.lam)
  let w' := fma w u'.1 (imm p.negLr)
  let fl := [g.2, t.2, m'.2, q.2, t2.2, v'.2, mh.2, vh.2, ve.2, r.flags, u.2, u'.2, w'.2, nfWhen r.domain nfDomain].foldl nfOr 0
  (m'.1, v'.1, w'.1, fl)

/-- What an OPT_STEP works with: the five views and the scale of dW. -/
structure OptCtx where
  w : View
  m : View
  v : View
  dw : View
  copy : View
  gs : Nat
deriving DecidableEq, Repr

/-- An element of a state tensor as a lane. -/
def optLane (s : State) (strict : Bool) (v : View) (r c : Nat) : Except RdErr (Acc44 × Nat) := do
  let e ← v.read1 s r c
  if e.poisoned then .error (.poison e.addr)
  else .ok (match e.code with | some k => vloadLane strict v.d.format k | none => (accZero, 0))

/-- The new values of an element, with the flags that forming them has raised. -/
structure OptElem where
  r : Nat
  c : Nat
  m : Acc44
  v : Acc44
  w : Acc44
  flags : Nat
deriving DecidableEq, Repr

/-- The unfrozen elements with their new values. -/
def OptCtx.elems (x : OptCtx) (s : State) (strict : Bool) (img : SfBank) (p : OptParams) : List (Nat × Nat) → Except RdErr (List OptElem)
  | [] => .ok []
  | (r, c) :: ps => do
    let (w, f1) ← optLane s strict x.w r c
    let (m, f2) ← optLane s strict x.m r c
    let (v, f3) ← optLane s strict x.v r c
    let (dw, f4) ← optLane s strict x.dw r c
    let (m', v', w', f5) := adamStep strict img p x.gs w m v dw
    let rest ← x.elems s strict img p ps
    .ok (⟨r, c, m', v', w', [f1, f2, f3, f4, f5].foldl nfOr 0⟩ :: rest)

/-- The group of an OPT_STEP: that of the stage which reads its weights or has written its gradients (R179). -/
def State.optGroup (s : State) (job : Nat) (p : OptParams) : Option StageGroup :=
  match s.groups.find? (fun g => g.job == job && (g.weights.contains p.wcopy || g.weights.contains p.w || g.dws.contains p.dw)) with
  | some g => some g
  | none => s.jobGroup job 0x45

/-- The weights that a stage with stale weights goes on reading: copies of the bytes that an optimizer's step is about to write (R180). -/
def State.weightCopies (s : State) (g : StageGroup) (p : OptParams) : List (Nat × List Byte) :=
  if g.stale = 0 then []
  else ([p.w, p.wcopy].filter g.weights.contains).filterMap (fun id =>
    (s.tensor? g.job id).map (fun t => (t.p.base, s.bytes t.p.base t.bytes)))

/-- Checks of OPT_STEP: W, m and v are FP32 with scale 1.0 (R184). -/
def State.optChecks (s : State) (h : Cmd) (p : OptParams) : List Check :=
  let job := (s.entry h).jobId
  let flat := fun id => match s.tensor? job id with
    | some t => t.p.space != 3 && t.stored == fmtFP32 && t.scale == 0x3F800000
    | none => false
  let other := fun id => match s.tensor? job id with | some t => t.p.space != 3 && t.stored != fmtSpill | none => false
  let sc := fun id => match s.tensor? job id with | some t => s.scaleCheck t | none => none
  [s.jobCheck h, s.param h (flat p.w) 0, s.param h (flat p.m) 4, s.param h (flat p.v) 8, s.param h (other p.dw) 12,
   s.param h (other p.wcopy) 16, s.param h (decide (p.rnd ≤ 2)) 20, sc p.dw, sc p.wcopy,
   check (s.optGroup job p).isSome stNoResources 0]

/-- The tensors of an OPT_STEP. -/
def State.optCtx (s : State) (h : Cmd) (p : OptParams) : Except RdErr (Option (OptCtx × Tensor)) := do
  let job := (s.entry h).jobId
  match s.tensor? job p.w, s.tensor? job p.m, s.tensor? job p.v, s.tensor? job p.dw, s.tensor? job p.wcopy with
  | some w, some m, some v, some dw, some cp =>
    let x : OptCtx := { w := (← w.view s .plain 0), m := (← m.view s .plain 0), v := (← v.view s .plain 0)
                        dw := (← dw.view s .plain 0), copy := (← cp.view s .out p.rnd), gs := dw.scale }
    .ok (some (x, cp))
  | _, _, _, _, _ => .ok none

/-- The elements that an OPT_STEP updates: those that no mask freezes and that are not written yet. -/
def OptCtx.places (x : OptCtx) (s : State) (h : Cmd) (mask : Option Mask) : List (Nat × Nat) :=
  (Machine.places x.w.rEnd x.w.cEnd).filter (fun y => !maskFreezes mask s y.1 y.2 &&
    resumeAt (s.heldRects h 0x45) x.w.rEnd x.w.cEnd y.1 y.2 != .written)

/-- The writes of one of its outputs. -/
def optWrites (s : State) (strict : Bool) (v : View) (dr : Draws) (f : OptElem → Acc44) (es : List OptElem) :
    Except RdErr (List (Nat × List Byte) × StoreTally) :=
  let (ps, t) := convertAll strict v 0 dr (es.map (fun e => (e.r, e.c, f e)))
  (v.writesOf s ps).map (fun (w : List (Nat × List Byte) × Nat × Nat) => (w.1, t))

/-- The writes of m, v, W and the copy, with the flags of all and the copy's tally (R184, R209). -/
def OptCtx.writes (x : OptCtx) (s : State) (strict : Bool) (dr : Draws) (es : List OptElem) :
    Except RdErr (List (Nat × List Byte) × Nat × StoreTally) := do
  let none' : Draws := ⟨0, 0, 0, 0⟩
  let (a, t1) ← optWrites s strict x.m none' (·.m) es
  let (b, t2) ← optWrites s strict x.v none' (·.v) es
  let (c, t3) ← optWrites s strict x.w none' (·.w) es
  let (d, t4) ← optWrites s strict x.copy dr (·.w) es
  .ok (a ++ b ++ c ++ d, (es.map (·.flags)).foldl nfOr ([t1.flags, t2.flags, t3.flags, t4.flags].foldl nfOr 0), t4)

/-- Each Chamber of a group counts the elements that it has updated (R62, R217). -/
def OptCtx.count (x : OptCtx) (s : State) (strict : Bool) (dr : Draws) (cs : List Nat) (es : List OptElem) (s1 : State) : State :=
  let d := Division.alongM (ceilDiv x.w.rEnd 128)
  let parts := (cs.zipIdx.map (fun y => (y.1, es.filter (fun e => d.rank cs.length e.r e.c == y.2)))).filter (fun y => !y.2.isEmpty)
  let placed := parts.filterMap (fun y => match x.writes s strict dr y.2 with
    | .ok (ws, fl, t) => some ({ part := { v := x.copy, listed := 0, elems := [], chamber := y.1 }, placed := [], writes := ws, flags := fl, tally := t } : PlacedPart)
    | .error _ => none)
  s1.countParts placed

/-- OPT_STEP: every unfrozen element of W, m and v is updated, and the copy of w is stored under `RND` (R184, R209); a stage with
stale weights keeps what it read until then (R180); in a job of several members the state then goes to the buddy (R350). It waits
while a Chamber of its group is held. The flags of what it had updated before a save are not in the context: free (log 39). -/
def execOptStep (h : Cmd) (p : OptParams) (s : State) : Out :=
  let job := (s.entry h).jobId
  let s := s.refetchTensors job [p.w, p.m, p.v, p.dw]
  let strict := s.strict job
  let gr := s.optGroup job p
  s.run h (s.optChecks h p)
    (if !s.stageRuns gr then s
     else
     match s.optCtx h p, gr with
     | .error e, _ => s.rdStop h 0x45 e
     | .ok (some (x, cp)), some g =>
       match s.mask p.gmaskAddr x.w.rEnd x.w.cEnd with
       | .error e => s.rdStop h 0x45 e
       | .ok (.error d) => s.fail h stGmaskError (addrDetail + d)
       | .ok (.ok mask) =>
         match x.elems s strict (s.jobImage job) p (x.places s h mask) with
         | .error e => s.rdStop h 0x45 e
         | .ok es =>
           let dr := s.outDraws h cp p.stream
           match x.writes s strict dr es with
           | .error e => s.rdStop h 0x45 e
           | .ok (ws, fl, t) =>
             if t.idxRange then (x.count s strict dr g.chambers es s).fail h stIndexRange addrDetail
             else
               let old := (s.heldRects h 0x45).any Rect.written
               let (f, s1) := if old then s.takeFree else (0, s)
               let g' := { g with steps := g.steps + 1, copies := if g.stale = 0 then g.copies else s.weightCopies g p }
               let plans := g.elementPlans x.w.rEnd x.w.cEnd g.optimizer
               let s2 := x.count s strict dr g.chambers es (((s1.setGroup g').runPlans plans (s.stacksOf job 0 [p.w, p.m, p.v, p.dw])).storeAll ws)
               (s2.dropEntry h 0x45).mirror h p (nfOr fl f % 256)
     | _, _ => s.bad h 0)

/-! ### SAMPLE (R214 to R216, R218) -/

/-- A request header (R214). -/
structure SmpHeader where
  seed : Nat
  stream : Nat
  logits : Nat
  vocab : Nat
  fmt : Nat
  rows : Nat
  stride : Nat
  params : Nat
  results : Nat
deriving DecidableEq, Repr

def SmpHeader.of (bs : List Byte) : SmpHeader :=
  { seed := fieldLE bs 0 16, stream := fieldLE bs 16 8, logits := fieldLE bs 24 8, vocab := fieldLE bs 32 4, fmt := fieldLE bs 36 1
    rows := fieldLE bs 38 2, stride := fieldLE bs 40 8, params := fieldLE bs 48 8, results := fieldLE bs 56 8 }

/-- The limits of the header (R214). -/
def smpHeaderOk (bs : List Byte) : Bool :=
  let h := SmpHeader.of bs
  decide (1 ≤ h.vocab) && decide (h.vocab ≤ 2 ^ 20) && (h.fmt == fmtLNS16 || h.fmt == fmtBF16 || h.fmt == fmtFP32) &&
    zeroLE bs 37 1 && decide (1 ≤ h.rows) && h.stride % 64 == 0 && h.results % 16 == 0

/-- A row record (R214). -/
structure SmpRow where
  seqId : Nat
  position : Nat
  invTemp : Nat
  topP : Nat
  topK : Nat
deriving DecidableEq, Repr

def SmpRow.of (bs : List Byte) : SmpRow :=
  { seqId := fieldLE bs 0 4, position := fieldLE bs 4 4, invTemp := fieldLE bs 8 4, topP := fieldLE bs 12 4, topK := fieldLE bs 16 2 }

/-- The limits of a row record (R214): `INV_TEMP` is positive and finite, or +0. -/
def smpRowOk (bs : List Byte) : Bool :=
  let r := SmpRow.of bs
  let finite := fun c => fpClass fmtFP32 fpFP32 c != .inf && fpClass fmtFP32 fpFP32 c != .nan && !bit c 31
  decide (r.seqId < 2 ^ 24) && finite r.invTemp && finite r.topP && !(fp32 r.topP).isZero && (fp32 r.topP).le (Num.ofInt 1) &&
    decide (1 ≤ r.topK) && decide (r.topK ≤ 4096) && zeroLE bs 18 14

/-- The value of a logit as the sampler takes it, none for an excluded entry (R215 step 1). -/
def logitValue (fmt code : Nat) : Option Num :=
  if fmt = fmtLNS16 then (if code = 0xC000 then none else some (codeValue fmt code))
  else
    match codeValue fmt code with
    | .nan => none
    | .inf true => none
    | .inf false => some (fp32 0x7F7FFFFF)
    | x => if x.cmp (fp32 0xFF7FFFFF) = some .eq then none else some x

/-- The included entries of a row: index and value. -/
def smpEntries (s : State) (h : SmpHeader) (row : Nat) : List (Nat × Num) :=
  let e := fmtBytes h.fmt
  (List.range h.vocab).filterMap (fun i =>
    (logitValue h.fmt (s.num (h.logits + row * h.stride + i * e) e)).map (fun x => (i, x)))

/-- Entry a goes before entry b: larger value, then lower index (R215). -/
def smpBefore (a b : Nat × Num) : Bool := b.2.lt a.2 || (!a.2.lt b.2 && decide (a.1 < b.1))

/-- Entries in order. -/
def smpSort (xs : List (Nat × Num)) : List (Nat × Num) := xs.mergeSort (fun a b => !smpBefore b a)

/-- A result's 16 bytes (R214). -/
def smpResult (token kept flags prob cand : Nat) : List Byte :=
  bytesLE 4 token ++ bytesLE 2 kept ++ bytesLE 2 flags ++ bytesLE 4 prob ++ bytesLE 4 cand

/-- Weights of the candidates and their running sums, in order (R215 step 5). -/
def smpSums (img : SfBank) (z1 : Num) : Acc44 → List (Nat × Num) → List (Nat × Acc44 × Acc44)
  | _, [] => []
  | sum, (i, z) :: xs =>
    let w := (sfEval img false 1 (accRound false (z.sub z1)).1).value
    let sum' := (accRound false ((accNum sum).add (accNum w))).1
    (i, w, sum') :: smpSums img z1 sum' xs

/-- The draw among candidates (R215 steps 6 to 8): the result of a row. -/
def smpDraw (topP u : Nat) (limited : Bool) (cs : List (Nat × Acc44 × Acc44)) : List Byte :=
  let last := (cs.getLastD (0, accZero, accZero)).2.2
  let cut := (accRound false ((fp32 topP).mul (accNum last))).1
  let m := (match cs.findIdx? (fun c => !(accNum c.2.2).lt (accNum cut)) with | some i => i + 1 | none => cs.length)
  let kept := cs.take m
  let sm := (kept.getLastD (0, accZero, accZero)).2.2
  let hh := (accRound false ((Num.fin false u (-33)).mul (accNum sm))).1
  let (i, w, _) := (kept.find? (fun c => (accNum hh).lt (accNum c.2.2))).getD (kept.getLastD (0, accZero, accZero))
  smpResult i m (if limited then 8 else 0) (toFP32 ((accNum w).div (accNum sm))) cs.length

/-- The result of a row (R215), and whether it carries `PARAM_ERR`. -/
def smpRow (s : State) (img : SfBank) (gen : Nat) (h : SmpHeader) (row : Nat) : List Byte × Bool :=
  let bs := s.bytes (h.params + 32 * row) 32
  let r := SmpRow.of bs
  if !smpRowOk bs then (smpResult 0 0 4 0 0, true)
  else
    let es := smpEntries s h row
    if es.isEmpty then (smpResult 0 0 2 0 0, false)
    else if (fp32 r.invTemp).isZero then (smpResult ((smpSort es).headD (0, Num.zero)).1 1 1 0x3F800000 1, false)
    else
      let zs := smpSort (es.map (fun e => (e.1, accNum (accRound false (e.2.mul (fp32 r.invTemp))).1)))
      let cs := smpSums img (zs.headD (0, Num.zero)).2 accZero (zs.take r.topK)
      let w0 := elemWord gen h.seed h.stream (r.seqId * 2 ^ 32 + r.position) 0
      (smpDraw r.topP (bits w0 127 95) (decide (r.topK < zs.length)) cs, false)

/-- Rows that took a third pass: open where a row has more included entries than the candidate buffer (log 32). -/
def smpRefines (s : State) (h : SmpHeader) : Nat :=
  ((List.range h.rows).filter (fun r => decide (16384 < (smpEntries s h r).length) && Config.free (s.fresh + r) % 2 == 1)).length

/-- A Gallery's sampler takes requests: neither the Gallery nor its die is held (R14, R15). -/
def State.samplerRuns (s : State) (g : Nat) : Bool := !s.held (.gallery g) && !s.held (.die (g / 4))

/-- The Gallery of a request: the one named, or, where the command leaves it open, the first that runs from a free value on. -/
def State.samplerOf (s : State) (gallery : Nat) : Nat :=
  if gallery ≠ 0xFF then gallery
  else
    let n := Config.free s.fresh % 32
    (((List.range 32).map (fun i => (n + i) % 32)).find? s.samplerRuns).getD n

/-- SAMPLE: the request runs on a Gallery's sampler, and waits while that is held. -/
def execSample (h : Cmd) (reqAddr gallery : Nat) (s : State) : Out :=
  let pick := s.samplerOf gallery
  let s0 := if gallery = 0xFF then { s with fresh := s.fresh + 1 } else s
  let bs := s0.bytes reqAddr 64
  let q := SmpHeader.of bs
  let n := q.vocab * fmtBytes q.fmt
  let reads := (q.params, 32 * q.rows) :: (List.range q.rows).map (fun r => (q.logits + r * q.stride, n))
  let (job, gen) := match s.jobOf h with | some j => (j.id, j.generator) | none => (0, 0)
  let img := s.jobImage job
  s.run h [s.jobCheck h, s.param h (decide (gallery ≤ 31) || gallery == 0xFF) 8]
    (if !s.samplerRuns pick then s
     else if !s0.hostRange reqAddr 64 then s0.addrFail h reqAddr
     else if s0.poisoned reqAddr 64 then (s0.flag .glSmpUncorr pick).rdStop h 0x44 (s0.poisonErr reqAddr 64)
     else if !smpHeaderOk bs then (s0.flag .glSmpHdrErr pick).fail h stSamplerHeader pick
     else
       match reads.find? (fun x => !s0.hostRange x.1 x.2), reads.find? (fun x => s0.poisoned x.1 x.2) with
       | some x, _ => s0.addrFail h x.1
       | none, some x => (s0.flag .glSmpUncorr pick).rdStop h 0x44 (s0.poisonErr x.1 x.2)
       | none, none =>
         if !s0.hostRange q.results (16 * q.rows) then s0.addrFail h q.results
         else
           let out := (List.range q.rows).map (smpRow s0 img gen q)
           let bad := out.any (·.2)
           let s1 := reads.foldl (fun s x => s.readRange (some pick) clsCompute false x.1 x.2) (s0.openBump .glDripReads pick 1)
           let s1 := (s1.put .glSmpMode pick img.kind).store q.results (out.flatMap (·.1)) (some pick) clsCompute
           let s1 := (s1.bump .glSmpRows pick q.rows).bump .glSmpRefine pick (smpRefines s0 q)
           let s1 := if bad then s1.flag .glSmpRowErr pick else s1
           ({ s1 with fresh := s1.fresh + q.rows }).complete h { result := q.rows, flags := if bad then 8 else 0 })

end Sys2Proof.Machine
end

