-- ==== Sys2Proof/Machine/Recovery.lean ====
section
/-!
DEFINITION. Recoveries: their start and end with the error record, replay of a strand from its last boundary, refolding of
stage groups, and the events of the memories: patrol scrub, failed channels, withdrawn stacks and refetching (R237, R238,
R240, R241, R332 to R343, R347 to R349).
-/
namespace Sys2Proof.Machine

/-! ### Recoveries (R332, R347, R348, R355) -/

/-- The recovery of a unit that has not resumed. -/
def State.recovery? (s : State) (cls unit : Nat) : Option Recovery := s.recoveries.find? (fun r => r.cls == cls && r.unit == unit)

/-- A recovery starts, or starts again from its stop phase (R347). -/
def State.beginRecovery (s : State) (cls unit : Nat) (strands : List (Nat × Nat) := []) : State :=
  let old := match s.recovery? cls unit with | some r => r.strands | none => []
  let tried := match s.recovery? cls unit with | some r => r.tried | none => false
  let others := s.recoveries.filter (fun (r : Recovery) => !(r.cls == cls && r.unit == unit))
  let r : Recovery := ⟨cls, unit, s.now, (old ++ strands).eraseDups, tried⟩
  { s with recoveries := others ++ [r] }.flag .modRecovering 0

/-- A recovery resumes or is given up: its error record and the counters of R355. -/
def State.endRecovery (s : State) (r : Recovery) (e : ErrRecord) : State :=
  let s := s.errRecord { e with cls := r.cls, stopTs := r.stopTs, resumeTs := s.now } r.stopTs
  let left := s.recoveries.filter (fun (x : Recovery) => !(x.cls == r.cls && x.unit == r.unit))
  let s := { s with recoveries := left }.put .modRecovering 0 (if left.isEmpty then 0 else 1)
  (s.bump .modRecoveries 0 1).put .modRecoveryMax 0 (max (s.reg .modRecoveryMax 0) (s.now - r.stopTs))

/-- A fault that is declared and recovered in one step. -/
def State.recoverNow (s : State) (e : ErrRecord) : State :=
  let s := s.beginRecovery e.cls e.unit
  s.endRecovery ⟨e.cls, e.unit, s.now, [], false⟩ e

/-! ### Replay (R334 to R336) -/

/-- The row statistics of a save area (R335). -/
def State.savedRows (s : State) (c i : Nat) : List RsRow :=
  let base := canonAddr c (s.reg .chRssaveBase c i)
  (List.range 128).map (fun r => rsRestore (s.bytes (base + 32 * r) 32))

/-- A strand loses what it held inside the Facet: banks, tiles and watches. -/
def State.dropInside (s : State) (c i : Nat) : State :=
  let s := s.releaseBanks c i
  let s := s.modChamber c (fun x => { x with store := x.store.filter (fun t => !(t.strand == i)), driver := none, operand := none, tail := none })
  let g := galleryOf (s.strand c i).waitAddr
  s.modGallery g (fun x => { x with watches := x.watches.filter (fun w => !(w.2.2.1 == c && w.2.2.2 == i)) })

/-- A live strand as it stands at its last boundary, or at its start where it has reached none. -/
def Strand.rewound (t : Strand) (rows : List RsRow) : Strand :=
  { t with
    binds := match t.boundary with | some (_, _, _, bs) => bs | none => []
    rs := match t.boundary with | some (_, _, true, _) => rows | _ => List.replicate 128 {}
    runs := [], emit := [], nest := none, feedA := [], feedB := [], vload := none, amax := 0, ended := false, timedOut := false, stopped := false }

/-- `NEST_RESUME` of a replay whose next word is a NEST: `BOUNDARY_NO` less the base that the NEST's boundary numbers count from
(R136, R334). -/
def State.nestPast (s : State) (c i pc : Nat) : Nat :=
  let w := s.progWord c i pc
  if w % 256 = 0x61 then s.reg .chLastBoundary c i - (NestDesc.of (s.descBytes c i (bits w 15 8))).bndNoBase else 0

/-- A strand replays (R334): lengths, `NEST_RESUME`, row statistics and `SIG_SKIP`, then its program is admitted again with `PC`
at the record's next word. A fault during a replay still passes over every SIGNAL already added (R336). -/
def State.replayStrand (s : State) (c i : Nat) : State :=
  let st := s.reg .chState c i
  if st = psEmpty || st = psDone || st = psRefused then s
  else
    let t := s.strand c i
    let rows := s.savedRows c i
    let s := (s.dropInside c i).modStrand c i (fun t => t.rewound rows)
    let (pc, lens) := match t.boundary with | some (pc, lens, _, _) => (pc, lens) | none => (0, s.lens c)
    let s := (List.range 16).foldl (fun s n => s.setReg .chLen c n (lens.getD n 0)) s
    let resume := if t.boundary.isSome then s.nestPast c i pc else 0
    let s := (s.setReg .chNestResume c i resume).setReg .chNestActive c i 0
    let s := (s.setReg .chSigSkip c i (s.reg .chSigSkip c i + s.reg .chSigSinceBnd c i)).setReg .chSigSinceBnd c i 0
    let s := ((s.setReg .chState c i psAdmitting).setReg .chPc c i pc).setReg .chWaitCtr c i 0
    let s := ((s.syncWrites c).syncFeed c).bump .chReplays c 1
    let s := match t.cmd with | some h => s.markRecovered h | none => s
    (s.admitScan c i).switchPoint c

/-- Every live strand of a Chamber replays. -/
def State.replayChamber (s : State) (c : Nat) : State := (List.range 4).foldl (fun s i => s.replayStrand c i) s

/-! ### Refolding (R148, R150, R339, R340) -/

/-- The next Gallery of a die, in the placement order of R150, with Chambers and Pocket for a stage that is left without (R339). -/
def State.nextGallery (s : State) (x : StageGroup) (g : Nat) : List Nat :=
  (((placesAfter g).take 4).drop 1).findSome? (fun k =>
    let cs := s.freeChambers x.job x.stageId k
    if cs.isEmpty then none else some cs) |>.getD []

/-- A stage's forward work divided anew among the Chambers that it has now, in folded form; a slice that no longer fits is streamed
(R147, R148, R339). The other programs of the stage end with their Chambers. -/
def State.refoldPlans (s : State) (x : StageGroup) : State :=
  let s := { s with plans := s.plans.filter (fun p => !(p.job == x.job && p.stageId == x.stageId)) }
  match x.op with
  | none => s.setGroup x
  | some o =>
    let (x', ps) := s.forwardPlans x o true
    (s.setGroup x').setPlans ps

/-- A command that a fault ends: `FAULT` with the index of the record that is about to be written (R348). -/
def State.faultEnds (s : State) (hs : List Cmd) : State :=
  let n := s.reg .modErrCount 0
  hs.foldl (fun s h => if s.isOut h then s.stopCommand h stFault n else s) s

/-- Commands whose programs run on a Chamber. -/
def State.chamberCmds (s : State) (c : Nat) : List Cmd := (List.range 4).filterMap (fun i => (s.strand c i).cmd)

/-- Commands that wait in a thin batch of a stage. -/
def State.stageCmds (s : State) (job stage : Nat) : List Cmd :=
  (s.batches.filter (fun b => b.job == job)).flatMap (fun b => (b.members.filter (fun m => m.2.stageId == stage)).map (·.1))

/-- The stage groups lose Chambers; a group left with none goes to the next Gallery of the die, and a stage without any room
loses its commands (R339). -/
def State.refold (s : State) (g : Nat) (gone : List Nat) : State :=
  s.groups.foldl (fun s x =>
    if x.chambers.any gone.contains then
      let left := x.chambers.filter (fun c => !gone.contains c)
      let cs := if left.isEmpty then s.nextGallery x g else left
      let s := s.refoldPlans { x with chambers := cs }
      if cs.isEmpty then s.faultEnds (s.stageCmds x.job x.stageId) else s
    else s) s

/-- Chambers leave service or their stages: the programs that run there end, since no rule folds a program that the host has
written (log 42), and the groups are folded anew. Answers the commands that ended. -/
def State.vacate (s : State) (g : Nat) (cs : List Nat) : State × List Cmd :=
  let hs := (cs.flatMap s.chamberCmds).eraseDups
  let s := s.faultEnds hs
  let s := cs.foldl (fun s c => (List.range 4).foldl (fun s i => s.abort c i) s) s
  (s.refold g cs, hs)

/-- The job of a command, 0 where it has none. -/
def State.jobIdOf (s : State) (hs : List Cmd) : Nat := match hs with | h :: _ => (s.entry h).jobId | [] => 0

/-! ### The patrol scrub (R236 to R238) -/

/-- The control complex retires the block of each row segment that has reached the limit of corrected reads in the last 24
hours (R238). -/
def State.retireCorrected (s : State) (k : Nat) : State :=
  let recent := (s.gallery k).corrected.filter (fun e => decide (s.now < e.2.2 + dayTicks))
  let due := (recent.filter (fun x => decide (s.reg .hbmRetCeLimit k ≤ (recent.filter (fun e => e.1 == x.1)).length))).map (·.2.1)
  due.eraseDups.foldl (fun s b => s.retireBlock b 1) s

/-- A corrected read of an HBM line that a scrub made: counted, and its block retired once the row segment has reached the limit
(R238). -/
def State.correctedRead (s : State) (k a : Nat) : State := (s.corrRead a).retireCorrected k

/-- An uncorrectable word that a scrub found: marked, recorded and reported. -/
def State.scrubUncorr (s : State) (cls g a n : Nat) : State := (((s.markPoison a n).memUncorr a).raise cls g evUncorr [4, 0, a])

/-- HBM_PATROL_SCRUB: what the patrol found in the stack and in the Gallery memory of a Gallery, by module address. How many lines it
has read since the row before is a free value; their requests are management (R224, R237, R244; log 118). -/
def execHbmPatrolScrub (g : Nat) (stack gallery : ScrubFindings) (odCorr : Nat) (odSevere passDone : Bool) (s : State) : Out :=
  let mine := fun (l : List Nat) => l.filter (fun a => decide (regionOf a = some .hbm) && a / hbmWindow == g && s.mapped a 1)
  let local' := fun (l : List Nat) => l.filter (fun a => decide (regionOf a = some .gallery) && galleryOf a == g && s.mapped a 1)
  let s :=
    if s.reg .hbmScrubPeriod g = 0 then s
    else
      let (f, s) := s.takeFree
      let s := (s.request g clsManagement f).bump .hbmReadBytes g (256 * f)
      let s := (mine stack.corrected).foldl (fun s a => s.correctedRead g a) s
      let s := (mine stack.uncorrectable).foldl (fun s a => s.scrubUncorr 3 g (a / 32 * 32) 32) s
      if passDone then s.bump .hbmScrubPasses g 1 else s
  let s := s.bumpSat .hbmOdeccCorr g odCorr
  let s := if odSevere then s.flag .hbmOdeccSevere g else s
  let s := s.bumpSat .glGmCorr g (local' gallery.corrected).length
  .next ((local' gallery.uncorrectable).foldl (fun s a => s.scrubUncorr 1 g (a / 8 * 8) 8) s)

/-! ### Failed channels and withdrawn stacks (R240, R241, R343) -/

/-- Blocks of a stack that are allocated. -/
def State.allocBlocks (s : State) (stack : Nat) : List Nat :=
  ((s.allocs.filter (fun x => x.1 / hbmWindow == stack && decide (x.1 < hbmTop))).flatMap (fun x =>
    (List.range (ceilDiv x.2 65536)).map (fun i => x.1 / 65536 + i))).eraseDups

/-- A channel is declared failed: the stack is narrowed; what the redirected lines of every lower block held is lost, and every such block is to be
refetched, with those of the withdrawn region that held allocated data. A second channel is declared too, and its stack is to be
withdrawn. -/
def State.channelFails (s : State) (stack channel : Nat) : State :=
  if s.withdrawn.contains stack || (s.reg .hbmNarrowed stack = 1 && s.reg .hbmFailedCh stack = channel % 32) then s
  else
    let s := s.flag .hbmFail stack
    let s := s.log 5 stack 0x0703 (bytesLE 8 (stack * hbmWindow) ++ [2])
    let s := (s.retireEntry stack (stack % 32 * 32 + channel % 32) 2).hostEvent 1
    if s.reg .hbmNarrowed stack = 1 then s.raise 3 stack evOther [channel]
    else
      let high := (s.allocBlocks stack).filter (fun b => decide (stackFitted / 65536 * 31 / 32 ≤ b % 0x100000))
      let s := (s.flag .hbmNarrowed stack).put .hbmFailedCh stack channel
      let s := { s with lost := (stack, { channel := channel % 32 }) :: s.lost }
      let s := s.modGallery stack (fun x => { x with refetch := (x.refetch ++ high).eraseDups })
      s.recoverNow { origin := s.origin 5 stack, cls := 4, action := 4, outcome := 0, stopTs := 0, resumeTs := 0, unit := stack }

/-- CHANNEL_FAILURE. -/
def execChannelFailure (stack channel : Nat) (s : State) : Out := .next (s.channelFails stack channel)

/-- STACK_WITHDRAWAL: the whole stack leaves service, with every allocated block marked (R343). -/
def execStackWithdrawal (stack : Nat) (s : State) : Out :=
  if s.withdrawn.contains stack || s.reg .hbmNarrowed stack = 0 then .next s
  else
    let blocks := s.allocBlocks stack
    let s := { s with withdrawn := stack :: s.withdrawn }.put .hbmStackOnline stack 0
    let s := s.modGallery stack (fun x => { x with refetch := (x.refetch ++ blocks).eraseDups })
    let s := (s.log 5 stack 0x0703 (bytesLE 8 (stack * hbmWindow) ++ [2])).hostEvent 1
    .next (s.recoverNow { origin := s.origin 5 stack, cls := 5, action := 5, outcome := 0, stopTs := 0, resumeTs := 0, unit := stack })

/-- REFETCH: a marked block is fetched again from the sources of R342, and its bit is cleared. -/
def execRefetch (block : Nat) (s : State) : Out :=
  .next (s.refetchBlock block)

end Sys2Proof.Machine
end

