-- ==== Sys2Proof/Machine/Faults.lean ====
section
/-!
DEFINITION. Faults as the control tree sees them: escalated events, the recoveries of Chambers, Galleries, memory data, ports
and die-to-die links, waits that time out, and the loss of a module (R20, R330 to R351).
-/
namespace Sys2Proof.Machine

/-! ### Command errors of a strand (R87, R103, R259, R331) -/

/-- A strand's error ends its command with the flags as they stand; its strand is aborted (R105, R331). -/
def State.strandEnds (s : State) (c i status detail : Nat) : State :=
  match (s.strand c i).cmd with
  | none => s
  | some h => if s.isOut h then s.stopCommand h status detail else s.dropWork h

/-- The bits of a register that hold a list of one-bit fields from bit 0 up. -/
def State.fieldBits (s : State) (u : Nat) (fs : List Field) : Nat :=
  (fs.zip (List.range fs.length)).foldl (fun n x => n + s.reg x.1 u * 2 ^ x.2) 0

/-- A refusal at admission ends the command and leaves the strand REFUSED (R98, R259). -/
def State.refusalEnds (s : State) (c i code : Nat) : State :=
  match (s.strand c i).cmd with
  | none => s
  | some h =>
    let d := code % 256 + s.reg .chRefuseWord c i % 65536 * 2 ^ 8 + c % 256 * 2 ^ 24
    (s.modStrand c i (fun t => { t with cmd := none })).finish h { status := stProgramRefused, detail := d }

/-- A strand of a Chamber under recovery counts up a counter: its counter table names it. -/
def State.producerRecovers (s : State) (a : Nat) : Bool :=
  let down := s.recoveries.flatMap (fun r => if r.cls = 1 then [r.unit] else if r.cls = 2 || r.cls = 8 then
    (List.range 8).map (fun i => 8 * r.unit + i) else [])
  down.any (fun c => (List.range 4).any (fun i =>
    (List.range (s.strand c i).ctrCount).any (fun n => s.ctrAddr c i n == a)))

/-- A WAIT that timed out (R346): left pending while its counter's producer recovers on this module or belongs to a lost one,
else the command completes and the fault is recorded (R348). -/
def State.waitEnds (s : State) (c i ctr : Nat) : State :=
  let t := s.strand c i
  let lost := match s.job? t.job with | some j => j.loss.isSome | none => false
  if s.producerRecovers t.waitAddr || lost then s.modStrand c i (fun t => { t with timedOut := false, waitSince := s.now })
  else
    -- `OUTCOME` names no such end: a free value
    let (o, s) := s.takeFree
    let e : ErrRecord := { origin := s.origin 0 c, cls := 9, action := 0, outcome := o % 3, stopTs := s.now, resumeTs := 0, unit := c
                           job := t.job, aux := s.reg .chLastBoundary c i }
    (s.strandEnds c i stWaitTimeout (ctr % 256 + c * 256)).errRecord e s.now

/-! ### Chamber and Gallery faults (R330, R338 to R341) -/

/-- The keeper's hold on a Gallery, and its recovery. -/
def State.galleryFails (s : State) (g : Nat) : State := (s.stop .keeper (.gallery g) true).beginRecovery 2 g

/-- A fault of class 0x01: the steward stops the Chamber, and a second fault in the Gallery within 1 ms is a Gallery fault. -/
def State.chamberFails (s : State) (c i : Nat) : State :=
  let g := c / 8
  let recent := (s.gallery g).chamberFaults.filter (fun t => decide (s.now ≤ t + 2000000))
  let s := s.modGallery g (fun x => { x with chamberFaults := s.now :: recent })
  let s := (s.stop .steward (.chamber c) true).beginRecovery 1 c (if i < 4 then [(c, i)] else [])
  if recent.isEmpty then s else s.galleryFails g

/-- A fault of class 0x03: the recovery of the line, with the strand that read it, whose Chamber the steward stops. -/
def State.lineFails (s : State) (c i a : Nat) (strand : Bool) : State :=
  if strand then (s.stop .steward (.chamber c) true).beginRecovery 3 (a / 64 * 64) [(c, i)] else s.beginRecovery 3 (a / 64 * 64)

/-- An uncorrectable read of memory: of a Pocket it is the Chamber's fault, else the memory's. -/
def State.readFails (s : State) (c i a : Nat) (strand : Bool) : State :=
  if regionOf a = some .pocket then s.chamberFails ((a - pocketBase) / pocketWindow) (if strand then i else 4)
  else s.lineFails c i a strand

/-! ### Ports (R330, R344, R351) -/

/-- Modules of the partition (R282). -/
def State.partition (s : State) : List Nat :=
  (List.range (s.extent 0)).flatMap (fun x => (List.range (s.extent 1)).flatMap (fun y =>
    (List.range (s.extent 2)).map (fun z => 4096 * x + 64 * y + z)))

/-- The module at a port of a module, none where the axis ends there. -/
def State.beyond (s : State) (m p : Nat) : Option Nat :=
  let axis := p / 2
  let n := s.extent axis
  let c := coordOf m axis
  let unit := 2 ^ (12 - 6 * axis)
  let at' := fun k => m - c * unit + k * unit
  if n ≤ 1 then none
  else if p % 2 = 0 then (if c + 1 < n then some (at' (c + 1)) else if s.wraps axis then some (at' 0) else none)
  else if 0 < c then some (at' (c - 1)) else if s.wraps axis then some (at' (n - 1)) else none

/-- Ports of other modules that face a module, as 8 × module + port. -/
def State.facing (s : State) (m : Nat) : List Nat :=
  (List.range 6).filterMap (fun p => (s.beyond m p).map (fun n => 8 * n + (p / 2 * 2 + (1 - p % 2))))

/-- Every port that faces a module has failed, within 1 ms of one another (R351). -/
def State.cutOff (s : State) (m : Nat) : Bool :=
  let times := (s.facing m).map (fun k => tget 0 s.portsFailedAt k)
  !times.isEmpty && times.all (· != 0) && decide (times.foldl max 0 ≤ times.foldl min (times.headD 0) + 2000000)

/-- Missing links of the ring of an axis through this module (R344): the links between neighbours whose port has failed. -/
def State.missingOnRing (s : State) (axis : Nat) : List Nat :=
  let n := s.extent axis
  let c0 := coordOf s.self axis
  let unit := 2 ^ (12 - 6 * axis)
  (List.range n).filter (fun c =>
    let m := s.self - c0 * unit + c * unit
    let up := tget 0 s.portsFailedAt (8 * m + 2 * axis)
    let down := tget 0 s.portsFailedAt (8 * (s.self - c0 * unit + (c + 1) % n * unit) + 2 * axis + 1)
    up != 0 || down != 0)

/-- A ring with a second missing link is reported to the host: a port event and a log entry (R344; log 44). -/
def State.ringReport (s : State) (axis : Nat) : State :=
  if (s.missingOnRing axis).length < 2 then s else (s.log 3 0 0x0502 (bytesLE 1 axis ++ bytesLE 3 s.self)).hostEvent 3

/-! ### Loss of a module (R351) -/

/-- The job that a management packet belongs to: its tag, and a rank map that holds the sender. -/
def State.mgmtJob (s : State) (k : MgmtPacket) : Option Job :=
  s.jobs.find? (fun j => j.tag % 4096 == k.tag % 4096 && j.ranks.contains k.src)

/-- The error record of a lost rank. -/
def State.lossRecord (s : State) (j : Job) (ts detect rank step : Nat) : ErrRecord :=
  { origin := s.origin 3 0, cls := 0x0A, action := 9, outcome := 1, stopTs := ts, resumeTs := 0, addr := j.ranks.getD rank 0
    unit := rank, job := j.id, aux := step, rank := detect }

/-- A loss record is kept where it is the smallest by `TS` and then `DETECT_RANK`. -/
def State.keepLoss (s : State) (id ts detect rank step : Nat) : State :=
  match s.job? id with
  | none => s
  | some j =>
    let smaller := match j.loss with | none => true | some (t, d, _, _) => decide (ts < t) || (ts == t && decide (detect < d))
    if !smaller then s else ((s.modJob id (fun j => { j with loss := some (ts, detect, rank, step) })).flag .modLossSeen 0).hostEvent 5

/-- This member declares a rank lost: LOSS to every other member, with the record as payload. -/
def State.declareLoss (s : State) (j : Job) (rank step : Nat) : State :=
  let bs := (s.lossRecord j s.now j.rank rank step).bytes s.now
  let others := j.ranks.filter (· != s.self)
  (others.foldl (fun s m => s.sendMgmt m j.tag 3 j.id bs) s).keepLoss j.id s.now j.rank rank step

/-- The restart step that a member knows of an owner: the step of its last commit here, else a free value. -/
def State.restartStep (s : State) (owner : Nat) : Nat × State :=
  match (s.mirrors.filter (fun m => m.owner == owner)).map (·.step) with
  | [] => s.takeFree
  | ms => (ms.foldl max 0, s)

/-- Members that failed ports have cut off are declared lost (R351). -/
def State.lossByPorts (s : State) (m : Nat) : State :=
  if m = s.self || !s.cutOff m then s
  else
    s.jobs.foldl (fun s j =>
      if j.ranks.contains m && j.ranks.contains s.self && j.loss.isNone then
        let (step, s) := s.restartStep m
        s.declareLoss j (j.ranks.idxOf m) step
      else s) s

/-- A failed port of this module at the control complex: LINK_DOWN to every other module of the partition, its error record, with
which `PORT_FAILED` is cleared (R349), and what it tells of its ring and of the module beyond it (R330, R344, R351). -/
def State.portFails (s : State) (p : Nat) : State :=
  let s := if s.reg .fabAddrValid 0 = 0 then s
    else (s.partition.filter (· != s.self)).foldl (fun s m => s.sendMgmt m 0 4 0 (bytesLE 4 s.self ++ bytesLE 1 p)) s
  let s := (s.recoverNow { origin := s.origin 4 p, cls := 6, action := 6, outcome := 0, stopTs := 0, resumeTs := 0, unit := p }).put
    .portPortFailed p 0
  let s := s.ringReport (p / 2)
  match s.beyond s.self p with
  | some m => s.lossByPorts m
  | none => s

/-! ### Escalation (R20, R324, R330, R346) -/

/-- An event of a Chamber at the control complex. -/
def State.chamberEvent (s : State) (e : Event) : State :=
  let c := e.unit
  let i := e.info.getD 0 4
  let x := e.info.getD 2 0
  let d := c % 256 * 256
  if e.kind = evAddrErr then s.strandEnds c i stAddressError d
  else if e.kind = evPage then s.strandEnds c i stPageError (d + (s.pageErrBits c ||| x % 128))
  else if e.kind = evGeom || e.kind = evFlow then s.strandEnds c i stGeometryError (d + s.fieldBits c [.chGeomErr, .chFsErr])
  else if e.kind = evIdxRange then s.strandEnds c i stIndexRange d
  else if e.kind = evFacetWord then
    s.strandEnds c i stFacetWord (d + s.fieldBits c [.chCheckFail, .chPoison, .chOrderErr, .chBankErr, .chPairErr, .chTagErr])
  else if e.kind = evAdmitRefused then s.refusalEnds c i x
  else if e.kind = evGmask then s.strandEnds c i stGmaskError (d + s.fieldBits c [.chGmaskRecErr, .chGmaskRange, .chGmaskBusy])
  else if e.kind = evWaitTimeout then s.waitEnds c i x
  else if e.kind = evCheckFail || e.kind = evTable then s.chamberFails c i
  else if e.kind = evUncorr || e.kind = evPoison then s.readFails c i x (decide (i < 4))
  else s

/-- What an event does where it arrives. -/
def State.arrive (s : State) (e : Event) : State :=
  if e.cls = 0 then s.chamberEvent e
  else if (e.cls = 1 || e.cls = 3) && e.kind = evUncorr then s.readFails 0 4 (e.info.getD 2 0) false
  else if e.cls = 3 && e.kind = evChannel then s.channelFails e.unit (e.info.getD 0 0)
  else if e.cls = 4 then s.portFails e.unit
  else s

/-- EVENT_ESCALATION: an event that a unit has raised passes up to the control complex. -/
def execEventEscalation (fromClass fromUnit kind ts : Nat) (s : State) : Out :=
  match s.events.find? (fun e => e.cls == fromClass && e.unit == fromUnit && e.kind == kind && e.ts == ts) with
  | none => .next s
  | some e => .next ({ s with events := s.events.erase e }.arrive e)

/-! ### Recoveries -/

/-- A second Chamber fault within the window retires the Chamber (R338). A second is 2 × 10⁹ ticks. -/
def State.repeatFault (s : State) (c : Nat) : Bool :=
  let p := (s.chamber c).prevFault
  p != 0 && decide (s.reg .chLastFaultTs c ≤ p + s.reg .modRetireWindow 0 * 2000000000)

/-- Error bits that a Chamber's recovery clears (R349). -/
def faultBits : List Field := [.chCheckFail, .chPoison, .chPocketUncorr, .chTableUncorr]

/-- The holds of a fault go: the steward's, and `OWN_HOLD` by the restart (R14, R83). -/
def State.releaseChamber (s : State) (c : Nat) : State :=
  (faultBits.foldl (fun s f => s.put f c 0) ((s.start .steward (.chamber c)).restart .steward (.chamber c)))

/-- CHAMBER_FAULT_RECOVERY (R117, R338, R339): replay in place once the Pocket's words and the table image have been loaded again,
or retirement. -/
def execChamberFaultRecovery (c : Nat) (s : State) : Out :=
  match s.recovery? 1 c with
  | none => .next s
  | some r =>
    let hs := s.chamberCmds c
    let i := (r.strands.headD (c, 0)).2
    let e : ErrRecord := { origin := s.origin 0 c, cls := 1, action := 1, outcome := 0, stopTs := 0, resumeTs := 0, unit := c
                           job := s.jobIdOf hs, aux := s.reg .chLastBoundary c i }
    if s.repeatFault c then
      let (s, ended) := (s.retireChamber c).vacate (c / 8) [c]
      .next (s.endRecovery r { e with action := 2, outcome := if ended.isEmpty then 0 else 1 })
    else
      let lo := (pocketBase + c * pocketWindow) / 64
      let s := { s with poison := s.poison.filter (fun x => decide (x.1 < lo) || decide (lo + pocketWindow / 64 ≤ x.1)) }
      let s := s.modChamber c (fun x => { x with sf0 := x.sf0.map (fun b => { b with bad := false }), sf1 := x.sf1.map (fun b => { b with bad := false }) })
      .next (((s.replayChamber c).releaseChamber c).endRecovery r e)

/-- GALLERY_HEARTBEAT_MISS (R330). -/
def execGalleryHeartbeatMiss (g : Nat) (s : State) : Out := .next (s.galleryFails g)

/-- Chambers of a Gallery. -/
def chambersOf (g : Nat) : List Nat := (List.range 8).map (fun i => 8 * g + i)

/-- GALLERY_FAULT (R340): the keeper's hold, retirement of all eight Chambers, and the stages folded elsewhere. -/
def execGalleryFault (g : Nat) (s : State) : Out :=
  match s.recovery? 2 g with
  | none => .next s
  | some r =>
    let s := s.stop .keeper (.gallery g) true
    let job := s.jobIdOf ((chambersOf g).flatMap s.chamberCmds)
    let s := (chambersOf g).foldl (fun s c => s.retireChamber c) s
    let (s, ended) := s.vacate g (chambersOf g)
    let s := { s with recoveries := s.recoveries.filter (fun x => !(x.cls == 1 && x.unit / 8 == g)) }
    .next (s.endRecovery r { origin := s.origin 2 (g / 4), cls := 2, action := 3, outcome := if ended.isEmpty then 0 else 1
                             stopTs := 0, resumeTs := 0, unit := g, job := job })

/-- THERMAL_HOLD_TIMEOUT (R341): the stages leave the Gallery, which the steward's hold has stopped; no Chamber is retired. -/
def execThermalHoldTimeout (g : Nat) (s : State) : Out :=
  let x := s.galPower g
  if !(x.holdStack || x.holdDie) || x.holdRecovered || s.now ≤ x.holdSince + 2000000 then .next s
  else
    let s := s.modGalPower g (fun x => { x with holdRecovered := true })
    let job := s.jobIdOf ((chambersOf g).flatMap s.chamberCmds)
    let (s, ended) := s.vacate g (chambersOf g)
    .next (s.recoverNow { origin := s.origin 1 g, cls := 8, action := 3, outcome := if ended.isEmpty then 0 else 1
                          stopTs := 0, resumeTs := 0, unit := g, job := job })

/-! ### Memory data (R342) -/

/-- Commands that wait for a line. -/
def State.lineWaiters (s : State) (line : Nat) : List Cmd :=
  (s.outstanding.filter (fun o => o.phase == .held && o.held.length == 8 && natLE o.held / 64 * 64 == line)).map (·.cmd)

/-- The line is good again: commands that waited for it run again from their start. -/
def State.resumeWaiters (s : State) (hs : List Cmd) : State :=
  let go := fun (o : Outstanding) => if hs.contains o.cmd then { o with phase := .started, held := [], recovered := true } else o
  { s with outstanding := s.outstanding.map go }

/-- The live strands of the stage groups of given strands (R342). -/
def State.groupStrands (s : State) (xs : List (Nat × Nat)) : List (Nat × Nat) :=
  let keys := xs.map (fun x => ((s.strand x.1 x.2).job, (s.strand x.1 x.2).stageId))
  let same := s.chambers.flatMap (fun x => (x.2.strands.filter (fun t => keys.contains (t.2.job, t.2.stageId))).map (fun t => (x.1, t.1)))
  (xs ++ same).eraseDups

/-- Strands replay, and their Chambers run again. -/
def State.replayAll (s : State) (xs : List (Nat × Nat)) : State :=
  let s := (s.groupStrands xs).foldl (fun s x => s.replayStrand x.1 x.2) s
  ((xs.map (·.1)).eraseDups).foldl (fun s c => s.releaseChamber c) s

/-- The origin of an uncorrectable read, and the status bit that its recovery clears (R349). -/
def uncorrBit (a : Nat) : Option (Field × Nat) :=
  match regionOf a with
  | some .hbm => some (.hbmUncorr, a / hbmWindow)
  | some .gallery => some (.glGmUncorr, galleryOf a)
  | _ => none

/-- The recovery of a line ends: its record, and the retirement of its block (R238). -/
def State.lineDone (s : State) (r : Recovery) (action outcome job : Nat) : State :=
  let o := uncorrOrigin r.unit
  let s := s.endRecovery r { origin := s.origin o.1 o.2, cls := 3, action := action, outcome := outcome, stopTs := 0, resumeTs := 0
                             addr := r.unit, unit := o.2, job := job }
  let s := match uncorrBit r.unit with | some (f, u) => s.put f u 0 | none => s
  if regionOf r.unit = some .hbm then s.retireBlock (r.unit / 65536) 0 else s

/-- MEMORY_DATA_RECOVERY (R238, R342): recomputation by the strands that read the line, then the mirror or the peer; with none
of them every reader completes with `POISONED`. -/
def execMemoryDataRecovery (addr : Nat) (s : State) : Out :=
  let line := addr / 64 * 64
  let waiters := s.lineWaiters line
  match s.recovery? 3 line, waiters with
  | none, [] => .next s
  | r?, _ =>
    let r := r?.getD ⟨3, line, s.now, [], false⟩
    let ended := r.strands.filterMap (fun x => (s.strand x.1 x.2).cmd)
    let job := s.jobIdOf (ended ++ waiters)
    if !s.poisoned line 1 then .next (((s.replayAll r.strands).resumeWaiters waiters).lineDone r 1 0 job)
    else if !r.tried && !r.strands.isEmpty then
      let again := s.recoveries.map (fun (x : Recovery) =>
        if x.cls = 3 && x.unit = line then { x with tried := true, strands := [] } else x)
      .next ({ s with recoveries := again }.replayAll r.strands)
    else if s.lineSource line then
      let s := (s.showLost line 64).restoreMarks (line / 64) (line / 64 + 1)
      .next (((s.replayAll r.strands).resumeWaiters waiters).lineDone r 8 0 job)
    else
      let n := s.reg .modErrCount 0
      let s := s.lineDone r 8 2 job
      let s := (ended ++ waiters).eraseDups.foldl (fun s h => if s.isOut h then s.stopCommand h stPoisoned n else s) s
      .next (((r.strands.map (·.1)).eraseDups).foldl (fun s c => s.releaseChamber c) s)

/-! ### Die-to-die links (R12, R345) -/

/-- The link between two dies that differ in one bit has not failed. -/
def linkWorks (failed : List (Nat × Nat)) (a b : Nat) : Bool := !failed.contains (min a b, max a b)

/-- The dies that a transfer passes when it corrects its axes in an order; x is bit 2, y bit 1 and z bit 0 of a die. -/
def axisPath (a b : Nat) : List Nat → List Nat
  | [] => [a]
  | k :: ks => if bit a k == bit b k then axisPath a b ks else a :: axisPath (a ^^^ 2 ^ k) b ks

/-- Every link of a path works. -/
def pathWorks (failed : List (Nat × Nat)) : List Nat → Bool
  | a :: b :: ds => linkWorks failed a b && pathWorks failed (b :: ds)
  | _ => true

/-- The path from die a to die b (R12, R345): the first axis order whose links work, else out on the lowest other axis whose
link and return link work, across, and back. -/
def diePath (failed : List (Nat × Nat)) (a b : Nat) : Option (List Nat) :=
  match ([[2, 1, 0], [1, 0, 2], [0, 2, 1]].map (axisPath a b)).find? (pathWorks failed) with
  | some p => some p
  | none =>
    if a ^^^ b = 1 || a ^^^ b = 2 || a ^^^ b = 4 then
      ([2, 1, 0].filter (fun k => 2 ^ k != (a ^^^ b))).map (fun k => [a, a ^^^ 2 ^ k, b ^^^ 2 ^ k, b]) |>.find? (fun p =>
        linkWorks failed (p.getD 0 0) (p.getD 1 0) && linkWorks failed (p.getD 2 0) (p.getD 3 0))
    else none

/-- DIE_LINK_FAILURE (R330, R345): the link is out of every path; the keepers reinject what its retry buffer held. Dies that are
not linked have no link to fail (R4). -/
def execDieLinkFailure (a b : Nat) (s : State) : Out :=
  if !linked a b || s.failedLinks.contains (min a b, max a b) then .next s
  else
    let s := { s with failedLinks := (min a b, max a b) :: s.failedLinks }
    .next (s.recoverNow { origin := s.origin 2 a, cls := 7, action := 7, outcome := 0, stopTs := 0, resumeTs := 0
                          unit := a % 8 * 8 + b % 8 })

/-- DIE_LINK_TRAINED (R345). -/
def execDieLinkTrained (a b : Nat) (s : State) : Out :=
  .next { s with failedLinks := s.failedLinks.filter (fun x => !(x == (min a b, max a b))) }

/-! ### Probes and losses (R344, R351) -/

/-- PROBE: answered with PROBE_ACK. -/
def execProbe (k : MgmtPacket) (s : State) : Out :=
  let job := match s.mgmtJob k with | some j => j.id | none => 0
  .next (s.sendMgmt k.src k.tag 2 job [])

/-- PROBE_ACK: the member has answered. -/
def execProbeAck (k : MgmtPacket) (s : State) : Out :=
  match s.mgmtJob k with
  | none => .next s
  | some j => .next { s with probes := s.probes.filter (fun x => !(x.job == j.id && j.ranks.getD x.rank 0 == k.src)) }

/-- PROBE_TIMEOUT: no answer within `PROBE_TIMEOUT_US`; `restartStep` is the last step that the rank committed. -/
def execProbeTimeout (job rank restartStep : Nat) (s : State) : Out :=
  match s.probes.find? (fun x => x.job == job && x.rank == rank), s.job? job with
  | some x, some j =>
    if s.now < x.sentTs + 2000 * s.reg .modProbeTimeoutUs 0 then .next s
    else
      let s := { s with probes := s.probes.filter (fun y => !(y.job == job && y.rank == rank)) }
      .next (s.declareLoss j rank restartStep)
  | _, _ => .next s

/-- LOSS: a record of another member, or one that names this module. -/
def execLoss (k : MgmtPacket) (s : State) : Out :=
  match s.mgmtJob k with
  | none => .next s
  | some j =>
    .next (s.keepLoss j.id (fieldLE k.payload 0 8) (fieldLE k.payload 56 4) (fieldLE k.payload 40 4) (fieldLE k.payload 48 8))

/-- LOSS_COMPLETION: 250 µs after the record's `TS` every command of the job that has not completed does so with `FAULT`. -/
def execLossCompletion (job : Nat) (s : State) : Out :=
  match s.job? job with
  | none => .next s
  | some j =>
    match j.loss with
    | none => .next s
    | some (ts, detect, rank, step) =>
      if j.lost || s.now < ts + 500000 then .next s
      else
        let n := s.reg .modErrCount 0
        let s := (s.errRecord (s.lossRecord j ts detect rank step) ts).modJob job (fun j => { j with lost := true })
        let hs := (s.outstanding.filter (fun o => o.jobId == job)).map (·.cmd)
        let s := hs.foldl (fun s h => s.stopCommand h stFault n) s
        let stopColl := fun (c : Coll) => if c.job = job then { c with stopped := true, cmd := none, out := [] } else c
        .next { s with colls := s.colls.map stopColl }

/-- LINK_DOWN: another module's port has failed. -/
def execLinkDown (k : MgmtPacket) (s : State) : Out :=
  let m := fieldLE k.payload 0 4 % 2 ^ 18
  let p := fieldLE k.payload 4 1
  if p > 5 then .next s
  else
    let s := { s with portsFailedAt := tset 0 s.portsFailedAt (8 * m + p) (max 1 s.now) }
    let sameRing := (List.range 3).all (fun a => a == p / 2 || coordOf m a == coordOf s.self a)
    let s := if sameRing then s.ringReport (p / 2) else s
    match s.beyond m p with
    | some l => .next (s.lossByPorts l)
    | none => .next s

end Sys2Proof.Machine
end

