-- ==== Sys2Proof/Machine/Mgmt.lean ====
section
/-!
DEFINITION. Commands that read or set the module as a whole: IDENTIFY, LOG_READ, SLOT_TABLE_SET, CACHE_SPLIT and FABRIC_CONFIG
(R2, R227, R229, R230, R260, R261, R290, R322, R326, R328, R412).
-/
namespace Sys2Proof.Machine

/-! ### IDENTIFY (R412) -/

/-- A bit mask of the numbers below `n` that pass a test. -/
def maskOf (n : Nat) (f : Nat → Bool) : Nat := (List.range n).foldl (fun a i => if f i then a + 2 ^ i else a) 0

/-- Byte strings at rising offsets, zeros between them, cut or filled to `n` bytes. -/
def record (n : Nat) (xs : List (Nat × List Byte)) : List Byte := (padTo n (layOut 0 xs)).take n

/-- The identity record. -/
def State.identity (s : State) : List Byte :=
  let working := fun c => s.reg .chRetired c == 0
  record 4096
    [(0, bytesLE 4 1 ++ bytesLE 1 2), (6, bytesLE 2 orderCode ++ serialBytes),
     (24, bytesLE 4 (s.reg .modRunFwVersion 0) ++ bytesLE 2 (s.reg .modRunSecVersion 0)),
     (30, bytesLE 1 (s.reg .pciFwIfMin 0) ++ bytesLE 1 (s.reg .pciFwIfMax 0) ++ [0x0C, 3, 0, 3] ++ bytesLE 4 s.addrWord ++
        bytesLE 8 (32 * stackFitted) ++ bytesLE 8 s.hbmUsable ++ bytesLE 4 s.retireEntries.length ++
        bytesLE 2 ((List.range 256).filter working).length ++ bytesLE 1 (maskOf 6 (fun p => s.reg .portLinkState p == 6)) ++
        bytesLE 1 (maskOf 6 (fun p => s.reg .portMode p == 1)) ++ bytesLE 32 (maskOf 256 working) ++
        (List.range 32).flatMap (fun k => bytesLE 8 (s.stackUsable k)) ++ bytesLE 4 (s.reg .modSumpFree 0) ++ bytesLE 2 63 ++
        bytesLE 2 64 ++ bytesLE 4 4096),
     (368, s.nvBytes (64 * nvIdentity) 60 ++ bytesLE 8 registerBase)]

/-- IDENTIFY: waits while the function may not master host memory (R401). -/
def execIdentify (h : Cmd) (hostAddr : Nat) (s : State) : Out :=
  if !s.pcie.busMaster then .next s else s.run h [] ((s.hostWrite hostAddr s.identity).ok h)

/-! ### LOG_READ (R322, R326, R328) -/

/-- The 64 bytes of an entry (R326). -/
def LogEntry.bytes (e : LogEntry) : List Byte :=
  bytesLE 8 e.ts ++ bytesLE 4 e.origin ++ bytesLE 2 e.kind ++ bytesLE 2 e.seq ++ bytesLE 1 e.lflags ++ List.replicate 7 0 ++
    (padTo 40 e.payload).take 40

/-- The loss record of a Gallery's ring. -/
def State.ringLoss (s : State) (g : Nat) (r : LogRing) : LogEntry :=
  { ts := r.lostNew, origin := s.origin 1 g, kind := 0x00FF, seq := 0, lflags := 1 - s.reg .modTimeConverged 0
    payload := bytesLE 1 g ++ List.replicate 7 0 ++ bytesLE 8 r.lost ++ bytesLE 8 r.lostOld ++ bytesLE 8 r.lostNew }

/-- Entry a does not come after entry b in canonical order; entries of one origin and tick keep the order in which they stand,
which is that of their sequence numbers. -/
def logLe (a b : LogEntry) : Bool := decide (a.ts < b.ts) || (a.ts == b.ts && decide (a.origin ≤ b.origin))

/-- Entries of `[lo, hi]` in canonical order, loss records first among equals. -/
def State.mergedLog (s : State) (lo hi : Nat) : List LogEntry :=
  let inside := fun ts => decide (lo ≤ ts) && decide (ts ≤ hi)
  let lost := (s.logs.filter (fun r => r.2.lost != 0 && inside r.2.lostNew)).map (fun r => s.ringLoss r.1 r.2)
  (lost ++ (s.logs.flatMap (fun r => r.2.entries)).filter (fun e => inside e.ts)).mergeSort logLe

/-- As many whole ticks as `n` entries hold, of entries in order. -/
def wholeTicks (n : Nat) (es : List LogEntry) : List LogEntry :=
  match es[n]? with
  | none => es
  | some cut => es.filter (fun e => decide (e.ts < cut.ts))

/-- Entries of `[lo, hi]` have been returned, and the losses that were told. -/
def State.logReturned (s : State) (lo hi : Nat) : State :=
  let inside := fun ts => decide (lo ≤ ts) && decide (ts ≤ hi)
  let ring := fun (r : LogRing) =>
    let told := r.lost != 0 && inside r.lostNew
    { r with entries := r.entries.map (fun (e : LogEntry) => if inside e.ts then { e with read := true } else e)
             lost := if told then 0 else r.lost }
  let logs := s.logs.map (fun (r : Nat × LogRing) => (r.1, ring r.2))
  { s with logs := logs }.put .modLogReadTs 0 hi

/-- LOG_READ: the horizon is 2 µs back. -/
def execLogRead (h : Cmd) (hostAddr maxBytes earliest : Nat) (s : State) : Out :=
  let es := if s.now < 4000 then [] else wholeTicks (maxBytes / 64) (s.mergedLog earliest (s.now - 4000))
  let s1 := match es.getLast? with
    | some e => (s.hostWrite hostAddr (es.flatMap LogEntry.bytes)).logReturned earliest e.ts
    | none => s
  if !s.pcie.busMaster then .next s else s.run h [s.param h (decide (65536 ≤ maxBytes)) 8] (s1.ok h (64 * es.length))

/-! ### SLOT_TABLE_SET (R227) -/

/-- SLOT_TABLE_SET: the shadow tables are written and committed; the command completes at their frame boundaries
(`slotReplies`). -/
def execSlotTableSet (h : Cmd) (gallery : Nat) (table : List Nat) (s : State) : Out :=
  let gs := if gallery = 0xFF then List.range 32 else [gallery]
  let set := fun (s : State) g =>
    ((List.range 32).foldl (fun s w => s.setReg .glSlotShadow g w (table.getD w 0)) s).flag .glSlotPending g
  s.run h [s.param h (decide (gallery ≤ 31) || gallery == 0xFF) 0] ((gs.foldl set s).hold h 0x77 (bytesLE 1 gallery))

/-! ### CACHE_SPLIT (R229, R230) -/

/-- A strand of a job is in a Chamber of the Gallery and has not come to its end. -/
def State.galleryBusy (s : State) (g : Nat) : Bool :=
  (List.range 8).any (fun i => (s.chamber (8 * g + i)).strands.any (fun t =>
    let st := s.reg .chState (8 * g + i) t.1
    t.2.job != 0 && !(st == psEmpty || st == psDone || st == psRefused)))

/-- Two byte ranges meet. -/
def meets (a n b m : Nat) : Bool := decide (a < b + m) && decide (b < a + n)

/-- An allocation or a bound tensor lies in a step that `steps` would turn into cache. -/
def State.splitBlocked (s : State) (g steps : Nat) : Bool :=
  let z := galleryBase + g * gallerySize + gallerySize
  let lo := z - steps * 0x800000
  let n := (steps - s.reg .glCacheSteps g) * 0x800000
  s.allocs.any (fun x => meets x.1 x.2 lo n) ||
    s.tensors.any (fun t => meets t.p.base (if t.p.space = 3 then 64 else t.bytes) lo n)

/-- The steward holds its Gallery for the change, and releases it unless it held it before. -/
def State.splitGallery (s : State) (steps g : Nat) : State :=
  let held := s.reg .glOwnHold g == 1
  let s := (s.stop .steward (.gallery g) true).setSteps g steps
  if held then s else s.start .steward (.gallery g)

/-- CACHE_SPLIT: applied in every Gallery named, or in none. -/
def execCacheSplit (h : Cmd) (mask steps : Nat) (s : State) : Out :=
  let gs := (List.range 32).filter (bit mask)
  let blocked := maskOf 32 (fun g => bit mask g && s.splitBlocked g steps)
  let busy := maskOf 32 (fun g => bit mask g && s.galleryBusy g)
  s.run h [s.param h (decide (steps ≤ 7)) 4]
    (if blocked ≠ 0 then s.complete h { status := stBusy, result := blocked }
     else if busy ≠ 0 then s.complete h { status := stBusy, result := busy }
     else (gs.foldl (fun s g => s.splitGallery steps g) s).ok h)

/-! ### FABRIC_CONFIG (R290) -/

/-- Bits that each byte of the parameters may have, by `WHAT`; what is not listed is reserved. -/
def fabricMask (what i : Nat) : Nat :=
  let wide := fun j => if j = 0 then 0xFF else if j = 1 then 0xFF else if j = 2 then 0x03 else 0x80
  if i = 0 then 0xFF
  else if what = 0 then
    if i ≤ 2 || (decide (4 ≤ i) && decide (i ≤ 15)) then 0xFF else if i = 16 then 1 else 0
  else if what = 1 then
    if i < 4 || 20 ≤ i then 0 else if i % 4 = 0 then 0xFF else if i % 4 = 1 then 0x0F else if i % 4 = 2 then 0 else 0x80
  else if what = 2 then
    if i < 4 then 0 else if i < 8 then wide (i - 4) else if i < 11 then 0x3F else if i = 11 then 7 else if i = 12 then 3 else 0
  else if i < 4 || 8 ≤ i then 0 else wide (i - 4)

/-- The first byte with a reserved bit set. -/
def fabricReserved (bs : List Byte) : Option Nat :=
  (List.range bs.length).find? (fun i => fieldLE bs i 1 &&& (0xFF - fabricMask (fieldLE bs 0 1) i) != 0)

/-- A job with a rank map is admitted. -/
def State.mapped? (s : State) : Bool := s.jobs.any (fun j => !j.ended && !j.ranks.isEmpty)

/-- Accepted tags that a new set of words drops while a job carries them. -/
def State.tagsBusy (s : State) (words : List Nat) : Bool :=
  let new := (words.filter (fun w => bit w 31)).map (fun w => bits w 11 0)
  (List.range 4).any (fun n => s.reg .fabTagValid 0 n == 1 && !new.contains (s.reg .fabAcceptTag 0 n) &&
    s.jobs.any (fun j => !j.ended && j.tag == s.reg .fabAcceptTag 0 n))

/-- One port's group of fields; the commit comes after the others. -/
def State.configPort (s : State) (bs : List Byte) : State :=
  let p := fieldLE bs 1 1
  let b := fieldLE bs 2 1
  let put := fun (s : State) f off n => if fieldLE bs off n = 0 then s else s.put f p (fieldLE bs off n)
  let s := if s.reg .portMode p = bits b 2 2 then s else s.setMode p (bits b 2 2)
  let s := ((s.put .portHalfOk p (bits b 1 1)).put .portPfcEn p (bits b 3 3)).put .portPfcPrio p (bits b 6 4)
  let s := put (put (put s .portUdpPort 4 2) .portEdgeRto 6 2) .portEdgeTable 8 8
  let s := s.setEnable p (bits b 0 0)
  let s := if bit b 7 then s.retrain p else s
  if bit (fieldLE bs 16 1) 0 then s.readEdge p else s

/-- The torus group. -/
def State.configTorus (s : State) (bs : List Byte) : State :=
  let a := fieldLE bs 4 4
  let v := fieldLE bs 8 4
  let s := (s.put .fabModuleAddr 0 (bits a 17 0)).put .fabAddrValid 0 (bits a 31 31)
  let s := ((s.put .fabSizeX 0 (bits v 5 0)).put .fabSizeY 0 (bits v 13 8)).put .fabSizeZ 0 (bits v 21 16)
  let s := ((s.put .fabWrapX 0 (bits v 24 24)).put .fabWrapY 0 (bits v 25 25)).put .fabWrapZ 0 (bits v 26 26)
  let f := fieldLE bs 12 1
  ((s.put .fabAdaptiveEn 0 (bits f 0 0)).put .fabAddrCheck 0 (bits f 1 1)).addrChanged

/-- The conditions under which FABRIC_CONFIG completes with `BUSY`. -/
def State.fabricBusy (s : State) (bs : List Byte) : Bool :=
  let p := fieldLE bs 1 1
  match fieldLE bs 0 1 with
  | 0 => (s.reg .portMode p != bits (fieldLE bs 2 1) 2 2 && s.reg .portLinkState p != 0) ||
      (bit (fieldLE bs 16 1) 0 && s.flows.any (fun f => f.port == p && f.busy))
  | 1 => s.tagsBusy ((List.range 4).map (fun n => fieldLE bs (4 + 4 * n) 4))
  | _ => s.mapped?

/-- FABRIC_CONFIG: every value is checked before any is written. -/
def execFabricConfig (h : Cmd) (bytes : List Byte) (s : State) : Out :=
  let what := fieldLE bytes 0 1
  let s1 := match what with
    | 0 => s.configPort bytes
    | 1 => (List.range 4).foldl (fun s n =>
        let w := fieldLE bytes (4 + 4 * n) 4
        (s.setReg .fabAcceptTag 0 n (bits w 11 0)).setReg .fabTagValid 0 n (bits w 31 31)) s
    | 2 => s.configTorus bytes
    | _ => s.setTimeRoot (bits (fieldLE bytes 4 4) 17 0) (bits (fieldLE bytes 4 4) 31 31)
  s.run h [s.param h (decide (what ≤ 3)) 0, s.param h (what != 0 || decide (fieldLE bytes 1 1 ≤ 5)) 1,
           s.param h (fabricReserved bytes).isNone ((fabricReserved bytes).getD 0), check (!s.fabricBusy bytes) stBusy 0]
    (s1.ok h)

end Sys2Proof.Machine
end

