-- ==== Sys2Proof/Machine/HostIf.lean ====
section
/-!
DEFINITION. Writes to register fields by their access codes, the management view, and the PMBus commands (R7 to R9, R104, R183,
R217, R291, R292, R376, R377, R402 to R406, R408, R410, R411, R413 to R416).
-/
namespace Sys2Proof.Machine

/-! ### Access codes (R7, R9) -/

/-- The values of a field that are encodings; the others are reserved. -/
def encodingOk (f : Field) (v : Nat) : Bool :=
  match f with
  | .chWalkAhead => v != 0
  | .pciAqSqLog2 => decide (6 ≤ v) && decide (v ≤ 16)
  | .pciAqStqLog2 => decide (6 ≤ v) && decide (v ≤ 16)
  | .modSumpJobSegs => decide (8 ≤ v) && decide (v ≤ 768)
  | .modClaimMaxSegs => decide (8 ≤ v) && decide (v ≤ 768)
  | .mgtRegAddr => v % 4 == 0
  | _ => true

/-- The access-error status of the block that owns a field (R9); three blocks have none. -/
def accessError : Block → Option Field
  | .ch => some .chAccessErr
  | .port => some .portAccessErr
  | .pci => some .pciAccessErr
  | .mgt => some .mgtAccessErr
  | _ => none

/-- A field takes a written value under its access code: RO and WO keep nothing, RW and RWS take it, and in RW1C each bit
written with 1 clears. -/
def State.writeField (s : State) (f : Field) (u i v : Nat) : State :=
  let x := fieldInfo f
  let v := v % 2 ^ x.width
  match x.acc with
  | .rw => s.setReg f u i v
  | .rws => s.setReg f u i v
  | .rw1c => s.setReg f u i (s.reg f u i - (s.reg f u i &&& v))
  | .ro => s
  | .wo => s

/-- A reserved encoding leaves the field unchanged and sets the block's access error. -/
def State.refusedEncoding (s : State) (f : Field) (u : Nat) : State :=
  match accessError (fieldInfo f).block with
  | some e => s.flag e u
  | none => s

/-- The unit and copy exist. -/
def fieldExists (f : Field) (u i : Nat) : Bool :=
  decide (u < (fieldInfo f).block.units) && decide (i < (fieldInfo f).copies)

/-! ### Writes of the control complex -/

/-- A strand is neither EMPTY, DONE nor REFUSED. -/
def State.strandBusy (s : State) (c i : Nat) : Bool :=
  let st := s.reg .chState c i
  !(st == psEmpty || st == psDone || st == psRefused)

/-- The generator registers of a strand (R217). -/
def rngField (f : Field) : Bool :=
  f == .chSrSeedLo || f == .chSrSeedHi || f == .chSrStream || f == .chSrIdxBase || f == .chGaussStream

/-- The mask registers of a strand (R183). -/
def maskField (f : Field) : Bool := f == .chGmaskBase || f == .chGmaskOut || f == .chGmaskSpill || f == .chGmaskEn

/-- The answer of a command that is written as a register. -/
def stateOf (s : State) : Out → State
  | .next t => t
  | _ => s

/-- A write of 1 to a WO field, whose action has a command of its own (R98, R105, R116, R227, R268, R287). -/
def State.trigger (s : State) (f : Field) (u i : Nat) : State :=
  match f with
  | .chGo => s.go u i
  | .chAbort => s.abort u i
  | .chLoad => stateOf s (execTableLoad u s)
  | .glSlotCommit => s.flag .glSlotPending u
  | .portRetrain => s.retrain u
  | .portEdgeCommit => stateOf s (execEdgeCommit u s)
  | _ => s

/-- A write of `COMPLEX_HOLD`: the hold or its release (R14, R17). -/
def State.writeHold (s : State) (e : Elem) (v : Nat) : State :=
  if v % 2 = 1 then s.stop .complex e false else s.start .complex e

/-- What a write of the control complex does where the field has behaviour beyond its access code. -/
def State.complexWrite (s : State) (f : Field) (u i v : Nat) : State :=
  let s1 := s.writeField f u i v
  if rngField f && s.strandBusy u i then s.flag .chRngBusy u
  else if maskField f && s.reg .chState u i != psEmpty && s.reg .chState u i != psDone then s.flag .chGmaskBusy u
  else
    match f with
    | .chComplexHold => s.writeHold (.chamber u) v
    | .glComplexHold => s.writeHold (.gallery u) v
    | .dieComplexHold => s.writeHold (.die u) v
    | .chRngMode => if (List.range 4).any (s.strandBusy u) then s.flag .chRngBusy u else s1
    | .chBoundaryBase => s1.modChamber u (fun x => { x with boundaryPos := 0 })
    | .chBoundarySlots => s1.modChamber u (fun x => { x with boundaryPos := 0 })
    | .glCacheSteps => stateOf s (execCacheStepsWrite u (v % 8) s)
    | .glReqComplex => s1.retarget u
    | .modHostCap => s1.setCap
    | .modTimeRoot => s.setTimeRoot (v % 2 ^ 18) (s.reg .modRootValid 0)
    | .modRootValid => s.setTimeRoot (s.reg .modTimeRoot 0) (v % 2)
    | .fabModuleAddr => s1.addrChanged
    | .fabAddrValid => s1.addrChanged
    | .portEnable => s.setEnable u (v % 2)
    | .portMode => s.setMode u (v % 2)
    | .portInService => if v % 2 = 1 then s.setInService u else s1.historyReady
    | _ => if (fieldInfo f).acc = .wo then (if v % 2 = 1 then s.trigger f u i else s) else s1

/-! ### Writes of the host (R402, R404 to R406, R411) -/

/-- A 64-bit field of BAR0: `i` is 0 for its lower half, which waits, and 1 for its upper half, with which the field takes its
new value. -/
def State.writeHalf (s : State) (f : Field) (i v : Nat) : State :=
  let off := (fieldInfo f).off
  let others := s.pcie.lower.filter (fun x => x.1 != off)
  if i = 0 then { s with pcie := { s.pcie with lower := (off, v % 2 ^ 32) :: others } }
  else
    let lo := match s.pcie.lower.find? (fun x => x.1 == off) with | some x => x.2 | none => s.reg f 0 % 2 ^ 32
    ({ s with pcie := { s.pcie with lower := others } }).put f 0 (lo + v % 2 ^ 32 * 2 ^ 32)

/-- A base or size of the admin queue (R406). -/
def ringField (f : Field) : Bool := f == .pciAqSqBase || f == .pciAqStqBase || f == .pciAqSqLog2 || f == .pciAqStqLog2

/-- A pending message whose vector is unmasked leaves, once the function may master (R401, R408). -/
def State.unmask (s : State) (v : Nat) : State :=
  if s.reg .pciMsixMask 0 v = 0 && s.pcie.busMaster && s.pcie.pba.contains v then
    { s with pcie := { s.pcie with pba := s.pcie.pba.filter (· != v) } }.send (.msix v)
  else s

/-- A write of the host to BAR0. -/
def State.hostRegWrite (s : State) (f : Field) (i v : Nat) : State :=
  if s.reg .pciReady 0 = 0 || (ringField f && s.reg .pciAqEnable 0 == 1) then s.pciIgnored
  else
    match f with
    | .pciAqSqBase => s.writeHalf f i v
    | .pciAqStqBase => s.writeHalf f i v
    | .pciAqEnable => stateOf s (execAqEnable v s)
    | .pciAqReset => if v % 2 = 1 then stateOf s (execAqReset s) else s
    | .pciSqTail => stateOf s (execSqTail i v s)
    | .pciStqHead => stateOf s (execStqHead i v s)
    | .pciMsixMask => (s.writeField f 0 i v).unmask i
    | _ => s.writeField f 0 i v

/-! ### MGT_CAP (R366, R416) -/

/-- The management cap; 0 removes it. -/
def State.setMgtCap (s : State) (v : Nat) : State :=
  if v = 0 || (decide (1800 ≤ v) && decide (v ≤ 7200)) then
    ((s.put .mgtCap 0 v).put .modMgmtCap 0 (if v = 0 then 7200 else v)).setCap
  else s.flag .mgtAccessErr 0

/-- MGT_CAP. -/
def execMgtCap (value : Nat) (s : State) : Out := .next (s.setMgtCap value)

/-- A write of the board management controller. -/
def State.boardWrite (s : State) (f : Field) (v : Nat) : State :=
  match f with
  | .mgtCap => s.setMgtCap v
  | .mgtResetKey => stateOf s (execMgtResetKey v s)
  | .mgtAlert => (s.writeField f 0 0 v).alertPin
  | .mgtAlertMask => (s.writeField f 0 0 v).alertPin
  | .mgtRegAddr => if encodingOk f v then s.writeField f 0 0 v else s.flag .mgtAccessErr 0
  | .mgtAccessErr => s.writeField f 0 0 v
  | _ => s.flag .mgtAccessErr 0

/-! ### REGISTER_WRITE (R7, R9, R404 to R406, R411) -/

/-- REGISTER_WRITE: what a write of `value` to copy `idx` of a field does, by who writes it. The complex writes the register
space, the host BAR0, the board its view; a write through BAR2 is ignored (R411), and the stewards, keepers and sequencers have
no write of a field that these maps give. For a 64-bit field of BAR0 `idx` is the half (R404). -/
def execRegisterWrite (who : Who) (f : Field) (unit idx value : Nat) (s : State) : Out :=
  let x := fieldInfo f
  let v := value % 2 ^ x.width
  match who with
  | .complex =>
    if x.block = .pci || x.block = .mgt || !fieldExists f unit idx then .next s
    else if !encodingOk f v then .next (s.refusedEncoding f unit)
    else .next (s.complexWrite f unit idx v)
  | .host =>
    if x.block ≠ .pci then .next s.pciIgnored
    else if !(fieldExists f 0 idx || x.width == 64) then .next s
    else if !encodingOk f v then .next s.pciIgnored
    else .next (s.hostRegWrite f idx value)
  | .window => .next s.pciIgnored
  | .board => if x.block = .mgt then .next (s.boardWrite f value) else .next (s.flag .mgtAccessErr 0)
  | .steward => .next s
  | .keeper => .next s
  | .sequencer => .next s

/-! ### The management view (R415) -/

/-- The hottest Gallery and the hottest stack in °C. -/
def State.hottest (s : State) : Nat × Nat :=
  ((List.range 32).foldl (fun a g => max a (s.reg .glDieTemp g)) 0,
   (List.range 32).foldl (fun a k => max a (max (s.reg .hbmTempStack k) (s.reg .hbmTempBase k))) 0)

/-- The word of a management register beside `MGT_REG_DATA`. -/
def State.mgtWord (s : State) (off : Nat) : Nat :=
  if off = 0 then s.reg .modBootStage 0 + 2 ^ 4 * s.reg .modBootErr 0 + 2 ^ 8 * s.reg .modPowerState 0 + 2 ^ 10 * s.reg .mgtLinkUp 0
  else if off = 0x14 then s.reg .modVin 0 + 2 ^ 16 * s.reg .modIin 0
  else if off = 0x18 then s.reg .modPin 0
  else if off = 0x1C then
    s.hottest.1 % 256 + 2 ^ 8 * (s.hottest.2 % 256) + 2 ^ 16 * s.reg .modCoolantIn 0 + 2 ^ 24 * s.reg .modCoolantOut 0
  else if off = 0x20 then s.reg .modInputEnergy 0 % 2 ^ 32
  else if off = 0x24 then s.reg .modInputEnergy 0 / 2 ^ 32
  else if off = 0x28 then s.addrWord
  else if off = 0x08 then 0
  else s.regWord .mgt 0 off

/-- A word at an offset of the register space is the upper half of a 64-bit register. -/
def upperHalf (a : Nat) : Bool :=
  match spaceBlock a with
  | some (b, _, off) => ((List.range 414).map Field.ofNat).any (fun f =>
      let x := fieldInfo f
      x.block == b && decide (32 ≤ x.hi) && (List.range x.copies).any (fun i => x.off + x.stride * i + 4 == off))
  | none => false

/-- A read of `MGT_REG_DATA`: the register's word. The lower half of a 64-bit register latches its upper half (R83), which the
next read of that place takes. -/
def State.regDataRead (s : State) : Nat × State :=
  let a := s.reg .mgtRegAddr 0
  if upperHalf a then
    match s.smbus.latched with
    | some (p, v) => (if p = 2 ^ 32 + a then v else s.spaceWord a, s)
    | none => (s.spaceWord a, s)
  else
    (s.spaceWord a, { s with smbus := { s.smbus with latched := some (2 ^ 32 + a + 4, s.spaceWord (a + 4)) } })

/-- A read of the view: its word. The lower half of the view's own 64-bit register latches its upper half (R83). -/
def State.mgtRead (s : State) (off : Nat) : Nat × State :=
  if off = 0x34 then s.regDataRead
  else if off = 0x20 then (s.mgtWord 0x20, { s with smbus := { s.smbus with latched := some (0x24, s.mgtWord 0x24) } })
  else if off = 0x24 then
    (match s.smbus.latched with
      | some (p, v) => if p = 0x24 then v else s.mgtWord 0x24
      | none => s.mgtWord 0x24, s)
  else (s.mgtWord off, s)

/-- The field that a write at an offset of the view reaches. -/
def mgtField (off : Nat) : Option Field :=
  if off = 0x04 then some .mgtCap else if off = 0x08 then some .mgtResetKey else if off = 0x0C then some .mgtAlert
  else if off = 0x10 then some .mgtAlertMask else if off = 0x30 then some .mgtRegAddr else if off = 0x38 then some .mgtAccessErr
  else none

/-- What a written word holds of a field; bits beyond the field are reserved and ignored (R9). -/
def State.mgtWrite (s : State) (off v : Nat) : State :=
  match mgtField off with
  | some f => s.boardWrite f (v % 2 ^ (fieldInfo f).width)
  | none => s.flag .mgtAccessErr 0

/-! ### PMBus (R413, R414) -/

/-- The interface answers while the always-on rail is up. -/
def State.pmbus (s : State) (k : State → State) : Out := if s.power.on then .next (k s) else .next s

/-- A reading of `num / den` in Linear11: the lowest exponent whose mantissa of 11 bits holds it. Which way the mantissa is
rounded is a free value. -/
def State.linear11 (s : State) (num den : Nat) : Nat × State :=
  let (f, s1) := s.takeFree
  let at' := fun (e : Nat) => (num * 2 ^ (16 - e) / (den * 2 ^ (e - 16)), num * 2 ^ (16 - e) % (den * 2 ^ (e - 16)))
  let e := ((List.range 32).find? (fun e => decide ((at' e).1 < 1023))).getD 31
  let (m, r) := at' e
  let n := (e + 16) % 32
  if r = 0 then (m % 2 ^ 11 + 2 ^ 11 * n, s) else ((m + f % 2) % 2 ^ 11 + 2 ^ 11 * n, s1)

/-- A word that is read. -/
def State.sendWord (s : State) (v : Nat) : State := s.send (.pmbus (bytesLE 2 v))

/-- A Linear11 reading that is read. -/
def State.sendReading (s : State) (num den : Nat) : State := let (v, s) := s.linear11 num den; s.sendWord v

/-- A block that is read: its length, then its bytes. -/
def State.sendBlock (s : State) (bs : List Byte) : State := s.send (.pmbus (bytesLE 1 bs.length ++ bs))

/-- A thermal action of R242 or R374 is in force. -/
def State.thermalAction (s : State) : Bool :=
  (List.range 32).any (fun g =>
    let x := s.galPower g
    s.reg .glThermalState g != 0 || s.reg .glDieHot g == 1 || x.reqDie != 0 || x.reqDieLow != 0 || x.holdDie)

/-- `STATUS_WORD`: CML 1, TEMPERATURE 2, OFF 6 and INPUT 13, where PMBus 1.3 has them (log 41). -/
def State.statusBits (s : State) : Nat :=
  let a := s.reg .mgtAlert 0
  (if s.smbus.cml then 2 else 0) + (if bit a 0 || bit a 4 then 4 else 0) + (if s.reg .modPowerState 0 = 0 then 64 else 0) +
    (if bit a 1 || bit a 2 then 2 ^ 13 else 0)

/-- STATUS_BYTE. -/
def execStatusByte (s : State) : Out := s.pmbus (fun s => s.send (.pmbus (bytesLE 1 s.statusBits)))

/-- STATUS_WORD. -/
def execStatusWord (s : State) : Out := s.pmbus (fun s => s.sendWord s.statusBits)

/-- STATUS_INPUT: over-voltage warning 6, under-voltage warning 5 (log 41). -/
def execStatusInput (s : State) : Out :=
  s.pmbus (fun s => s.send (.pmbus (bytesLE 1 (64 * s.reg .modInputHigh 0 + 32 * s.reg .modInputLow 0))))

/-- STATUS_TEMPERATURE: over-temperature warning 6 (log 41). -/
def execStatusTemperature (s : State) : Out :=
  s.pmbus (fun s => s.send (.pmbus (bytesLE 1 (if s.thermalAction then 64 else 0))))

/-- READ_VIN: `VIN` is in 10 mV. -/
def execReadVin (s : State) : Out := s.pmbus (fun s => s.sendReading (s.reg .modVin 0) 100)

/-- READ_IIN: `IIN` is in 10 mA. -/
def execReadIin (s : State) : Out := s.pmbus (fun s => s.sendReading (s.reg .modIin 0) 100)

/-- READ_PIN. -/
def execReadPin (s : State) : Out := s.pmbus (fun s => s.sendReading (s.reg .modPin 0) 1)

/-- READ_TEMPERATURE_1: the hottest Gallery. -/
def execReadTemperature1 (s : State) : Out := s.pmbus (fun s => s.sendReading s.hottest.1 1)

/-- READ_TEMPERATURE_2: the hottest stack. -/
def execReadTemperature2 (s : State) : Out := s.pmbus (fun s => s.sendReading s.hottest.2 1)

/-- READ_TEMPERATURE_3: the coolant outlet, held in 0.5 °C. -/
def execReadTemperature3 (s : State) : Out := s.pmbus (fun s => s.sendReading (s.reg .modCoolantOut 0) 2)

/-- PMBUS_REVISION. -/
def execPmbusRevision (s : State) : Out := s.pmbus (fun s => s.send (.pmbus [0x33]))

/-- The bytes of ASCII characters. -/
def ascii (cs : List Char) : List Byte := cs.map (fun c => BitVec.ofNat 8 c.toNat)

/-- MFR_ID. -/
def execMfrId (s : State) : Out := s.pmbus (fun s => s.sendBlock (ascii ['S', 'V', 'L', 'Y']))

/-- MFR_MODEL: the ordering code. -/
def execMfrModel (s : State) : Out :=
  s.pmbus (fun s => s.sendBlock (ascii (['S', 'V', 'L', '-', 'D', 'M', '2', '-'] ++
    if Config.order2048 then ['2', '0', '4', '8'] else ['1', '5', '3', '6'])))

/-- MFR_SERIAL. -/
def execMfrSerial (s : State) : Out := s.pmbus (fun s => s.sendBlock serialBytes)

/-- MFR_MGT_ADDR. -/
def execMfrMgtAddr (addr : Nat) (s : State) : Out :=
  s.pmbus (fun s => { s with smbus := { s.smbus with mgtAddr := addr % 65536 } })

/-- MFR_MGT_DATA: a block of four bytes, read or written; the address advances by 4. -/
def execMfrMgtData (write : Option Nat) (s : State) : Out :=
  s.pmbus (fun s =>
    let off := s.smbus.mgtAddr
    let s := { s with smbus := { s.smbus with mgtAddr := (off + 4) % 65536 } }
    match write with
    | some v => s.mgtWrite off v
    | none => let (w, s) := s.mgtRead off; s.sendBlock (bytesLE 4 w))

/-- The codes that R414 supports. -/
def pmbusCodes : List Nat :=
  [0x78, 0x79, 0x7C, 0x7D, 0x88, 0x89, 0x97, 0x8D, 0x8E, 0x8F, 0x98, 0x99, 0x9A, 0x9E, 0xD0, 0xD1]

/-- PMBUS_REFUSED: a code that is not supported sets the CML bit and reads 0xFF. -/
def execPmbusRefused (code : Nat) (s : State) : Out :=
  if pmbusCodes.contains code then .next s
  else s.pmbus (fun s => { s with smbus := { s.smbus with cml := true } }.send (.pmbus [0xFF]))

/-- ALERT_RESPONSE (R413): the module that holds `smbalert_n` low answers with its address. -/
def execAlertResponse (s : State) : Out :=
  s.pmbus (fun s => if s.alertLow then s.send (.pmbus (bytesLE 1 (2 * s.smbus.address))) else s)

end Sys2Proof.Machine
end

