-- ==== Sys2Proof/Machine/Dispatch.lean ====
section
/-!
DEFINITION. One arm per command: the call of its meaning.
-/
namespace Sys2Proof.Machine

/-- The effect of a command on everything but the queue of waiting commands. -/
def exec (i : Instr) (s : State) : Host.Outcome State Fault Refusal :=
  match i with
  | .identify h hostAddr => Sys2Proof.Machine.execIdentify h hostAddr s
  | .queueCreate h p => Sys2Proof.Machine.execQueueCreate h p s
  | .queueDelete h queueId mode => Sys2Proof.Machine.execQueueDelete h queueId mode s
  | .cancel h queueId seq => Sys2Proof.Machine.execCancel h queueId seq s
  | .jobAdmit h p => Sys2Proof.Machine.execJobAdmit h p s
  | .jobEnd h => Sys2Proof.Machine.execJobEnd h s
  | .stageBind h stageId layout stale mask => Sys2Proof.Machine.execStageBind h stageId layout stale mask s
  | .memAlloc h size space place => Sys2Proof.Machine.execMemAlloc h size space place s
  | .memFree h addr => Sys2Proof.Machine.execMemFree h addr s
  | .memWrite h addr data => Sys2Proof.Machine.execMemWrite h addr data s
  | .memRead h addr len hostAddr => Sys2Proof.Machine.execMemRead h addr len hostAddr s
  | .memFill h addr len pattern => Sys2Proof.Machine.execMemFill h addr len pattern s
  | .ptUpdate h header first mode entries => Sys2Proof.Machine.execPtUpdate h header first mode entries s
  | .tensorCreate h p => Sys2Proof.Machine.execTensorCreate h p s
  | .tensorDestroy h id => Sys2Proof.Machine.execTensorDestroy h id s
  | .scaleSet h id scale => Sys2Proof.Machine.execScaleSet h id scale s
  | .contract h p => Sys2Proof.Machine.execContract h p s
  | .convolve h p => Sys2Proof.Machine.execConvolve h p s
  | .attend h p => Sys2Proof.Machine.execAttend h p s
  | .map h p => Sys2Proof.Machine.execMap h p s
  | .sample h reqAddr gallery => Sys2Proof.Machine.execSample h reqAddr gallery s
  | .optStep h p => Sys2Proof.Machine.execOptStep h p s
  | .stageRun h chamber strand prio header => Sys2Proof.Machine.execStageRun h chamber strand prio header s
  | .xfer h p => Sys2Proof.Machine.execXfer h p s
  | .counterSignal h ctrAddr increment => Sys2Proof.Machine.execCounterSignal h ctrAddr increment s
  | .allReduce h p => Sys2Proof.Machine.execAllReduce h p s
  | .reduceScatter h p => Sys2Proof.Machine.execReduceScatter h p s
  | .allGather h p => Sys2Proof.Machine.execAllGather h p s
  | .broadcast h p => Sys2Proof.Machine.execBroadcast h p s
  | .powerState h target => Sys2Proof.Machine.execPowerState h target s
  | .powerCap h cap => Sys2Proof.Machine.execPowerCap h cap s
  | .settingsStore h offset data => Sys2Proof.Machine.execSettingsStore h offset data s
  | .attest h nonce hostAddr => Sys2Proof.Machine.execAttest h nonce hostAddr s
  | .contextSave h jobId dest => Sys2Proof.Machine.execContextSave h jobId dest s
  | .contextRestore h src => Sys2Proof.Machine.execContextRestore h src s
  | .logRead h hostAddr maxBytes earliest => Sys2Proof.Machine.execLogRead h hostAddr maxBytes earliest s
  | .slotTableSet h gallery table => Sys2Proof.Machine.execSlotTableSet h gallery table s
  | .cacheSplit h mask steps => Sys2Proof.Machine.execCacheSplit h mask steps s
  | .fwActivate h imageAddr => Sys2Proof.Machine.execFwActivate h imageAddr s
  | .fabricConfig h bytes => Sys2Proof.Machine.execFabricConfig h bytes s
  | .nop h => Sys2Proof.Machine.execNop h s
  | .commandFetch => Sys2Proof.Machine.execCommandFetch s
  | .commandStart h => Sys2Proof.Machine.execCommandStart h s
  | .depFuture h dep => Sys2Proof.Machine.execDepFuture h dep s
  | .commandTimeout h => Sys2Proof.Machine.execCommandTimeout h s
  | .counterDependencyTimeout h => Sys2Proof.Machine.execCounterDependencyTimeout h s
  | .batchDeadline h => Sys2Proof.Machine.execBatchDeadline h s
  | .statusEntryWrite q => Sys2Proof.Machine.execStatusEntryWrite q s
  | .programNop c st => Sys2Proof.Machine.execProgramNop c st s
  | .load c st desc target bank blkK blkMN => Sys2Proof.Machine.execLoad c st desc target bank blkK blkMN s
  | .copy c st srcDesc dstDesc blkRow blkCol => Sys2Proof.Machine.execCopy c st srcDesc dstDesc blkRow blkCol s
  | .vload c st desc dst row4 blkN => Sys2Proof.Machine.execVload c st desc dst row4 blkN s
  | .sweep c st w t => Sys2Proof.Machine.execSweep c st w t s
  | .bind c st outTag desc blkM blkN => Sys2Proof.Machine.execBind c st outTag desc blkM blkN s
  | .vop c st op dst src1 src2 imm immValue => Sys2Proof.Machine.execVop c st op dst src1 src2 imm immValue s
  | .sfop c st func dst src inScale => Sys2Proof.Machine.execSfop c st func dst src inScale s
  | .smxSum c st dst src inScale => Sys2Proof.Machine.execSmxSum c st dst src inScale s
  | .smxProb c st dst src inScale => Sys2Proof.Machine.execSmxProb c st dst src inScale s
  | .rsClear c st => Sys2Proof.Machine.execRsClear c st s
  | .rsFinish c st => Sys2Proof.Machine.execRsFinish c st s
  | .rsOut c st index => Sys2Proof.Machine.execRsOut c st index s
  | .rsIn c st index => Sys2Proof.Machine.execRsIn c st index s
  | .rsAcc c st index => Sys2Proof.Machine.execRsAcc c st index s
  | .gauss c st dst src inScale => Sys2Proof.Machine.execGauss c st dst src inScale s
  | .vstore c st desc src row4 blkN => Sys2Proof.Machine.execVstore c st desc src row4 blkN s
  | .wait c st ctr target => Sys2Proof.Machine.execWait c st ctr target s
  | .signal c st ctr increment => Sys2Proof.Machine.execSignal c st ctr increment s
  | .ldlen c st len addr => Sys2Proof.Machine.execLdlen c st len addr s
  | .nest c st desc => Sys2Proof.Machine.execNest c st desc s
  | .boundary c st number => Sys2Proof.Machine.execBoundary c st number s
  | .fence c st => Sys2Proof.Machine.execFence c st s
  | .endWord c st => Sys2Proof.Machine.execEndWord c st s
  | .strandDone c st => Sys2Proof.Machine.execStrandDone c st s
  | .bankDrain c bank => Sys2Proof.Machine.execBankDrain c bank s
  | .bankRefill c bank => Sys2Proof.Machine.execBankRefill c bank s
  | .checkVerdict c => Sys2Proof.Machine.execCheckVerdict c s
  | .go c st => Sys2Proof.Machine.execGo c st s
  | .admissionScan c st => Sys2Proof.Machine.execAdmissionScan c st s
  | .abort c st => Sys2Proof.Machine.execAbort c st s
  | .waitTimeout c st => Sys2Proof.Machine.execWaitTimeout c st s
  | .counterWatchWake g ctrAddr => Sys2Proof.Machine.execCounterWatchWake g ctrAddr s
  | .waitPoll c st => Sys2Proof.Machine.execWaitPoll c st s
  | .pocketPatrolScrub c f => Sys2Proof.Machine.execPocketPatrolScrub c f s
  | .tableLoad c => Sys2Proof.Machine.execTableLoad c s
  | .tableLoadComplete c => Sys2Proof.Machine.execTableLoadComplete c s
  | .sfEpochSwitch c inFlight => Sys2Proof.Machine.execSfEpochSwitch c inFlight s
  | .oldBankRelease c => Sys2Proof.Machine.execOldBankRelease c s
  | .slotCommit g => Sys2Proof.Machine.execSlotCommit g s
  | .slotFrameBoundary g => Sys2Proof.Machine.execSlotFrameBoundary g s
  | .cacheStepsWrite g steps => Sys2Proof.Machine.execCacheStepsWrite g steps s
  | .stop who e reached => Sys2Proof.Machine.execStop who e reached s
  | .start who e => Sys2Proof.Machine.execStart who e s
  | .restart who e => Sys2Proof.Machine.execRestart who e s
  | .retire c => Sys2Proof.Machine.execRetire c s
  | .retrain p => Sys2Proof.Machine.execRetrain p s
  | .edgeCommit p => Sys2Proof.Machine.execEdgeCommit p s
  | .inService p => Sys2Proof.Machine.execInService p s
  | .mode p value => Sys2Proof.Machine.execMode p value s
  | .aqEnable value => Sys2Proof.Machine.execAqEnable value s
  | .aqReset => Sys2Proof.Machine.execAqReset s
  | .sqTail q value => Sys2Proof.Machine.execSqTail q value s
  | .stqHead q value => Sys2Proof.Machine.execStqHead q value s
  | .registerWrite who f unit idx value => Sys2Proof.Machine.execRegisterWrite who f unit idx value s
  | .mgtCap value => Sys2Proof.Machine.execMgtCap value s
  | .mgtResetKey value => Sys2Proof.Machine.execMgtResetKey value s
  | .statusByte => Sys2Proof.Machine.execStatusByte s
  | .statusWord => Sys2Proof.Machine.execStatusWord s
  | .statusInput => Sys2Proof.Machine.execStatusInput s
  | .statusTemperature => Sys2Proof.Machine.execStatusTemperature s
  | .readVin => Sys2Proof.Machine.execReadVin s
  | .readIin => Sys2Proof.Machine.execReadIin s
  | .readPin => Sys2Proof.Machine.execReadPin s
  | .readTemperature1 => Sys2Proof.Machine.execReadTemperature1 s
  | .readTemperature2 => Sys2Proof.Machine.execReadTemperature2 s
  | .readTemperature3 => Sys2Proof.Machine.execReadTemperature3 s
  | .pmbusRevision => Sys2Proof.Machine.execPmbusRevision s
  | .mfrId => Sys2Proof.Machine.execMfrId s
  | .mfrModel => Sys2Proof.Machine.execMfrModel s
  | .mfrSerial => Sys2Proof.Machine.execMfrSerial s
  | .mfrMgtAddr addr => Sys2Proof.Machine.execMfrMgtAddr addr s
  | .mfrMgtData write => Sys2Proof.Machine.execMfrMgtData write s
  | .pmbusRefused code => Sys2Proof.Machine.execPmbusRefused code s
  | .alertResponse => Sys2Proof.Machine.execAlertResponse s
  | .inputPowerUp addrSel => Sys2Proof.Machine.execInputPowerUp addrSel s
  | .bootStageEnd f => Sys2Proof.Machine.execBootStageEnd f s
  | .bootLimit => Sys2Proof.Machine.execBootLimit s
  | .inputSample vin iin pin => Sys2Proof.Machine.execInputSample vin iin pin s
  | .underVoltageShutdown => Sys2Proof.Machine.execUnderVoltageShutdown s
  | .overVoltageShutdown => Sys2Proof.Machine.execOverVoltageShutdown s
  | .inputRemoval => Sys2Proof.Machine.execInputRemoval s
  | .thermalTrip => Sys2Proof.Machine.execThermalTrip s
  | .capLoop pin chamberRail => Sys2Proof.Machine.execCapLoop pin chamberRail s
  | .dutyHold on => Sys2Proof.Machine.execDutyHold on s
  | .idleToReady => Sys2Proof.Machine.execIdleToReady s
  | .pointChangeStep g => Sys2Proof.Machine.execPointChangeStep g s
  | .keeperRound d => Sys2Proof.Machine.execKeeperRound d s
  | .predictorUpdate g t => Sys2Proof.Machine.execPredictorUpdate g t s
  | .coolantRead inlet outlet => Sys2Proof.Machine.execCoolantRead inlet outlet s
  | .hbmTemperatureReadout stack temp => Sys2Proof.Machine.execHbmTemperatureReadout stack temp s
  | .hbmRefresh stack => Sys2Proof.Machine.execHbmRefresh stack s
  | .hbmPatrolScrub g stack gallery odCorr odSevere passDone => Sys2Proof.Machine.execHbmPatrolScrub g stack gallery odCorr odSevere passDone s
  | .eventEscalation fromClass fromUnit kind ts => Sys2Proof.Machine.execEventEscalation fromClass fromUnit kind ts s
  | .chamberFaultRecovery c => Sys2Proof.Machine.execChamberFaultRecovery c s
  | .galleryHeartbeatMiss g => Sys2Proof.Machine.execGalleryHeartbeatMiss g s
  | .galleryFault g => Sys2Proof.Machine.execGalleryFault g s
  | .thermalHoldTimeout g => Sys2Proof.Machine.execThermalHoldTimeout g s
  | .memoryDataRecovery addr => Sys2Proof.Machine.execMemoryDataRecovery addr s
  | .channelFailure stack channel => Sys2Proof.Machine.execChannelFailure stack channel s
  | .stackWithdrawal stack => Sys2Proof.Machine.execStackWithdrawal stack s
  | .refetch block => Sys2Proof.Machine.execRefetch block s
  | .dieLinkFailure a b => Sys2Proof.Machine.execDieLinkFailure a b s
  | .detectSignal p => Sys2Proof.Machine.execDetectSignal p s
  | .detectRetry p => Sys2Proof.Machine.execDetectRetry p s
  | .equaliseComplete p lowOk highOk => Sys2Proof.Machine.execEqualiseComplete p lowOk highOk s
  | .lockAcquired p => Sys2Proof.Machine.execLockAcquired p s
  | .trainFail p => Sys2Proof.Machine.execTrainFail p s
  | .capsFlit p r => Sys2Proof.Machine.execCapsFlit p r s
  | .dataFlit p f => Sys2Proof.Machine.execDataFlit p f s
  | .portFailure p => Sys2Proof.Machine.execPortFailure p s
  | .portHistoryReady p => Sys2Proof.Machine.execPortHistoryReady p s
  | .packetRoute p k => Sys2Proof.Machine.execPacketRoute p k s
  | .data k e => Sys2Proof.Machine.execData k e s
  | .xferDone k => Sys2Proof.Machine.execXferDone k s
  | .xferNack k => Sys2Proof.Machine.execXferNack k s
  | .segmentResend xferId => Sys2Proof.Machine.execSegmentResend xferId s
  | .segmentEntryExpiry src xferId => Sys2Proof.Machine.execSegmentEntryExpiry src xferId s
  | .timeFlitSend p => Sys2Proof.Machine.execTimeFlitSend p s
  | .timeFlit p f => Sys2Proof.Machine.execTimeFlit p f s
  | .dieTimeExchange d errorSixteenths => Sys2Proof.Machine.execDieTimeExchange d errorSixteenths s
  | .claimGrant job => Sys2Proof.Machine.execClaimGrant job s
  | .claim k => Sys2Proof.Machine.execClaim k s
  | .piece k => Sys2Proof.Machine.execPiece k s
  | .credit k => Sys2Proof.Machine.execCredit k s
  | .done k => Sys2Proof.Machine.execDone k s
  | .abortPacket k => Sys2Proof.Machine.execAbortPacket k s
  | .collProgressTimeout job collSeq => Sys2Proof.Machine.execCollProgressTimeout job collSeq s
  | .abortCompletion job collSeq => Sys2Proof.Machine.execAbortCompletion job collSeq s
  | .probe k => Sys2Proof.Machine.execProbe k s
  | .probeAck k => Sys2Proof.Machine.execProbeAck k s
  | .probeTimeout job rank restartStep => Sys2Proof.Machine.execProbeTimeout job rank restartStep s
  | .loss k => Sys2Proof.Machine.execLoss k s
  | .lossCompletion job => Sys2Proof.Machine.execLossCompletion job s
  | .linkDown k => Sys2Proof.Machine.execLinkDown k s
  | .jobHello k => Sys2Proof.Machine.execJobHello k s
  | .jobHelloAck k => Sys2Proof.Machine.execJobHelloAck k s
  | .jobHelloTimeout h => Sys2Proof.Machine.execJobHelloTimeout h s
  | .transportData p k => Sys2Proof.Machine.execTransportData p k s
  | .transportAck p k => Sys2Proof.Machine.execTransportAck p k s
  | .transportReset p k => Sys2Proof.Machine.execTransportReset p k s
  | .edgeRto p flowId psn => Sys2Proof.Machine.execEdgeRto p flowId psn s
  | .ackTimer p flowId => Sys2Proof.Machine.execAckTimer p flowId s
  | .neighborSolicitation p iface target => Sys2Proof.Machine.execNeighborSolicitation p iface target s
  | .echoRequest p iface target body => Sys2Proof.Machine.execEchoRequest p iface target body s
  | .priorityFlowControl p iface priorities => Sys2Proof.Machine.execPriorityFlowControl p iface priorities s
  | .frameDiscard p => Sys2Proof.Machine.execFrameDiscard p s
  | .pcieReset => Sys2Proof.Machine.execPcieReset s
  | .perstDeassert => Sys2Proof.Machine.execPerstDeassert s
  | .trstN => Sys2Proof.Machine.execTrstN s
  | .bypass => Sys2Proof.Machine.execBypass s
  | .idcode => Sys2Proof.Machine.execIdcode s
  | .samplePreload => Sys2Proof.Machine.execSamplePreload s
  | .extest => Sys2Proof.Machine.execExtest s
  | .svlStatus => Sys2Proof.Machine.execSvlStatus s
  | .svlImgLoad data => Sys2Proof.Machine.execSvlImgLoad data s
  | .svlImgCommit => Sys2Proof.Machine.execSvlImgCommit s
  | .svlKeyProv => Sys2Proof.Machine.execSvlKeyProv s
  | .keyTreeRebuild next => Sys2Proof.Machine.execKeyTreeRebuild next s
  | .attestTokenRefill => Sys2Proof.Machine.execAttestTokenRefill s
  | .nvLineWrite ok => Sys2Proof.Machine.execNvLineWrite ok s
  | .interruptCoalescing q => Sys2Proof.Machine.execInterruptCoalescing q s
  | .powerTransitionComplete => Sys2Proof.Machine.execPowerTransitionComplete s
  | .busMasterEnable value => Sys2Proof.Machine.execBusMasterEnable value s
  | .capsFlitSend p => Sys2Proof.Machine.execCapsFlitSend p s
  | .dieLinkTrained a b => Sys2Proof.Machine.execDieLinkTrained a b s

end Sys2Proof.Machine
end

