-- ==== Sys2Proof/Machine/Tick.lean ====
section
/-!
DEFINITION. What happens with no command waiting: one tick of module time passes (R313), with what the hardware does by the
clock alone.
-/
namespace Sys2Proof.Machine

/-- The slew of a converged module (R316): at most 100 ppm, a sixteenth of a tick in 625 ticks. -/
def State.slewTick (s : State) : State :=
  if s.slew = 0 then s
  else if s.slewTicks + 1 < 625 then { s with slewTicks := s.slewTicks + 1 }
  else
    let x : Int := if s.slew < 0 then -1 else 1
    { s with slewTicks := 0, slew := s.slew - x }.shiftTime x

/-- A port's occupancy of its partner's buffer goes into the mean of the present 64 µs; at their end the mean is shown, rounded
as a free value says (R292). -/
def State.congestTick (s : State) (p : Nat) : State :=
  let sum := (s.port p).occSum + (s.port p).used.foldl (· + ·) 0
  if s.now % 128000 ≠ 0 then (if sum = 0 then s else s.modPort p (fun x => { x with occSum := sum }))
  else
    let (f, s1) := s.takeFree
    let s := if sum % 128000 = 0 then s else s1
    (s.modPort p (fun x => { x with occSum := 0 })).put .portCongest p (sum / 128000 + (if sum % 128000 = 0 then 0 else f % 2))

/-- A port with flits that are not acknowledged fails when `ACK_SEQ` has not advanced for 10 µs (R275). -/
def State.ackTick (s : State) (p : Nat) : State :=
  if s.reg .portLinkState p = 6 && !(s.port p).retry.isEmpty && decide ((s.port p).ackAt + 20000 ≤ s.now) then s.declareFailed p else s

/-- Chamber clocks of a Gallery in Running: (30 − i) / 20 clocks a tick at point i, half of that under an emergency divide
(R358, R364). -/
def State.clockTick (s : State) (g : Nat) : State :=
  if s.reg .glRailGated g = 1 then s
  else
    let d := if s.reg .glDivided g = 1 then 1 else 2
    let part := (s.galPower g).clockPart + d * (30 - s.reg .glPointNow g)
    let s := s.modGalPower g (fun x => { x with clockPart := part % 40 })
    let n := part / 40
    if n = 0 then s
    else
      (List.range 8).foldl (fun s i =>
        let c := 8 * g + i
        let s := s.bump .chCycles c n
        -- a SWEEP that a fault freeze holds in the middle (R73)
        let s := if s.reg .chFrozen c = 1 then (s.bump .chFreezeTotal c n).bump .chFreezeFault c n else s
        if s.reg .chIdle c = 1 then s.bump .chIdleCycles c n else s) s

/-- A tick at 2× refresh: 2,000 of them are a microsecond more (R242, R244). -/
def State.refreshTick (s : State) (k : Nat) : State :=
  if s.reg .hbmRefresh2x k = 0 then s
  else
    let n := (s.galPower k).refreshPart + 1
    let s := s.modGalPower k (fun x => { x with refreshPart := n % 2000 })
    if n = 2000 then s.bump .hbmRefresh2xTime k 1 else s

/-- The control complex retires blocks whose row segments reads have found at the limit (R238). -/
def State.retireTick (s : State) : State :=
  (s.gmem.filter (fun e => !e.2.corrected.isEmpty)).foldl (fun s e => s.retireCorrected e.1) s

/-- Queues that drain are ABSENT once their last command has completed and their last reply is written (R247). -/
def State.drainQueues (s : State) : State :=
  (s.queues.filter (fun x => x.2.state == .draining)).foldl (fun s x => s.tryAbsent x.1) s

/-- One tick of module time. Module time runs once the complex has left reset, that is from boot stage 1 (R313, R385);
with the converter off there is no clock. A field of 64 bits wraps. A CONTEXT_SAVE whose job has come to rest goes on. -/
def State.tick (s : State) : State :=
  if s.reg .modBootStage 0 = 0 then s
  else
    let s := (s.bump .modTimeNow 0 1).slewTick
    let s := if s.strandsBusy then { s with power := { s.power with busyAt := s.now } } else s
    let s := (List.range 6).foldl State.congestTick s
    let s := (List.range 6).foldl State.ackTick s
    let s := if s.reg .modPowerState 0 = 3 then (List.range 32).foldl State.clockTick s else s
    let s := (List.range 32).foldl State.refreshTick s
    s.retireTick.drainQueues.trySaves

end Sys2Proof.Machine
end

