-- ==== Sys2Proof/WellFormed.lean ====
section
/-!
DEFINITION. Well-formed commands: every operand lies in the range that the field, the parameter or the unit number of
the spec gives it. A meaning is total and does not ask for it; a command outside these ranges is none that the hardware
can be given.
-/
namespace Sys2Proof

open Machine (fieldInfo Block)

/-! ### Ranges of operands -/

/-- A value of n bits. -/
def fits (n v : Nat) : Bool := decide (v < 2 ^ n)

/-- Units of the module (R1, R3, R11) and of a Chamber (R90, R94). -/
def chamberOk (c : Nat) : Bool := decide (c < 256)
def strandOk (c s : Nat) : Bool := chamberOk c && decide (s < 4)
def galleryOk (g : Nat) : Bool := decide (g < 32)
def dieOk (d : Nat) : Bool := decide (d < 8)

/-- Two dies are linked: their numbers differ in exactly one bit (R4). -/
def linkOk (a b : Nat) : Bool := Machine.linked a b
def portOk (p : Nat) : Bool := decide (p < 6)
def queueOk (q : Nat) : Bool := decide (q < 64)

/-- A command's queue and `CMD_SEQ` (R249). -/
def Cmd.wf (h : Cmd) : Bool := queueOk h.queue && fits 32 h.seq

/-- Bytes that fit a parameter or a payload. -/
def bytesUpTo (n : Nat) (bs : List Byte) : Bool := decide (bs.length ≤ n)

/-- A vector register (R90, R95). -/
def vregOk (r : Nat) : Bool := decide (r < 32)

/-- A list of values of n bits. -/
def allFit (n : Nat) (vs : List Nat) : Bool := vs.all (fits n)

/-- The unit, and the copy, of a register field (R405). -/
def fieldOk (f : Field) (unit idx : Nat) : Bool :=
  decide (unit < (fieldInfo f).block.units) && decide (idx < max 2 (fieldInfo f).copies)

/-- A module address (R3). -/
def moduleOk (a : Nat) : Bool := fits 18 a

/-- An element of the control tree (R13). -/
def Machine.elemOk : Elem → Bool
  | .chamber c => chamberOk c
  | .gallery g => galleryOk g
  | .die d => dieOk d
  | .link a b => linkOk a b
  | .junction d => dieOk d

/-! ### Records -/

def QueueParams.wf (p : QueueParams) : Bool :=
  allFit 8 [p.queueId, p.priority, p.fmtMin, p.fmtMax, p.sqLog2, p.stqLog2, p.fwIf] &&
    allFit 16 [p.msix, p.coalesceCount, p.coalesceUs] && allFit 64 [p.sqBase, p.stqBase]

def JobParams.wf (p : JobParams) : Bool :=
  allFit 8 [p.major, p.minor, p.numerics, p.collOrder, p.sfMode, p.generator] && fits 16 p.tag && fits 128 p.seed &&
    fits 64 p.rankMap && fits 32 p.rankCount

def TensorParams.wf (p : TensorParams) : Bool :=
  allFit 32 [p.id, p.scale, p.rows, p.cols] && allFit 64 [p.base, p.rowStride, p.saveBase, p.idxBase] &&
    allFit 8 [p.format, p.space, p.policy, p.histH, p.histM, p.saveMode, p.saveFmt, p.pageHalf]

def ContractParams.wf (p : ContractParams) : Bool :=
  allFit 32 [p.a, p.b, p.out, p.kSeg, p.batchKey, p.deadlineNs, p.listCount] && allFit 8 [p.role, p.rnd, p.drainFunc] &&
    fits 16 p.stageId && allFit 64 [p.stream, p.lenAddr, p.gmaskAddr, p.listAddr] &&
    decide (p.edges.length ≤ 16) && allFit 32 p.edges

def ConvolveParams.wf (p : ConvolveParams) : Bool :=
  allFit 32 [p.x, p.w, p.out, p.stripes] && allFit 8 [p.role, p.rnd, p.drainFunc, p.fsRate] && allFit 64 [p.geomAddr, p.stream]

def AttendParams.wf (p : AttendParams) : Bool :=
  allFit 32 [p.q, p.out, p.scoreScale, p.keySeg, p.listCount] && allFit 8 [p.pass, p.rnd] &&
    allFit 64 [p.kRef, p.vRef, p.rsAddr, p.listAddr, p.stream] && decide (p.edges.length ≤ 16) && allFit 32 p.edges

def MapParams.wf (p : MapParams) : Bool :=
  allFit 32 [p.src, p.src2, p.dst] && fits 8 p.rnd && fits 64 p.stream &&
    decide (1 ≤ p.words.length) && decide (p.words.length ≤ 15) && allFit 64 p.words

def OptParams.wf (p : OptParams) : Bool :=
  allFit 32 [p.w, p.m, p.v, p.dw, p.wcopy, p.b1, p.b2, p.c1, p.c2, p.h1, p.h2, p.e2, p.lam, p.negLr] && fits 8 p.rnd &&
    allFit 64 [p.gmaskAddr, p.stream]

def XferParams.wf (p : XferParams) : Bool :=
  allFit 64 [p.src, p.dst, p.length, p.ctrAddr, p.increment] && moduleOk p.dstModule && allFit 8 [p.route, p.edgePort] &&
    fits 32 p.edgeFlow

def CollParams.wf (p : CollParams) : Bool :=
  allFit 64 [p.collSeq, p.stream] && allFit 32 [p.src, p.dst, p.root] && allFit 8 [p.dims, p.reduce, p.rnd]

def SweepWord.wf (w : SweepWord) : Bool :=
  fits 3 w.pair && decide (w.bank < 2) && fits 24 w.kBlock && fits 8 w.outTag

def TempReading.wf (t : TempReading) : Bool :=
  allFit 8 [t.dieTemp, t.stackBase, t.diePred, t.stackPred] && fits 4 t.predIndex

def CapsRecord.wf (r : CapsRecord) : Bool :=
  allFit 8 [r.partKind, r.protoMax, r.protoMin, r.rates, r.contractMajor, r.contractMinor, r.port, r.timeState] &&
    moduleOk r.moduleAddr && fits 64 r.timeNow

def Flit.wf (f : Flit) : Bool :=
  allFit 12 [f.seq, f.ackSeq] && fits 3 f.creditVc && bytesUpTo 244 f.payload && fits 32 f.crc

def TimeFlit.wf (f : TimeFlit) : Bool :=
  allFit 64 [f.tTx, f.tRxLast, f.tTxEcho, f.rxTime] && allFit 4 [f.fineTx, f.fineRx, f.rxFine, f.echoFine] &&
    allFit 8 [f.tstate, f.hops] && moduleOk f.rootAddr

def Packet.wf (k : Packet) : Bool :=
  fits 8 k.type && fits 3 k.vc && moduleOk k.dest && moduleOk k.src && fits 8 k.reason && fits 16 k.tag && fits 64 k.ts &&
    allFit 32 [k.xferId, k.pktIndex] && bytesUpTo 4096 k.payload && bytesUpTo 32 k.ext

def DataExt.wf (e : DataExt) : Bool := allFit 64 [e.destAddr, e.ctrAddr, e.increment] && fits 32 e.pktTotal

def CollPacket.wf (k : CollPacket) : Bool :=
  moduleOk k.src && fits 16 k.tag && allFit 64 [k.ts, k.collSeq, k.elemOffset] && allFit 32 [k.pktIndex, k.chunk, k.count] &&
    allFit 8 [k.step, k.wireFmt] && bytesUpTo 4096 k.payload

def MgmtPacket.wf (k : MgmtPacket) : Bool := moduleOk k.src && fits 16 k.tag && fits 32 k.jobId && bytesUpTo 4096 k.payload

def TransportPacket.wf (k : TransportPacket) : Bool :=
  fits 128 k.srcAddr && fits 16 k.srcPort && fits 8 k.flags && allFit 32 [k.flowId, k.psn, k.ackPsn, k.xferId] &&
    fits 64 k.offsetOrSack && bytesUpTo 8192 k.payload

/-! ### Commands -/

/-- Every operand of a command lies in its range. -/
def Instr.wf : Instr → Bool
  | .identify h a => h.wf && fits 64 a
  | .queueCreate h p => h.wf && p.wf
  | .queueDelete h q m => h.wf && fits 8 q && fits 8 m
  | .cancel h q n => h.wf && fits 8 q && fits 32 n
  | .jobAdmit h p => h.wf && p.wf
  | .jobEnd h => h.wf
  | .stageBind h id l st m => h.wf && fits 16 id && fits 8 l && fits 8 st && fits 256 m
  | .memAlloc h n sp pl => h.wf && fits 64 n && fits 8 sp && fits 8 pl
  | .memFree h a => h.wf && fits 64 a
  | .memWrite h a bs => h.wf && fits 64 a && bytesUpTo 984 bs
  | .memRead h a n d => h.wf && fits 64 a && fits 32 n && fits 64 d
  | .memFill h a n x => h.wf && fits 64 a && fits 64 n && fits 64 x
  | .ptUpdate h a i m es => h.wf && fits 64 a && fits 32 i && fits 8 m && decide (1 ≤ es.length) && decide (es.length ≤ 106) && allFit 64 es
  | .tensorCreate h p => h.wf && p.wf
  | .tensorDestroy h id => h.wf && fits 32 id
  | .scaleSet h id x => h.wf && fits 32 id && fits 32 x
  | .contract h p => h.wf && p.wf
  | .convolve h p => h.wf && p.wf
  | .attend h p => h.wf && p.wf
  | .map h p => h.wf && p.wf
  | .sample h a g => h.wf && fits 64 a && fits 8 g
  | .optStep h p => h.wf && p.wf
  | .stageRun h c s pr a => h.wf && fits 8 c && fits 8 s && fits 8 pr && fits 64 a
  | .xfer h p => h.wf && p.wf
  | .counterSignal h a n => h.wf && fits 64 a && fits 64 n
  | .allReduce h p => h.wf && p.wf
  | .reduceScatter h p => h.wf && p.wf
  | .allGather h p => h.wf && p.wf
  | .broadcast h p => h.wf && p.wf
  | .powerState h t => h.wf && fits 8 t
  | .powerCap h n => h.wf && fits 32 n
  | .settingsStore h o bs => h.wf && fits 32 o && bytesUpTo 984 bs
  | .attest h n a => h.wf && fits 256 n && fits 64 a
  | .contextSave h j d => h.wf && fits 32 j && fits 64 d
  | .contextRestore h a => h.wf && fits 64 a
  | .logRead h a n t => h.wf && fits 64 a && fits 32 n && fits 64 t
  | .slotTableSet h g t => h.wf && fits 8 g && decide (t.length = 32) && allFit 32 t
  | .cacheSplit h m n => h.wf && fits 32 m && fits 8 n
  | .fwActivate h a => h.wf && fits 64 a
  | .fabricConfig h bs => h.wf && bytesUpTo 992 bs
  | .nop h => h.wf
  | .commandFetch => true
  | .commandStart h => h.wf
  | .depFuture h i => h.wf && decide (i < 8)
  | .commandTimeout h => h.wf
  | .counterDependencyTimeout h => h.wf
  | .batchDeadline h => h.wf
  | .statusEntryWrite q => queueOk q
  | .programNop c s => strandOk c s
  | .load c s d t b k m => strandOk c s && fits 8 d && fits 2 t && decide (b < 2) && fits 24 k && fits 20 m
  | .copy c s a b r n => strandOk c s && fits 8 a && fits 8 b && fits 20 r && fits 20 n
  | .vload c s d v r n => strandOk c s && fits 8 d && vregOk v && fits 20 r && fits 20 n
  | .sweep c s w _ => strandOk c s && w.wf
  | .bind c s t d m n => strandOk c s && fits 8 t && fits 8 d && fits 20 m && fits 20 n
  | .vop c s o d a b _ v => strandOk c s && fits 6 o && vregOk d && vregOk a && vregOk b && fits 32 v
  | .sfop c s f d a x => strandOk c s && fits 6 f && vregOk d && vregOk a && fits 32 x
  | .smxSum c s d a x => strandOk c s && vregOk d && vregOk a && fits 32 x
  | .smxProb c s d a x => strandOk c s && vregOk d && vregOk a && fits 32 x
  | .rsClear c s => strandOk c s
  | .rsFinish c s => strandOk c s
  | .rsOut c s i => strandOk c s && fits 32 i
  | .rsIn c s i => strandOk c s && fits 32 i
  | .rsAcc c s i => strandOk c s && fits 32 i
  | .gauss c s d a x => strandOk c s && vregOk d && vregOk a && fits 32 x
  | .vstore c s d v r n => strandOk c s && fits 8 d && vregOk v && fits 20 r && fits 20 n
  | .wait c s k n => strandOk c s && fits 8 k && fits 48 n
  | .signal c s k n => strandOk c s && fits 8 k && fits 32 n
  | .ldlen c s l a => strandOk c s && fits 4 l && fits 48 a
  | .nest c s d => strandOk c s && fits 8 d
  | .boundary c s n => strandOk c s && fits 48 n
  | .fence c s => strandOk c s
  | .endWord c s => strandOk c s
  | .strandDone c s => strandOk c s
  | .bankDrain c b => chamberOk c && decide (b < 2)
  | .bankRefill c b => chamberOk c && decide (b < 2)
  | .checkVerdict c => chamberOk c
  | .go c s => strandOk c s
  | .admissionScan c s => strandOk c s
  | .abort c s => strandOk c s
  | .waitTimeout c s => strandOk c s
  | .counterWatchWake g a => galleryOk g && fits 48 a
  | .waitPoll c s => strandOk c s
  | .pocketPatrolScrub c f => chamberOk c && allFit 23 f.corrected && allFit 23 f.uncorrectable
  | .tableLoad c => chamberOk c
  | .tableLoadComplete c => chamberOk c
  | .sfEpochSwitch c _ => chamberOk c
  | .oldBankRelease c => chamberOk c
  | .slotCommit g => galleryOk g
  | .slotFrameBoundary g => galleryOk g
  | .cacheStepsWrite g n => galleryOk g && fits 3 n
  | .stop _ e _ => Machine.elemOk e
  | .start _ e => Machine.elemOk e
  | .restart _ e => Machine.elemOk e
  | .retire c => chamberOk c
  | .retrain p => portOk p
  | .edgeCommit p => portOk p
  | .inService p => portOk p
  | .mode p v => portOk p && fits 1 v
  | .aqEnable v => fits 1 v
  | .aqReset => true
  | .sqTail q v => queueOk q && fits 32 v
  | .stqHead q v => queueOk q && fits 32 v
  | .registerWrite _ f u i v => fieldOk f u i && fits 64 v
  | .mgtCap v => fits 32 v
  | .mgtResetKey v => fits 32 v
  | .statusByte | .statusWord | .statusInput | .statusTemperature | .readVin | .readIin | .readPin | .readTemperature1
  | .readTemperature2 | .readTemperature3 | .pmbusRevision | .mfrId | .mfrModel | .mfrSerial => true
  | .mfrMgtAddr a => fits 16 a
  | .mfrMgtData w => match w with | some v => fits 32 v | none => true
  | .pmbusRefused n => fits 8 n
  | .alertResponse => true
  | .inputPowerUp a => fits 2 a
  | .bootStageEnd f => f.failedChambers.all chamberOk && f.failedStacks.all galleryOk && f.failedDies.all dieOk
  | .bootLimit => true
  | .inputSample v i p => fits 16 v && fits 16 i && fits 16 p
  | .underVoltageShutdown | .overVoltageShutdown | .inputRemoval | .thermalTrip => true
  | .capLoop p r => fits 16 p && fits 16 r
  | .dutyHold _ => true
  | .idleToReady => true
  | .pointChangeStep g => galleryOk g
  | .keeperRound d => dieOk d
  | .predictorUpdate g t => galleryOk g && t.wf
  | .coolantRead a b => fits 8 a && fits 8 b
  | .hbmTemperatureReadout k t => galleryOk k && fits 8 t
  | .hbmRefresh k => galleryOk k
  | .hbmPatrolScrub g a b _ _ _ =>
    galleryOk g && allFit 48 a.corrected && allFit 48 a.uncorrectable && allFit 48 b.corrected && allFit 48 b.uncorrectable
  | .eventEscalation _ _ _ t => fits 64 t
  | .chamberFaultRecovery c => chamberOk c
  | .galleryHeartbeatMiss g => galleryOk g
  | .galleryFault g => galleryOk g
  | .thermalHoldTimeout g => galleryOk g
  | .memoryDataRecovery a => fits 48 a
  | .channelFailure k n => galleryOk k && fits 5 n
  | .stackWithdrawal k => galleryOk k
  | .refetch b => fits 25 b
  | .dieLinkFailure a b => linkOk a b
  | .detectSignal p => portOk p
  | .detectRetry p => portOk p
  | .equaliseComplete p _ _ => portOk p
  | .lockAcquired p => portOk p
  | .trainFail p => portOk p
  | .capsFlit p r => portOk p && r.wf
  | .dataFlit p f => portOk p && f.wf
  | .portFailure p => portOk p
  | .portHistoryReady p => portOk p
  | .packetRoute p k => portOk p && k.wf
  | .data k e => k.wf && e.wf
  | .xferDone k => k.wf
  | .xferNack k => k.wf
  | .segmentResend n => fits 32 n
  | .segmentEntryExpiry m n => moduleOk m && fits 32 n
  | .timeFlitSend p => portOk p
  | .timeFlit p f => portOk p && f.wf
  | .dieTimeExchange d _ => dieOk d
  | .claimGrant j => fits 32 j
  | .claim k => k.wf
  | .piece k => k.wf
  | .credit k => k.wf
  | .done k => k.wf
  | .abortPacket k => k.wf
  | .collProgressTimeout j n => fits 32 j && fits 64 n
  | .abortCompletion j n => fits 32 j && fits 64 n
  | .probe k => k.wf
  | .probeAck k => k.wf
  | .probeTimeout j r n => fits 32 j && fits 32 r && fits 64 n
  | .loss k => k.wf
  | .lossCompletion j => fits 32 j
  | .linkDown k => k.wf
  | .jobHello k => k.wf
  | .jobHelloAck k => k.wf
  | .jobHelloTimeout h => h.wf
  | .transportData p k => portOk p && k.wf
  | .transportAck p k => portOk p && k.wf
  | .transportReset p k => portOk p && k.wf
  | .edgeRto p f n => portOk p && fits 32 f && fits 32 n
  | .ackTimer p f => portOk p && fits 32 f
  | .neighborSolicitation p i t => portOk p && decide (i < 4) && fits 128 t
  | .echoRequest p i t bs => portOk p && decide (i < 4) && fits 128 t && bytesUpTo 4096 bs
  | .priorityFlowControl p i n => portOk p && decide (i < 4) && fits 8 n
  | .frameDiscard p => portOk p
  | .pcieReset | .perstDeassert | .trstN | .bypass | .idcode | .samplePreload | .extest | .svlStatus => true
  | .svlImgLoad bs => bytesUpTo 0x200000 bs
  | .svlImgCommit | .svlKeyProv => true
  | .keyTreeRebuild _ => true
  | .attestTokenRefill => true
  | .nvLineWrite _ => true
  | .interruptCoalescing q => queueOk q
  | .powerTransitionComplete => true
  | .busMasterEnable _ => true
  | .capsFlitSend p => portOk p
  | .dieLinkTrained a b => linkOk a b

end Sys2Proof
end

