-- ==== Sys2Proof/Safety.lean ====
section
/-!
DEFINITION. The terms that claims about the module use: well-formed states, what a command's completion records, and
frames, which say what a command leaves as it was.
-/
namespace Sys2Proof.Machine

/-! ### Well-formed states -/

/-- The canonical form of a byte memory: addresses strictly rising, no entry equal to what an unlisted address reads as. -/
def Memory.wf (m : Tbl Byte) : Bool := twf 0 m

/-- A state whose memories are canonical and whose registers hold values of their widths. -/
structure State.wf (s : State) : Prop where
  mem : Memory.wf s.mem = true
  hostMem : Memory.wf s.hostMem = true
  poison : twf false s.poison = true
  regs : ∀ f u i, s.reg f u i < 2 ^ (fieldInfo f).width

/-! ### Commands of the host -/

/-- The status that the outcome table holds for a command (R253). -/
def State.outcomeOf (s : State) (h : Cmd) : Option Nat := (s.outcomes.find? (fun o => o.cmd == h)).map (·.status)

/-- A command is complete with a status: it is outstanding no more and its outcome is recorded (R253, R257). -/
def State.isDone (s : State) (h : Cmd) (status : Nat) : Prop := s.isOut h = false ∧ s.outcomeOf h = some status

/-- A command has been taken on and goes on after its row: it is outstanding and marked as held. -/
def State.isHeld (s : State) (h : Cmd) : Prop := ∃ o ∈ s.outstanding, o.cmd = h ∧ o.phase = .held

/-- The command's reply waits for its queue's status ring (R257), with `OK` and a result. -/
def State.hasReply (s : State) (h : Cmd) (result : Nat) : Prop :=
  ∃ r ∈ (s.queue h.queue).replies, r.queue = h.queue ∧ r.seq = h.seq ∧ r.status = 0 ∧ r.result = result

/-- A successful command of this header gives a status entry: it carries no `QUIET`, and its queue is not silent (R249,
R406). -/
def State.replying (s : State) (h : Cmd) : Prop := bit (s.entry h).flags 3 = false ∧ (s.queue h.queue).silent = false

/-- No check of a list fails. -/
def passes (cs : List Check) : Prop := firstBad cs = none

/-! ### Frames -/

/-- Every register holds the value it held, but for the copies that `p` names. -/
def sameRegs (p : Field → Nat → Nat → Prop) (s t : State) : Prop := ∀ f u i, ¬ p f u i → t.reg f u i = s.reg f u i

/-- The counters of R328 that a log entry moves. -/
def logReg (f : Field) : Prop := f = .modLogEntries ∨ f = .modLogLost

/-- `t` is `s` but for what the completion of a command writes: its outcome, its place among the outstanding commands, its
queue's reply, and the log. -/
def completionOnly (s t : State) : Prop :=
  { t with regs := s.regs, logs := s.logs, logSeq := s.logSeq, outstanding := s.outstanding, outcomes := s.outcomes
           queues := s.queues } = s ∧ sameRegs (fun f _ _ => logReg f) s t

/-- What lies outside the registers and the Chambers is as it was: all of memory, queues, jobs, ports and the rest. -/
def outsideSame (s t : State) : Prop := { t with regs := s.regs, chambers := s.chambers } = s

/-- Every byte of memory outside `[a, a + n)` reads as before. -/
def memoryOutside (a n : Nat) (s t : State) : Prop := ∀ x, ¬ (a ≤ x ∧ x < a + n) → t.byte x = s.byte x

/-- The 64 bytes of the error ring that the next error record takes (R348). -/
def State.errSlot (s : State) : Nat := s.reg .modErrBase 0 + 64 * (s.reg .modErrCount 0 % 1024)

/-- Of module memory only the place of the next error record may change. -/
def recordOnly (s t : State) : Prop := memoryOutside s.errSlot 64 s t

/-- What lies outside the registers, the Chambers and what a store to module memory moves is as it was: memory, its poison marks,
the lost lines that become marks, the transfer sources, and the copies of lines in the caches with the filters that list them
(R232, R240, R342). -/
def outsideMemory (s t : State) : Prop :=
  { t with regs := s.regs, chambers := s.chambers, mem := s.mem, poison := s.poison, xferSources := s.xferSources
           caches := s.caches, sharers := s.sharers, lost := s.lost } = s

/-- What reads of memory move outside the registers and the Chambers: found errors that a memory corrects, caches and filters, the
count of free values, and, where a block is marked for refetching, its marks (R87, R231, R232, R236, R343). Module memory and the
rest are as they were. -/
def outsideReads (s t : State) : Prop :=
  { t with regs := s.regs, chambers := s.chambers, soft := s.soft, gmem := s.gmem, caches := s.caches, sharers := s.sharers
           fresh := s.fresh, poison := s.poison, lost := s.lost } = s ∧
    (∀ g, { t.gallery g with corrected := (s.gallery g).corrected, refetch := (s.gallery g).refetch } = s.gallery g) ∧
    (s.refetching = false → t.poison = s.poison ∧ t.lost = s.lost)

/-- What reads and stores move together. -/
def outsideMoves (s t : State) : Prop :=
  { t with regs := s.regs, chambers := s.chambers, mem := s.mem, poison := s.poison, xferSources := s.xferSources
           soft := s.soft, gmem := s.gmem, caches := s.caches, sharers := s.sharers, fresh := s.fresh, lost := s.lost } = s ∧
    ∀ g, { t.gallery g with corrected := (s.gallery g).corrected, refetch := (s.gallery g).refetch } = s.gallery g

/-- The registers that a store to module memory moves: bytes, bursts and requests of a stack (R231, R243, R244). -/
def storeReg (f : Field) (k : Nat) : Prop := f = .glClassIssued ∨ (k = 0 ∧ (f = .hbmWriteBytes ∨ f = .hbmRmwWrites))

/-- The registers that reads of memory move: those of the caches, the filters, the Drip path, the requests, the page walks and the
corrected errors (R87, R172, R243, R244, R312). -/
def trafficReg (f : Field) : Prop :=
  f ∈ [Field.glCacheHits, .glCacheMisses, .glDripReads, .glClassIssued, .hbmReadBytes, .hbmBackinv, .hbmCorrCnt, .glGmCorr,
    .chPocketCorr, .modSumpCorr, .chWalks, .chWalkMisses]

/-- The other Chambers, and in Chamber c the other strands and all but vector registers, are as they were. -/
structure chamberFrame (c i : Nat) (s t : State) : Prop where
  others : ∀ d, d ≠ c → t.chamber d = s.chamber d
  strands : ∀ j, j ≠ i → t.strand c j = s.strand c j
  banks : (t.chamber c).banks = (s.chamber c).banks
  store : (t.chamber c).store = (s.chamber c).store
  ring : (t.chamber c).boundaryPos = (s.chamber c).boundaryPos
  tables : (t.chamber c).sf0 = (s.chamber c).sf0 ∧ (t.chamber c).sf1 = (s.chamber c).sf1

/-- `t` is `s` but for what a compute command moves: memory and what stores and reads of it move, the registers, its completion and
the log, and what firmware keeps of the job: tensors, groups, programs, saved progress and the job of each Chamber. -/
def computeOnly (s t : State) : Prop :=
  { t with regs := s.regs, logs := s.logs, logSeq := s.logSeq, outstanding := s.outstanding, outcomes := s.outcomes
           queues := s.queues, mem := s.mem, poison := s.poison, xferSources := s.xferSources, caches := s.caches
           sharers := s.sharers, lost := s.lost, gmem := s.gmem, soft := s.soft, fresh := s.fresh, tensors := s.tensors
           groups := s.groups, plans := s.plans, progress := s.progress, chambers := s.chambers } = s ∧
    (∀ c, { t.chamber c with job := (s.chamber c).job } = s.chamber c) ∧
    (∀ g, { t.gallery g with refetch := (s.gallery g).refetch, corrected := (s.gallery g).corrected } = s.gallery g)

/-! ### Words of a stage program -/

/-- Strand i has Chamber c and issues a word of its program now (R98 to R100). -/
def issues (c i : Nat) (s : State) : Prop := i < 4 ∧ s.mayIssue c i none = true

/-- A NEST of strand i emits its next word e now (R133). -/
def emits (c i : Nat) (e : EWord) (s : State) : Prop := i < 4 ∧ s.mayIssue c i (some e) = true

/-- The strand has issued the word and passed it (R97, R98, R106). -/
def passed (c i : Nat) (s t : State) : Prop :=
  t.reg .chPc c i = (s.reg .chPc c i + 1) % 2 ^ 16 ∧ t.reg .chIssued c i = (s.reg .chIssued c i + 1) % 2 ^ 64 ∧
    t.reg .chState c i = psRunning

/-- The registers that the issue of a word writes. -/
def issueReg (c i : Nat) (f : Field) (u k : Nat) : Prop := u = c ∧ k = i ∧ (f = .chPc ∨ f = .chIssued ∨ f = .chState)

/-- The registers that record numeric flags (R62). -/
def flagReg (c i : Nat) (f : Field) (u k : Nat) : Prop :=
  u = c ∧ ((k = 0 ∧ f ∈ numFlagFields) ∨ (k = i ∧ f = .chStrandNumFlags))

/-- Strand i is as it was but for the count of its last issue. -/
def strandKept (c i : Nat) (s t : State) : Prop :=
  { t.strand c i with lastIssue := (s.strand c i).lastIssue } = s.strand c i

/-- The vector registers of a Chamber other than `dst` are as they were. -/
def vregsKept (c dst : Nat) (s t : State) : Prop := ∀ r, r ≠ dst → (t.chamber c).vreg r = (s.chamber c).vreg r

/-- What the issue of a word that touches no memory leaves alone: it has passed, and beside the registers of its issue and
of the numeric flags it writes those of the Chamber that `fs` lists. -/
structure wordFrame (c i : Nat) (fs : List Field) (s t : State) : Prop where
  passed : passed c i s t
  outside : outsideSame s t
  chambers : chamberFrame c i s t
  regs : sameRegs (fun f u k => issueReg c i f u k ∨ flagReg c i f u k ∨ (u = c ∧ k = 0 ∧ f ∈ fs)) s t

/-- What the issue of a word that stores to memory leaves alone, beside the bytes it stores to. -/
structure storeFrame (c i : Nat) (fs : List Field) (s t : State) : Prop where
  passed : passed c i s t
  outside : outsideMemory s t
  chambers : chamberFrame c i s t
  regs : sameRegs (fun f u k => issueReg c i f u k ∨ flagReg c i f u k ∨ (u = c ∧ k = 0 ∧ f ∈ fs) ∨ storeReg f k) s t

/-- What the issue of a word that reads tensors leaves alone; it stores nothing. -/
structure readFrame (c i : Nat) (fs : List Field) (s t : State) : Prop where
  passed : passed c i s t
  outside : outsideReads s t
  chambers : chamberFrame c i s t
  regs : sameRegs (fun f u k => issueReg c i f u k ∨ flagReg c i f u k ∨ (u = c ∧ k = 0 ∧ f ∈ fs) ∨ trafficReg f) s t

/-- What the issue of a word that reads tensors and stores to memory leaves alone, beside the bytes it stores to. -/
structure moveFrame (c i : Nat) (fs : List Field) (s t : State) : Prop where
  passed : passed c i s t
  outside : outsideMoves s t
  chambers : chamberFrame c i s t
  regs : sameRegs (fun f u k => issueReg c i f u k ∨ flagReg c i f u k ∨ (u = c ∧ k = 0 ∧ f ∈ fs) ∨ storeReg f k ∨ trafficReg f) s t

/-- A Cell's accumulator after n steps on feed words, from `acc` (R63): element `r` of A word k times element `j` of B
word k, in ascending k. -/
def cellAfter (strict : Bool) (fa fb : Nat) (aw bw : List (List Nat)) (r j : Nat) (acc : Acc44) : Nat → Acc44
  | 0 => acc
  | n + 1 => (accStep strict (cellAfter strict fa fb aw bw r j acc n)
      (cellProduct fa fb ((aw.getD n []).getD r 0) ((bw.getD n []).getD j 0))).1

/-- A tile that a SWEEP takes whole: 128 words of 128 elements, none poisoned, inside its bounds, of no score. -/
structure Tile.plain (t : Tile) : Prop where
  words : t.words.length = 128 ∧ ∀ k, k < 128 → (t.words.getD k []).length = 128
  poison : t.poison = []
  inK : 128 * t.blkK < t.kEnd
  inMN : 128 * t.blkMN < t.mnEnd
  score : t.isScore = false ∧ t.score = none

/-- An output, where it is known, that skips nothing of a run: its block lies inside its bounds and nothing is frozen. -/
def outPlain (o : Option OutInfo) : Prop :=
  ∀ x, o = some x → 128 * x.m < x.rEnd ∧ 128 * x.n < x.cEnd ∧ x.frozenBlock = false ∧ x.frozenRows = []

end Sys2Proof.Machine
end

