-- ==== Sys2Proof/Certificates/Slice0/Obligations.lean ====
section
/-!
DEFINITION. The statements for the provers.
-/
open Sys2Proof Sys2Proof.Machine

/-- R95: a NOP passes and does nothing else. R101: so does a FENCE once every earlier write of its strand is complete. R101,
R102, R104, R123: while a write of the strand is not complete, FENCE, SIGNAL, BOUNDARY, RS_FINISH and RS_OUT do not issue and
nothing changes. -/
def Obligations.PassingAndWaitingWords : Prop :=
  (∀ (s : State) (c i : Nat), issues c i s →
      (∃ t, exec (.programNop c i) s = .next t ∧ wordFrame c i [] s t ∧ sameRegs (issueReg c i) s t ∧ strandKept c i s t ∧
        ∀ r, (t.chamber c).vreg r = (s.chamber c).vreg r) ∧
      (s.quiet c i = true → ∃ t, exec (.fence c i) s = .next t ∧ wordFrame c i [] s t ∧ sameRegs (issueReg c i) s t ∧
        strandKept c i s t ∧ ∀ r, (t.chamber c).vreg r = (s.chamber c).vreg r)) ∧
  (∀ (s : State) (c i : Nat), issues c i s → s.quiet c i = false → ∀ (ctr inc index number : Nat),
      exec (.fence c i) s = .next s ∧ exec (.signal c i ctr inc) s = .next s ∧ exec (.boundary c i number) s = .next s ∧
        exec (.rsFinish c i) s = .next s ∧ exec (.rsOut c i index) s = .next s)

/-- R93, R92: a VOP writes the lanes of its operation to `DST` and one vector cycle; an immediate stands in every lane of the
second source. R107, R109: an SFOP with a function writes the function of each lane of `SRC` to the same lane of `DST`; R92,
R108: it takes four clocks of the unit. (Under a table image that holds no uncorrectable word, R117.) R212, R213: GAUSS in strand order writes the deviates of the lanes' generator words,
where every logical index lies below 2^56; it counts 512 lanes and words. Before any VLOAD the words are free values, and 512
are taken (log 2). -/
def Obligations.LaneResults : Prop :=
  (∀ (s : State) (c i op dst src1 src2 : Nat) (imm : Bool) (v : Nat), issues c i s →
      ∃ t, exec (.vop c i op dst src1 src2 imm v) s = .next t ∧ wordFrame c i [.chVecCycles] s t ∧ strandKept c i s t ∧
        vregsKept c dst s t ∧
        (t.chamber c).vreg dst = (vopRun (s.strandStrict c i) op ((s.chamber c).vreg dst) ((s.chamber c).vreg src1)
          (if imm then List.replicate 512 (accRound (s.strandStrict c i) (fp32 v)).1 else (s.chamber c).vreg src2)).1 ∧
        t.reg .chVecCycles c = (s.reg .chVecCycles c + 1) % 2 ^ 64) ∧
  (∀ (s : State) (c i func dst src scale : Nat), issues c i s → (s.sfImage c).bad = false →
      ∃ t, exec (.sfop c i func dst src scale) s = .next t ∧ wordFrame c i [.chSfOps, .chSfCycles, .chSfDomain] s t ∧
        strandKept c i s t ∧ vregsKept c dst s t ∧
        (t.chamber c).vreg dst =
          ((s.chamber c).vreg src).map (fun a => (sfLane (s.sfImage c) (s.strandStrict c i) func scale a).value) ∧
        t.reg .chSfOps c = (s.reg .chSfOps c + 1) % 2 ^ 64 ∧ t.reg .chSfCycles c = (s.reg .chSfCycles c + 4) % 2 ^ 64) ∧
  (∀ (s : State) (c i dst src scale : Nat), issues c i s → (s.sfImage c).bad = false →
      (∀ l, l < 512 → ((s.strandLanes c i).word l).2 = false) →
      ∃ t, exec (.gauss c i dst src scale) s = .next t ∧
        wordFrame c i [.chSfOps, .chSfCycles, .chSfDomain, .chGaussLanes, .chRngWords] s { t with fresh := s.fresh } ∧
        t.fresh = s.fresh + (if (s.strand c i).vload.isSome then 0 else 512) ∧ strandKept c i s t ∧ vregsKept c dst s t ∧
        (t.chamber c).vreg dst = ((((s.chamber c).vreg src).zip ((List.range 512).map (s.strandLanes c i).word)).map (fun x =>
          (gaussLane (s.sfImage c) (s.strandStrict c i) scale x.2.1 x.1).value)) ∧
        t.reg .chGaussLanes c = (s.reg .chGaussLanes c + 512) % 2 ^ 64 ∧
        t.reg .chRngWords c = (s.reg .chRngWords c + 512) % 2 ^ 64)

/-- The four rows of the set that an SMX word in strand order acts on are those of the strand's most recent VLOAD. -/
def smxRow (s : State) (c i n : Nat) : Nat := (s.strandLanes c i).row n

/-- R119 to R122: SMX_SUM in strand order adds the terms of four row groups to their rows of the strand's set, and +0 goes to
every lane of `DST`. R120, R125: SMX_PROB in strand order writes the probabilities of four row groups, from the logarithms of
their rows; of a row of the set only `RANGE` may change. R119, R123: RS_CLEAR, RS_FINISH, RS_IN and RS_ACC change the strand's
row-statistics set as the rules say, and nothing else of the strand; they take four clocks of the unit; RS_FINISH may set
`SF_DOMAIN` (R111), RS_IN and RS_ACC may set `SMX_RANGE` and count rows. SMX_SUM, SMX_PROB and RS_FINISH read the tables, of which
no word may be uncorrectable (R117). RS_IN and RS_ACC need a
record that is mapped, is not poisoned and that no earlier write of the strand overlaps. R123, R124: RS_OUT writes the set as
records of 16 bytes, row by row, at `CH_RS_BASE` plus 2,048 × `INDEX` (registers take none of it, log 27); the set is not changed
and every other byte of memory keeps its value. -/
def Obligations.RowStatistics : Prop :=
  ((∀ (s : State) (c i dst src scale : Nat), issues c i s → (s.sfImage c).bad = false →
        ∃ t, exec (.smxSum c i dst src scale) s = .next t ∧
          wordFrame c i [.chSfOps, .chSfCycles, .chSmxRange, .chSmxRangeRows] s t ∧ vregsKept c dst s t ∧
          (t.chamber c).vreg dst = zeroLanes ∧
          (∀ n, n < 4 → smxRow s c i n < (s.strand c i).rs.length →
            (t.strand c i).rsRow (smxRow s c i n) = (smxSumRow (s.sfImage c) (s.strandStrict c i) scale
              ((s.strand c i).rsRow (smxRow s c i n)) (rowGroup ((s.chamber c).vreg src) n) (fun _ => true)).row) ∧
          (∀ r, (∀ n, n < 4 → smxRow s c i n ≠ r) → (t.strand c i).rsRow r = (s.strand c i).rsRow r)) ∧
    (∀ (s : State) (c i dst src scale : Nat), issues c i s → (s.sfImage c).bad = false →
        ∃ t, exec (.smxProb c i dst src scale) s = .next t ∧
          wordFrame c i [.chSfOps, .chSfCycles, .chSmxRange, .chSmxRangeRows] s t ∧ vregsKept c dst s t ∧
          (t.chamber c).vreg dst = (List.range 4).flatMap (fun n =>
            (smxProbRow (s.sfImage c) (s.strandStrict c i) scale ((s.strand c i).rsRow (smxRow s c i n))
              (rowGroup ((s.chamber c).vreg src) n) (fun _ => true)).lanes) ∧
          (∀ r, { (t.strand c i).rsRow r with range := ((s.strand c i).rsRow r).range } = (s.strand c i).rsRow r))) ∧
  (∀ (s : State) (c i index : Nat), issues c i s →
      (∃ t, exec (.rsClear c i) s = .next t ∧ wordFrame c i [.chSfOps, .chSfCycles] s t ∧
        (∀ r, (t.chamber c).vreg r = (s.chamber c).vreg r) ∧ (t.strand c i).rs = List.replicate 128 {}) ∧
      (s.quiet c i = true → (s.sfImage c).bad = false →
        ∃ t, exec (.rsFinish c i) s = .next t ∧ wordFrame c i [.chSfOps, .chSfCycles, .chSfDomain] s t ∧
        (∀ r, (t.chamber c).vreg r = (s.chamber c).vreg r) ∧
        (t.strand c i).rs = (s.strand c i).rs.map (rsFinishRow (s.sfImage c) (s.strandStrict c i))) ∧
      (s.mapped (s.rsAddr c i index) 2048 = true → s.poisoned (s.rsAddr c i index) 2048 = false →
        s.mustWait c i ⟨s.rsAddr c i index, s.rsAddr c i index + 2048⟩ = false →
        (∃ t, exec (.rsIn c i index) s = .next t ∧ wordFrame c i [.chSfOps, .chSfCycles, .chSmxRange, .chSmxRangeRows] s t ∧
          (∀ r, (t.chamber c).vreg r = (s.chamber c).vreg r) ∧
          ∀ r, r < 128 → (t.strand c i).rsRow r = rsOfRecord (s.strandStrict c i) (s.bytes (s.rsAddr c i index + 16 * r) 16)) ∧
        (∃ t, exec (.rsAcc c i index) s = .next t ∧ wordFrame c i [.chSfOps, .chSfCycles, .chSmxRange, .chSmxRangeRows] s t ∧
          (∀ r, (t.chamber c).vreg r = (s.chamber c).vreg r) ∧
          ∀ r, r < 128 → (t.strand c i).rsRow r = rsAccRow (s.strandStrict c i) ((s.strand c i).rsRow r)
            (rsOfRecord (s.strandStrict c i) (s.bytes (s.rsAddr c i index + 16 * r) 16))))) ∧
  (∀ (s : State) (c i index : Nat), issues c i s → s.quiet c i = true → s.mapped (s.rsAddr c i index) 2048 = true →
      ∃ t, exec (.rsOut c i index) s = .next t ∧ storeFrame c i [.chSfOps, .chSfCycles] s t ∧ strandKept c i s t ∧
        (∀ r, (t.chamber c).vreg r = (s.chamber c).vreg r) ∧
        (∀ r, r < 128 → r < (s.strand c i).rs.length → regionOf (s.rsAddr c i index) ≠ some .registers →
          t.bytes (s.rsAddr c i index + 16 * r) 16 = rsRecord ((s.strand c i).rsRow r)) ∧
        memoryOutside (s.rsAddr c i index) (16 * (s.strand c i).rs.length) s t)

/-- R102, R336: a SIGNAL, once every earlier write of its strand is complete, adds its increment to COUNT and writes the
timestamp into the counter's 16 bytes; while `SIG_SKIP` is not 0 it counts that down instead and writes nothing. R100, R102: a
WAIT whose counter has reached the target passes; one whose counter has not leaves the strand waiting on the counter, and
memory as it is. R103, R235: a WAIT that is past its limit sets `WAIT_TIMEOUT`, reports its strand and counter and leaves the
strand waiting. A poll counts once and wakes the strand once COUNT has reached the target. A counter add that reaches the
targets of watches removes them and wakes their strands. -/
def Obligations.CountersAndWaits : Prop :=
  (∀ (s : State) (c i ctr inc a : Nat), issues c i s → s.quiet c i = true → s.counterAt c i ctr = .ok a →
      (s.reg .chSigSkip c i = 0 → ∃ t, exec (.signal c i ctr inc) s = .next t ∧ passed c i s t ∧ outsideMemory s t ∧
        chamberFrame c i s t ∧ strandKept c i s t ∧
        t.num a 8 = (s.num a 8 + inc) % 2 ^ 64 ∧ t.num (a + 8) 8 = s.now % 2 ^ 64 ∧ memoryOutside a 16 s t ∧
        sameRegs (fun f u k => issueReg c i f u k ∨ (f = .glDripAtomics ∧ k = 0) ∨ (f = .chSigSinceBnd ∧ u = c ∧ k = i)) s t) ∧
      (s.reg .chSigSkip c i ≠ 0 → ∃ t, exec (.signal c i ctr inc) s = .next t ∧ passed c i s t ∧ outsideSame s t ∧
        chamberFrame c i s t ∧ strandKept c i s t ∧ t.reg .chSigSkip c i = (s.reg .chSigSkip c i - 1) % 2 ^ 16 ∧
        sameRegs (fun f u k => issueReg c i f u k ∨ ((f = .chSigSinceBnd ∨ f = .chSigSkip) ∧ u = c ∧ k = i)) s t)) ∧
  ((∀ (s : State) (c i ctr target a : Nat), issues c i s → s.counterAt c i ctr = .ok a →
        (target ≤ s.num a 8 → ∃ t, exec (.wait c i ctr target) s = .next t ∧ wordFrame c i [] s t ∧
          sameRegs (issueReg c i) s t ∧ strandKept c i s t ∧ ∀ r, (t.chamber c).vreg r = (s.chamber c).vreg r) ∧
        (s.num a 8 < target → ∃ t, exec (.wait c i ctr target) s = .next t ∧
          t.reg .chState c i = psWaiting ∧ t.reg .chWaitCtr c i = ctr % 2 ^ 8 ∧ t.reg .chPc c i = s.reg .chPc c i ∧
          t.reg .chIssued c i = s.reg .chIssued c i ∧ t.reg .chCurStrand c ≠ i ∧ t.mem = s.mem ∧
          ((s.gallery (galleryOf a)).watches.length < 64 → (a, target, c, i) ∈ (t.gallery (galleryOf a)).watches))) ∧
    (∀ (s : State) (c i g ctr : Nat),
        (s.reg .chState c i = psWaiting → (s.strand c i).timedOut = false → s.reg .chWaitTimeoutUs c ≠ 0 →
          (s.strand c i).waitSince + 2000 * s.reg .chWaitTimeoutUs c < s.now →
          ∃ t, exec (.waitTimeout c i) s = .next t ∧ t.reg .chWaitTimeout c = 1 ∧ t.reg .chState c i = psWaiting ∧
            t.mem = s.mem ∧ (∃ e, t.events = s.events ++ [e] ∧ e.cls = 0 ∧ e.unit = c ∧ e.kind = evWaitTimeout ∧
              e.info = [i, s.reg .chPc c i, s.reg .chWaitCtr c i])) ∧
        (s.reg .chState c i = psWaiting → s.watched c i = false → s.reg .chCurStrand c ≠ 4 →
          regionOf (s.strand c i).waitAddr = some .gallery →
          ∃ t, exec (.waitPoll c i) s = .next t ∧ t.mem = s.mem ∧
            t.reg .glWatchPolls (galleryOf (s.strand c i).waitAddr % 32) =
              (s.reg .glWatchPolls (galleryOf (s.strand c i).waitAddr % 32) + 1) % 2 ^ 64 ∧
            t.reg .chState c i = (if (s.strand c i).waitTarget ≤ s.num (s.strand c i).waitAddr 8 then psReady else psWaiting)) ∧
        ((∀ w ∈ (s.gallery g).watches, s.reg .chCurStrand w.2.2.1 ≠ 4) →
          ∃ t, exec (.counterWatchWake g ctr) s = .next t ∧ t.mem = s.mem ∧
            (t.gallery g).watches = (s.gallery g).watches.filter (fun w => !(w.1 == ctr && decide (w.2.1 ≤ s.num ctr 8))) ∧
            ∀ w ∈ (s.gallery g).watches, w.1 = ctr → w.2.1 ≤ s.num ctr 8 → s.reg .chState w.2.2.1 w.2.2.2 = psWaiting →
              t.reg .chState w.2.2.1 w.2.2.2 = psReady)))

/-- R97: LDLEN puts the 32-bit word at its address into the length register it names. R95, R139, R182: a BIND whose run is not
skipped names the output, with what is in force, under its tag, in place of any earlier BIND of that tag; one whose run lies wholly
beyond a bound, or is wholly masked, does so too but is not issued (R97, R167). A BIND under a gradient mask takes its frozen rows
from the mask record and shows the mask's id, and counts as issued unless its whole block is frozen. -/
def Obligations.BindAndLdlen : Prop :=
  (∀ (s : State) (c i len addr : Nat), issues c i s → len < 16 → s.mapped (canonAddr c addr) 4 = true →
      s.poisoned (canonAddr c addr) 4 = false →
      ∃ t, exec (.ldlen c i len addr) s = .next t ∧ passed c i s t ∧ outsideSame s t ∧ chamberFrame c i s t ∧
        strandKept c i s t ∧ (∀ r, (t.chamber c).vreg r = (s.chamber c).vreg r) ∧
        t.reg .chLen c len = s.num (canonAddr c addr) 4 ∧
        sameRegs (fun f u k => issueReg c i f u k ∨ (f = .chLen ∧ u = c ∧ k = len)) s t) ∧
  (∀ (s : State) (c i tag desc m n : Nat) (o : Bound), issues c i s → o = s.boundOf c i tag desc m n →
      s.entryPoison c i [desc] = none →
      (s.bindFar c i (baseView c desc o.bytes .out o.ctx) tag m n = true →
        ∃ t, exec (.bind c i tag desc m n) s = .next t ∧ outsideSame s t ∧ t.reg .chPc c i = (s.reg .chPc c i + 1) % 2 ^ 16 ∧
          t.reg .chIssued c i = s.reg .chIssued c i ∧ sameRegs (issueReg c i) s t ∧
          (t.strand c i).binds = o :: (s.strand c i).binds.filter (fun x => !(x.tag == tag))) ∧
      (∀ v, s.bindFar c i (baseView c desc o.bytes .out o.ctx) tag m n = false →
        mkView s c desc o.bytes .out o.ctx o.tokenOrg = .ok v →
        s.pocketCheck v (v.span (128 * m) 128 (128 * s.bindBlkN c i o v) 128) = none →
        (s.gmaskOf c i desc m n = .ok .none → ∃ t, exec (.bind c i tag desc m n) s = .next t ∧ wordFrame c i [] s t ∧
          sameRegs (issueReg c i) s t ∧ (∀ r, (t.chamber c).vreg r = (s.chamber c).vreg r) ∧
          (t.strand c i).binds = o :: (s.strand c i).binds.filter (fun x => !(x.tag == tag))) ∧
        (∀ rows blk, s.gmaskOf c i desc m n = .ok (.rows rows blk) → ∃ t, exec (.bind c i tag desc m n) s = .next t ∧
          outsideReads s t ∧ t.reg .chPc c i = (s.reg .chPc c i + 1) % 2 ^ 16 ∧
          (blk = true → t.reg .chIssued c i = s.reg .chIssued c i) ∧
          (blk = false → t.reg .chIssued c i = (s.reg .chIssued c i + 1) % 2 ^ 64) ∧
          t.reg .chGmaskId c i =
            fieldLE ((s.strand c i).gmask.getD (s.bytes (canonAddr c (s.reg .chGmaskBase c i)) 64)) 24 4 % 2 ^ 32 ∧
          (t.strand c i).binds = { o with frozenRows := rows, frozenBlock := blk } ::
            (s.strand c i).binds.filter (fun x => !(x.tag == tag)))))

/-- R104, R335: a BOUNDARY of a program, once every earlier write is complete, writes the 96 bytes of its record at the
Chamber's place in the ring, moves that place on, and sets `LAST_BOUNDARY`; where row statistics are in use it writes them to
the save area. No other byte of memory changes. (While a CONTEXT_SAVE runs the strand stops here, R353.) R100: END passes and
the Chamber goes to another strand; the strand stays RUNNING until its earlier words have completed, and is then DONE and its
command completes with `OK`. -/
def Obligations.BoundaryAndEnd : Prop :=
  (∀ (s : State) (c i number : Nat), issues c i s → s.quiet c i = true → (∀ o ∈ s.outstanding, o.opcode ≠ 0x74) →
      ∀ a z, a = canonAddr c (s.reg .chBoundaryBase c + 96 * (s.chamber c).boundaryPos) →
      z = canonAddr c (s.reg .chRssaveBase c i) → s.mapped a 96 = true →
      ((s.strand c i).rs.any (fun r => r.terms != 0) = true → s.mapped z 4096 = true) →
      ∃ t, exec (.boundary c i number) s = .next t ∧ passed c i s t ∧ outsideMemory s t ∧
        (regionOf a ≠ some .registers → t.bytes a 96 = s.boundaryRecord c i number (s.reg .chPc c i + 1)) ∧
        t.reg .chLastBoundary c i = number % 2 ^ 48 ∧
        (t.chamber c).boundaryPos = ((s.chamber c).boundaryPos + 1) % max 1 (s.reg .chBoundarySlots c) ∧
        (∀ x, ¬ (a ≤ x ∧ x < a + 96) → ((s.strand c i).rs.any (fun r => r.terms != 0) = true →
          ¬ (z ≤ x ∧ x < z + 32 * (s.strand c i).rs.length)) → t.byte x = s.byte x) ∧
        sameRegs (fun f u k => issueReg c i f u k ∨ ((f = .chLastBoundary ∨ f = .chSigSinceBnd) ∧ u = c ∧ k = i) ∨
          storeReg f k) s t) ∧
  (∀ (s : State) (c i : Nat),
      (issues c i s → ∃ t, exec (.endWord c i) s = .next t ∧ passed c i s t ∧ (t.strand c i).ended = true ∧
        t.reg .chCurStrand c ≠ i ∧ t.mem = s.mem ∧ t.outstanding = s.outstanding) ∧
      ((s.strand c i).ended = true → s.quiet c i = true → s.reg .chState c i = psRunning →
        ∃ t, exec (.strandDone c i) s = .next t ∧ t.reg .chState c i = psDone ∧ (t.strand c i).ended = false ∧
          (t.strand c i).cmd = none ∧ t.mem = s.mem ∧ ∀ h, (s.strand c i).cmd = some h → t.isDone h 0))

/-- R63, R68, R69: a SWEEP that opens a run on a FREE bank with whole tiles leaves in every Cell the sum of its 128 products
from +0, in ascending k; the bank is LIVE, or DRAINING to the output of its tag where the word ends the run: it is the run's last, or
every later word of the run is skipped (R139 rule 3). R73, R83: it counts once, with its frozen clocks. R63, R64: a SWEEP that
continues a run, with a K block above the last one, adds its 128 products to what every Cell of the LIVE bank holds. R67, R78: a
SWEEP without a tile of either operand that the check at issue refuses sets its error bit and `OWN_HOLD` and steps nothing: the banks
and memory keep their content, and the strand stops. -/
def Obligations.SweepRuns : Prop :=
  (∀ (s : State) (c i fa fb : Nat) (w : SweepWord) (tm : SweepTiming) (ta tb : Tile), issues c i s → w.init = true →
      w.bank < 2 → pairFormats w.pair = some (fa, fb) → w.reserved = 0 → (s.strand c i).feedA.head? = some ta →
      (s.strand c i).feedB.head? = some tb → ta.plain → tb.plain → (∀ r ∈ (s.strand c i).runs, r.bank ≠ w.bank) →
      s.reg (bankField w.bank) c = 0 → (w.last = true → (s.strand c i).binds.any (fun q => q.tag == w.outTag) = true) →
      ∀ here out, here = .sweep w.pair w.bank w.init w.last w.kBlock w.outTag :: (s.ahead c i).drop 1 →
      out = s.outInfo c i w.bank 0 here → outPlain out →
      ∃ t, exec (.sweep c i w tm) s = .next t ∧ t.mem = s.mem ∧ t.reg .chPc c i = (s.reg .chPc c i + 1) % 2 ^ 16 ∧
        t.reg .chIssued c i = (s.reg .chIssued c i + 1) % 2 ^ 64 ∧
        t.reg (bankField w.bank) c = (if (s.closing c i w false (out.map (·.m)) here).isSome then 2 else 1) ∧
        t.reg .chSweepCount c = (s.reg .chSweepCount c + 1) % 2 ^ 64 ∧
        t.reg .chFreezeTotal c = (s.reg .chFreezeTotal c + (frozenClocks tm 128).2.total) % 2 ^ 64 ∧
        (t.strand c i).feedA = (s.strand c i).feedA.drop 1 ∧ (t.strand c i).feedB = (s.strand c i).feedB.drop 1 ∧
        (∀ r j, r < 128 → j < 128 → (((t.chamber c).bank w.bank).rows.getD r []).getD j accZero =
          cellAfter (s.strandStrict c i) fa fb ta.words tb.words r j accZero 128) ∧
        (∀ b, b ≠ w.bank → (t.chamber c).bank b = (s.chamber c).bank b) ∧
        (∀ tag, s.closing c i w false (out.map (·.m)) here = some tag →
          ((t.chamber c).bank w.bank).bound = (s.strand c i).binds.find? (fun x => x.tag == tag))) ∧
  (∀ (s : State) (c i fa fb : Nat) (w : SweepWord) (tm : SweepTiming) (ta tb : Tile) (r0 : Run), issues c i s →
      w.init = false → w.bank < 2 → pairFormats w.pair = some (fa, fb) → w.reserved = 0 →
      (w.last = true → (s.strand c i).binds.any (fun q => q.tag == w.outTag) = true) →
      (s.strand c i).feedA.head? = some ta → (s.strand c i).feedB.head? = some tb → ta.plain → tb.plain →
      (s.strand c i).runs.find? (fun r => r.bank == w.bank) = some r0 → r0.kept = true → r0.pair = some w.pair →
      (∀ k, r0.lastK = some k → k < w.kBlock) → r0.refill = none → r0.frozenRows = [] → s.reg (bankField w.bank) c = 1 →
      (((s.chamber c).bank w.bank).rows.length = 128 ∧ ∀ r, r < 128 → (((s.chamber c).bank w.bank).rows.getD r []).length = 128) →
      ∀ here out, here = .sweep w.pair w.bank w.init w.last w.kBlock w.outTag :: (s.ahead c i).drop 1 →
      out = s.outInfo c i w.bank 0 here →
      ∃ t, exec (.sweep c i w tm) s = .next t ∧ t.mem = s.mem ∧ t.reg .chPc c i = (s.reg .chPc c i + 1) % 2 ^ 16 ∧
        t.reg .chIssued c i = (s.reg .chIssued c i + 1) % 2 ^ 64 ∧
        t.reg (bankField w.bank) c = (if (s.closing c i w false (out.map (·.m)) here).isSome then 2 else 1) ∧
        (s.closing c i w false (out.map (·.m)) here = none → passed c i s t ∧ outsideSame s t) ∧
        ∀ r j, r < 128 → j < 128 → (((t.chamber c).bank w.bank).rows.getD r []).getD j accZero =
          cellAfter (s.strandStrict c i) fa fb ta.words tb.words r j
            ((((s.chamber c).bank w.bank).rows.getD r []).getD j accZero) 128) ∧
  (∀ (s : State) (c i : Nat) (w : SweepWord) (tm : SweepTiming), issues c i s →
      ((s.strand c i).feedA = [] ∨ (s.strand c i).feedB = []) →
      ∀ f, sweepRefusal w w.last ((s.strand c i).runs.find? (fun r => r.bank == w.bank))
          ((s.strand c i).binds.any (fun q => q.tag == w.outTag)) = some f →
      ∃ t, exec (.sweep c i w tm) s = .next t ∧ t.reg f c = 1 ∧ t.reg .chOwnHold c = 1 ∧ (t.strand c i).stopped = true ∧
        t.mem = s.mem ∧ (t.chamber c).banks = (s.chamber c).banks)

/-- R58, R63, R88, R95: a LOAD to a feed queue that reads memory adds a tile to the queue: element i of word k is the Load's
conversion of the stored element at column k of the A block, or row k of the B block, and the zero code beyond a length, the K bound
being that of both operands of the SWEEP (R135). R139: a LOAD of a SWEEP that is skipped reads nothing and is not issued. R67,
R69, R78: a LOAD with `TARGET` 2 on a bank with no open run of the strand opens the run that the refill starts. A refill then
fills the FREE bank with the spilled values, and it is LIVE; memory keeps its content. (Marked blocks are fetched again before they
are read, R343.) -/
def Obligations.LoadAndRefill : Prop :=
  (∀ (s : State) (c i desc target bank blkK blkMN n : Nat), issues c i s → target < 2 → s.entryPoison c i [desc] = none →
      n = (if target = 0 then (s.strand c i).feedA.length else (s.strand c i).feedB.length) →
      (s.sweepReads c i n = false →
        ∃ t tile, exec (.load c i desc target bank blkK blkMN) s = .next t ∧ outsideSame s t ∧
          (t.strand c i).feedA = (if target = 0 then (s.strand c i).feedA ++ [tile] else (s.strand c i).feedA) ∧
          (t.strand c i).feedB = (if target = 0 then (s.strand c i).feedB else (s.strand c i).feedB ++ [tile]) ∧
          t.reg .chPc c i = (s.reg .chPc c i + 1) % 2 ^ 16 ∧ t.reg .chIssued c i = s.reg .chIssued c i) ∧
      (∀ v o s' xs, s.sweepReads c i n = true →
        (mkView s c desc (s.descBytes c i desc) (if target = 0 then .opA else .opB) (s.wordCtx c i)).map
          (s.jointK c i n target) = .ok v → v.info s blkK blkMN = .ok o →
        s.mustWait c i (if target = 0 then v.span (128 * blkMN) 128 (128 * blkK) 128
          else v.span (128 * blkK) 128 (128 * blkMN) 128) = false →
        v.readFetched s ((List.range 128).flatMap (feedPlaces v.role o.blkK o.blkMN)) = (s', .ok xs) →
        (∀ x ∈ xs, x.poisoned = false) →
        ∃ t tile, exec (.load c i desc target bank blkK blkMN) s = .next t ∧
          readFrame c i [.chLoadBytes, .chConvZeroElems, .chFsDecBlocks, .chPrismTiles, .chVecCycles, .chAfeedLevel,
            .chBfeedLevel] s t ∧
          (t.strand c i).feedA = (if target = 0 then (s.strand c i).feedA ++ [tile] else (s.strand c i).feedA) ∧
          (t.strand c i).feedB = (if target = 0 then (s.strand c i).feedB else (s.strand c i).feedB ++ [tile]) ∧
          tile.poison = [] ∧ tile.kEnd = o.kEnd ∧ tile.mnEnd = o.mnEnd ∧
          ∀ k j, k < 128 → j < 128 → (tile.words.getD k []).getD j 0 =
            (match xs[128 * k + j]? with
             | some x => (match x.code with
               | some code => (loadConvert (s.strandStrict c i) v.d.format v.d.deliver code).1
               | none => zeroCode v.d.deliver)
             | none => 0))) ∧
  (∀ (s : State) (c i desc bank blkK blkMN : Nat),
      (∀ v, issues c i s → s.entryPoison c i [desc] = none → (∀ r ∈ (s.strand c i).runs, r.bank ≠ bank) →
        v = boundsView s c desc (s.descBytes c i desc) .out (s.wordCtx c i) →
        s.mustWait c i (v.span (128 * blkK) 128 (128 * blkMN) 128) = false →
        s.pocketCheck v (v.span (128 * blkK) 128 (128 * blkMN) 128) = none →
        ∃ t r, exec (.load c i desc 2 bank blkK blkMN) s = .next t ∧ outsideSame s t ∧
          (t.strand c i).runs = (s.strand c i).runs ++ [r] ∧ r.bank = bank ∧ r.refilled = true ∧ r.kept = false ∧
          t.reg .chPc c i = (s.reg .chPc c i + 1) % 2 ^ 16 ∧
          (r.refill = some (desc, s.descBytes c i desc, blkK, blkMN) → t.reg .chIssued c i = (s.reg .chIssued c i + 1) % 2 ^ 64)) ∧
      (∀ v r d bs k mn s' xs, s.refillOf c bank = some (i, r) → r.refill = some (d, bs, k, mn) → bank < 2 →
        s.reg (bankField bank) c = 0 → s.reg .chFaultFreeze c ≠ 1 → mkView s c d bs .out r.ctx = .ok v →
        v.readFetched s ((List.range 16384).map (fun n => (128 * k + n / 128, 128 * mn + n % 128))) = (s', .ok xs) →
        (∀ x ∈ xs, x.poisoned = false) →
        ∃ t, exec (.bankRefill c bank) s = .next t ∧ outsideReads s t ∧ t.reg (bankField bank) c = 1 ∧
          sameRegs (fun f u k => (u = c ∧ k = 0 ∧ f ∈ [bankField bank, .chLoadBytes, .chConvZeroElems, .chFsDecBlocks]) ∨
            trafficReg f) s t ∧
          ∀ row j, row < 128 → j < 128 → ∀ x, xs[128 * row + j]? = some x →
            (((t.chamber c).bank bank).rows.getD row []).getD j accZero =
              (match x.code with | some code => accRefill code | none => accZero)))

/-- R95: a COPY moves the bytes of the elements of its block, unchanged, and no byte outside the elements it moves changes (for
destinations that do not meet each other). R88, R441: a VLOAD places in each lane the value of the stored element, and +0
beyond a length. R95, R441: a VSTORE writes its lanes, converted by the Store's rules, to the places of their elements inside
the lengths; no byte outside those places changes, and no register of the vector unit. (Marked blocks are fetched again before they
are read, R343; registers take no write of memory, log 27.) -/
def Obligations.VectorMemoryWords : Prop :=
  (∀ (s s' : State) (c i sd dd blkRow blkCol : Nat) (vs vd : View) (ps : List (Nat × Nat × Nat × Bool)), issues c i s →
      mkView s c sd (s.descBytes c i sd) .plain (s.strandCtx c) = .ok vs →
      mkView s c dd (s.descBytes c i dd) .out (s.strandCtx c) (tokenOrgOf s c (Desc.of (s.descBytes c i dd))
        (Desc.of (s.descBytes c i dd)).base (s.lens c)) = .ok vd → s.entryPoison c i [sd, dd] = none →
      s.mustWait c i (vs.span (128 * blkRow) 128 (128 * blkCol) 128) = false →
      copyFetched s vs vd ((List.range 16384).map (fun n => (128 * blkRow + n / 128, 128 * blkCol + n % 128))) = (s', .ok ps) →
      (∀ p ∈ ps, p.2.2.2 = false) → ps.Pairwise (fun p q => p.2.1 + p.2.2.1 ≤ q.2.1 ∨ q.2.1 + q.2.2.1 ≤ p.2.1) →
      ∃ t, exec (.copy c i sd dd blkRow blkCol) s = .next t ∧
        moveFrame c i [.chLoadBytes, .chStoreBytes, .chAppendTokens] s t ∧
        strandKept c i s t ∧ (∀ r, (t.chamber c).vreg r = (s.chamber c).vreg r) ∧
        (∀ p ∈ ps, regionOf p.2.1 ≠ some .registers → t.bytes p.2.1 p.2.2.1 = s.bytes p.1 p.2.2.1) ∧
        (∀ x, (∀ p ∈ ps, ¬ (p.2.1 ≤ x ∧ x < p.2.1 + p.2.2.1)) → t.byte x = s.byte x)) ∧
  (∀ (s s' : State) (c i desc dst row4 blkN : Nat) (v : View) (xs : List Elem1), issues c i s →
      mkView s c desc (s.descBytes c i desc) .plain (s.strandCtx c) = .ok v →
      s.entryPoison c i [desc] = none → s.mustWait c i (v.span (4 * row4) 4 (128 * blkN) 128) = false →
      v.readFetched s (lanePlaces row4 blkN) = (s', .ok xs) → (∀ x ∈ xs, x.poisoned = false) →
      ∃ t, exec (.vload c i desc dst row4 blkN) s = .next t ∧
        readFrame c i [.chLoadBytes, .chConvZeroElems, .chFsDecBlocks] s t ∧ vregsKept c dst s t ∧
        (t.strand c i).vload = some (desc, s.descBytes c i desc, row4, blkN) ∧
        ∀ l, l < 512 → ∀ x, xs[l]? = some x →
          ((t.chamber c).vreg dst).getD l accZero =
            (match x.code with | some code => (vloadLane (s.strandStrict c i) v.d.format code).1 | none => accZero)) ∧
  (∀ (s s' : State) (c i desc src row4 blkN blocks clamps : Nat) (v : View) (ws : List (Nat × List Byte)), issues c i s →
      mkView s c desc (s.descBytes c i desc) .out (s.strandCtx c) (tokenOrgOf s c (Desc.of (s.descBytes c i desc))
        (Desc.of (s.descBytes c i desc)).base (s.lens c)) = .ok v →
      ∀ ps tally, convertAll (s.strandStrict c i) v 0 (s.draws c i desc)
        ((((lanePlaces row4 blkN).zip ((s.chamber c).vreg src)).filter (fun x =>
          decide (x.1.1 < v.rEnd) && decide (x.1.2 < v.cEnd))).map (fun x => (x.1.1, x.1.2, x.2))) = (ps, tally) →
      s.entryPoison c i [desc] = none → tally.idxRange = false → s.vstoreWrites v ps = .ok (ws, blocks, clamps, s') →
      ∃ t, exec (.vstore c i desc src row4 blkN) s = .next t ∧
        moveFrame c i [.chRngWords, .chSrDraws, .chSrZeroCut, .chStoreBytes, .chFsEncBlocks, .chFsClamps, .chAppendTokens] s t ∧
        strandKept c i s t ∧
        (∀ r, (t.chamber c).vreg r = (s.chamber c).vreg r) ∧ t.mem = (s.storeAll ws (some (c / 8))).mem ∧
        t.reg .chFsEncBlocks c = (s.reg .chFsEncBlocks c + blocks) % 2 ^ 64 ∧
        (∀ x, (∀ w ∈ ws, ¬ (w.1 ≤ x ∧ x < w.1 + w.2.length)) → t.byte x = s.byte x))

/-- R133, R136, R144: a NEST whose first problem expands into words leaves those words to issue next, in order, and stays at its own
index; `NEST_RESUME` is used up. R145: one whose first list entry is bad stops its strand, once the strand's writes are complete.
Memory keeps its content. -/
def Obligations.NestEmitsWords : Prop :=
  ∀ (s s1 : State) (c i desc : Nat) (p : NestPlan), issues c i s → s.entryPoison c i (s.nestEntries c i desc) = none →
    s.nestReady c i desc = (p, s1) → p.top.problems ≠ 0 →
    (∀ ctx e, p.entry = some (.ok ctx) →
      expand s1 c i p.descs p.top p.leaf p.pair p.resume ctx { runs := p.runs, bank := p.bank } = e → e.words ≠ [] →
      ∃ t, exec (.nest c i desc) s = .next t ∧ outsideReads s t ∧ (t.strand c i).emit = e.words ∧
        t.reg .chPc c i = s.reg .chPc c i ∧ t.reg .chNestActive c i = 1 ∧ t.reg .chNestResume c i = 0 ∧
        t.reg .chIssued c i = (s.reg .chIssued c i + 1) % 2 ^ 64 ∧
        t.reg .chSkipTiles c = (s.reg .chSkipTiles c + e.skips) % 2 ^ 64 ∧
        t.reg .chGroupSkips c = (s.reg .chGroupSkips c + e.groupSkips) % 2 ^ 64) ∧
    (∀ e, p.entry = some (.bad e) → s.quiet c i = true →
      ∃ t, exec (.nest c i desc) s = .next t ∧ t.mem = s.mem ∧ (t.strand c i).stopped = true)

/-- R68, R77, R82: BANK_DRAIN of a DRAINING bank whose Facet is not frozen (R76), whose Store has room and whose routine waits for no
write (R101) and meets no uncorrectable table word (R117) completes: it hands its tile to the Store's buffer and leaves its bank
FREE; no byte of memory is written before the verdict. R80: the tile's failing row is the first that fails its check. R82, R84:
CHECK_VERDICT on a tile in the Store's buffer completes: a tile whose rows pass is then written, one whose address failed stops its
strand, and one with a failing row is discarded with a fault freeze. Both complete with nothing done where they have nothing to do. -/
def Obligations.DrainAndVerdict : Prop :=
  ∀ (s : State) (c bank : Nat),
    (∀ o b, b = (s.chamber c).bank bank → bank < 2 → s.reg (bankField bank) c = 2 → s.reg .chFaultFreeze c ≠ 1 →
      (s.chamber c).store.length < 2 → b.bound = some o → s.routineWaits c b o = false →
      ((s.sfImage c).bad = false ∨ ∀ v, s.drainView c b o = .ok v → ∀ w ∈ s.routine c b.owner v.d, w % 256 ≠ 0x38) →
      ∃ t tile, exec (.bankDrain c bank) s = .next t ∧ t.reg (bankField bank) c = 0 ∧ (t.chamber c).bank bank = {} ∧
        t.mem = s.mem ∧ (t.chamber c).store = (s.chamber c).store ++ [tile] ∧ tile.strand = b.owner ∧ tile.tag = o.tag ∧
        (∀ row, tile.failRow = some row → row < 128 ∧ (checkRow (s.strandStrict c b.owner) b row).2.2 = true ∧
          ∀ r, r < row → (checkRow (s.strandStrict c b.owner) b r).2.2 = false) ∧
        (tile.failRow = none → ∀ r, r < 128 → (checkRow (s.strandStrict c b.owner) b r).2.2 = false)) ∧
    (s.reg (bankField bank) c ≠ 2 ∨ s.reg .chFaultFreeze c = 1 ∨ 2 ≤ (s.chamber c).store.length →
      exec (.bankDrain c bank) s = .next s) ∧
    ((s.chamber c).store = [] → exec (.checkVerdict c) s = .next s) ∧
    (∀ tile rest, (s.chamber c).store = tile :: rest →
      (tile.failRow = none → tile.err = none → (s.strand c tile.strand).stopped = false ∨ tile.writes ≠ [] →
        ∃ t, exec (.checkVerdict c) s = .next t ∧ (t.chamber c).store = rest ∧
          t.mem = (s.storeAll tile.writes (some (c / 8))).mem ∧ t.reg .chCheckFail c = s.reg .chCheckFail c ∧
          (t.strand c tile.strand).amax = max (s.strand c tile.strand).amax tile.amax ∧
          ((∀ i e, i < 4 → ((s.strand c i).emit.head?.map (·.word)) ≠ some (.stop e)) → outsideMemory s t)) ∧
      (∀ e, tile.failRow = none → tile.err = some e → (s.strand c tile.strand).stopped = false ∨ tile.writes ≠ [] →
        ∃ t, exec (.checkVerdict c) s = .next t ∧ (t.chamber c).store = rest ∧ t.mem = s.mem ∧
          (t.strand c tile.strand).stopped = true) ∧
      (∀ row, tile.failRow = some row → ∃ t, exec (.checkVerdict c) s = .next t ∧ (t.chamber c).store = rest ∧
        t.mem = s.mem ∧ t.reg .chCheckFail c = 1 ∧ t.reg .chFaultFreeze c = 1 ∧ t.reg .chOwnHold c = 1 ∧
        (s.reg .chCheckFail c = 0 → t.reg .chFailRow c = row % 2 ^ 7)))

/-- R98, R105, R119, R62: `GO` takes the program at `PROG_ADDR` into a strand that is EMPTY, DONE or REFUSED, with its row
statistics, numeric flags and count of issued words cleared; a strand in another state ignores it with `ACCESS_ERR`. R16: a
retired Chamber accepts none. R98: a program that the scan passes makes its strand READY (WAITING where the scheduler finds a
WAIT ahead of it); one that it refuses makes it REFUSED, with the code and the index of the first offending word. R117: while the
active bank lacks the image of the job's `SF_MODE`, the strand is not admitted. Memory keeps its content. R105: an ABORT leaves the strand EMPTY with its banks FREE, its tiles out of the Store's buffer and its row
statistics cleared; the banks of other strands and all of memory keep their content. -/
def Obligations.ProgramLifecycle : Prop :=
  (∀ (s : State) (c i : Nat),
      (s.reg .chRetired c ≠ 1 → s.reg .chState c i = psEmpty ∨ s.reg .chState c i = psDone ∨ s.reg .chState c i = psRefused →
        ∃ t, exec (.go c i) s = .next t ∧ t.reg .chState c i = psAdmitting ∧ t.reg .chPc c i = 0 ∧ t.reg .chIssued c i = 0 ∧
          t.reg .chStrandNumFlags c i = 0 ∧ t.reg .chRefuseCode c i = 0 ∧ t.reg .chRefuseWord c i = 0 ∧
          (t.strand c i).prog = s.reg .chProgAddr c i ∧ (t.strand c i).rs = List.replicate 128 {} ∧ (t.strand c i).binds = [] ∧
          t.mem = s.mem ∧ chamberFrame c i s t ∧ sameRegs (fun f u k => u = c ∧ k = i ∧ f ∈ [.chState, .chPc, .chIssued,
            .chRefuseCode, .chRefuseWord, .chStrandNumFlags, .chSigSinceBnd]) s t) ∧
      (s.reg .chRetired c ≠ 1 → s.reg .chState c i ≠ psEmpty → s.reg .chState c i ≠ psDone → s.reg .chState c i ≠ psRefused →
        ∃ t, exec (.go c i) s = .next t ∧ t.reg .chAccessErr c = 1 ∧ t.chambers = s.chambers ∧ outsideSame s t ∧
          sameRegs (fun f u k => f = .chAccessErr ∧ u = c ∧ k = 0) s t) ∧
      (s.reg .chRetired c = 1 → exec (.go c i) s = .next s)) ∧
  (∀ (s : State) (c i : Nat), s.imageReady c (s.strand c i).job = false → exec (.admissionScan c i) s = .next s) ∧
  (∀ (s : State) (c i : Nat), s.reg .chState c i = psAdmitting → s.imageReady c (s.strand c i).job = true →
      (∀ h, s.scan c (s.strand c i).prog (s.jobMajor (s.strand c i).job) = .ok (.inr h) →
        ∃ t, exec (.admissionScan c i) s = .next t ∧ (t.reg .chState c i = psReady ∨ t.reg .chState c i = psWaiting) ∧
          (s.reg .chCurStrand c ≠ 4 → t.reg .chState c i = psReady) ∧ (t.strand c i).words = h.wordCount ∧
          (t.strand c i).descBase = h.descBase ∧ (t.strand c i).ctrBase = h.ctrBase ∧ t.mem = s.mem) ∧
      (∀ code word, s.scan c (s.strand c i).prog (s.jobMajor (s.strand c i).job) = .ok (.inl (code, word)) →
        ∃ t, exec (.admissionScan c i) s = .next t ∧ t.reg .chState c i = psRefused ∧ t.reg .chAdmitRefused c = 1 ∧
          t.reg .chRefuseCode c i = code % 2 ^ 8 ∧ t.reg .chRefuseWord c i = word % 2 ^ 16 ∧ t.mem = s.mem)) ∧
  (∀ (s : State) (c i : Nat), s.reg .chState c i ≠ psEmpty →
      ∃ t, exec (.abort c i) s = .next t ∧ t.reg .chState c i = psEmpty ∧ (t.strand c i).rs = List.replicate 128 {} ∧
        (t.strand c i).runs = [] ∧ (t.strand c i).cmd = none ∧ (∀ x ∈ (t.chamber c).store, x.strand ≠ i) ∧ t.mem = s.mem ∧
        (∀ b, b < 2 → s.reg (bankField b) c ≠ 0 → ((s.chamber c).bank b).owner = i → t.reg (bankField b) c = 0) ∧
        (∀ b, b < 2 → ((s.chamber c).bank b).owner ≠ i → (t.chamber c).bank b = (s.chamber c).bank b ∧
          t.reg (bankField b) c = s.reg (bankField b) c) ∧ (∀ d, d ≠ c → t.chamber d = s.chamber d))

/-- R87: while `SCRUB_EN` is 1 the patrol scrub counts the Pocket words that it corrects; an uncorrectable one sets
`POCKET_UNCORR`, counts, and marks its data, and the bytes of memory stay. R115, R116: `LOAD` starts a load from `LOAD_STATE` 0
and is refused with `LOAD_BUSY` from another; a good image waits for the switch, a bad one ends with `IMAGE_ERR`; the switch,
made while no bank is DRAINING, flips `ACTIVE_BANK`, counts the epoch, and keeps `LOAD_STATE` at 3 while an SFOP is in flight,
until it retires. -/
def Obligations.PocketAndTables : Prop :=
  (∀ (s : State) (c : Nat) (f : ScrubFindings), s.reg .chScrubEn c ≠ 0 → (∀ o ∈ f.corrected ++ f.uncorrectable, o < 0x600000) →
      ∃ t, exec (.pocketPatrolScrub c f) s = .next t ∧ t.mem = s.mem ∧
        t.reg .chPocketCorr c = min (s.reg .chPocketCorr c + f.corrected.length) (2 ^ 32 - 1) ∧
        (f.uncorrectable = [] → t.reg .chPocketUncorr c = s.reg .chPocketUncorr c ∧ outsideSame s t) ∧
        (f.uncorrectable ≠ [] → t.reg .chPocketUncorr c = 1 ∧
          t.reg .chPocketUncorrCnt c = min (s.reg .chPocketUncorrCnt c + f.uncorrectable.length) (2 ^ 32 - 1) ∧
          ∀ o ∈ f.uncorrectable, t.poisoned (pocketBase + c * pocketWindow + o) 1 = true)) ∧
  (∀ (s : State) (c : Nat),
      (s.reg .chLoadState c = 0 → ∃ t, exec (.tableLoad c) s = .next t ∧ t.reg .chLoadState c = 1 ∧ outsideSame s t ∧
        t.chambers = s.chambers ∧ sameRegs (fun f u k => f = .chLoadState ∧ u = c ∧ k = 0) s t) ∧
      (s.reg .chLoadState c ≠ 0 → ∃ t, exec (.tableLoad c) s = .next t ∧ t.reg .chLoadBusy c = 1 ∧ outsideSame s t ∧
        t.chambers = s.chambers ∧ sameRegs (fun f u k => f = .chLoadBusy ∧ u = c ∧ k = 0) s t) ∧
      (∀ b, s.reg .chLoadState c = 1 → tableImage s (canonAddr c (s.reg .chSfLoadAddr c)) = some b →
        ∃ t, exec (.tableLoadComplete c) s = .next t ∧ t.reg .chLoadState c = 2 ∧ outsideSame s t ∧
          (if s.reg .chActiveBank c = 0 then (t.chamber c).sf1 = some b ∧ (t.chamber c).sf0 = (s.chamber c).sf0
            else (t.chamber c).sf0 = some b ∧ (t.chamber c).sf1 = (s.chamber c).sf1)) ∧
      (s.reg .chLoadState c = 1 → tableImage s (canonAddr c (s.reg .chSfLoadAddr c)) = none →
        ∃ t, exec (.tableLoadComplete c) s = .next t ∧ t.reg .chLoadState c = 0 ∧ t.reg .chImageErr c = 1 ∧
          t.chambers = s.chambers ∧ outsideSame s t) ∧
      (∀ fl, s.reg .chLoadState c = 2 → s.reg .chBank0State c ≠ 2 → s.reg .chBank1State c ≠ 2 → s.reg .chActiveBank c < 2 →
        ∃ t, exec (.sfEpochSwitch c fl) s = .next t ∧ t.reg .chActiveBank c = 1 - s.reg .chActiveBank c ∧
          t.reg .chSfEpoch c = (s.reg .chSfEpoch c + 1) % 2 ^ 16 ∧ t.reg .chLoadState c = (if fl then 3 else 0) ∧
          t.chambers = s.chambers ∧ t.mem = s.mem) ∧
      (s.reg .chLoadState c = 3 → ∃ t, exec (.oldBankRelease c) s = .next t ∧ t.reg .chLoadState c = 0 ∧ outsideSame s t ∧
        t.chambers = s.chambers ∧ sameRegs (fun f u k => f = .chLoadState ∧ u = c ∧ k = 0) s t))

/-- R226: after reset the slot table is the default one: slot n belongs to the first class of the table whose condition
holds, with the table's numbers of slots. -/
def Obligations.DefaultSlotTable : Prop :=
  ∀ g n, g < 32 → n < 256 →
    slotClass (fun w => State.reset.reg .glSlotActive g w) n =
      (if n % 8 = 0 then 1 else if n % 32 = 3 ∨ n % 32 = 13 ∨ n % 32 = 23 then 2 else if n % 64 = 37 then 3
       else if n % 64 = 53 then 4 else 0) ∧
    [1, 2, 3, 4, 0].map (fun k => ((List.range 256).filter (fun n =>
      slotClass (fun w => State.reset.reg .glSlotActive g w) n == k)).length) = [32, 24, 4, 4, 192]

/-- R227: `SLOT_COMMIT` marks the Gallery; at the next frame boundary the shadow table becomes the active one, or, where it
holds a reserved class, fewer than 8 latency-critical slots or no management slot, `SLOT_ERR` is set and the active table is
kept. Two commits are one, and without one a boundary keeps the table. R230: a write of `CACHE_STEPS` while the Gallery is
stopped by its steward takes effect: the cache is empty, no sharer filter lists the Gallery, the steps that pass either way read as
zero and every byte below them keeps its value; at any other time it is ignored with `SPLIT_REFUSED`. -/
def Obligations.GalleryControls : Prop :=
  (∀ (s : State) (g : Nat),
      (∃ t, exec (.slotCommit g) s = .next t ∧ t.reg .glSlotPending g = 1 ∧ exec (.slotCommit g) t = .next t ∧
        outsideSame s t ∧ t.chambers = s.chambers ∧ sameRegs (fun f u k => f = .glSlotPending ∧ u = g ∧ k = 0) s t) ∧
      (∃ t, exec (.slotFrameBoundary g) s = .next t ∧ t.mem = s.mem ∧ t.reg .glSlotPending g = 0 ∧
        t.reg .glFrames g = (s.reg .glFrames g + 1) % 2 ^ 64 ∧
        (s.reg .glSlotPending g = 0 → ∀ w, w < 32 → t.reg .glSlotActive g w = s.reg .glSlotActive g w) ∧
        (s.reg .glSlotPending g ≠ 0 → slotsOk (fun w => s.reg .glSlotShadow g w) = true →
          ∀ w, w < 32 → t.reg .glSlotActive g w = s.reg .glSlotShadow g w % 2 ^ 32) ∧
        (s.reg .glSlotPending g ≠ 0 → slotsOk (fun w => s.reg .glSlotShadow g w) = false →
          t.reg .glSlotErr g = 1 ∧ ∀ w, w < 32 → t.reg .glSlotActive g w = s.reg .glSlotActive g w))) ∧
  (∀ (s : State) (g steps : Nat), g < 32 → steps < 8 →
      (s.reg .glOwnHold g = 1 → s.reg .glStopped g = 1 → s.reg .glCacheSteps g < 8 →
        ∃ t, exec (.cacheStepsWrite g steps) s = .next t ∧ t.reg .glCacheSteps g = steps ∧ t.chambers = s.chambers ∧
          outsideMemory s t ∧ t.cache g = {} ∧ (∀ k e, e ∈ (t.sharer k).entries → g ∉ e.2) ∧ sameRegs (fun f u k => f = .glCacheSteps ∧ u = g ∧ k = 0) s t ∧
          ∀ x, t.byte x = (if galleryBase + (g + 1) * gallerySize - max (s.reg .glCacheSteps g) steps * 0x800000 ≤ x ∧
            x < galleryBase + (g + 1) * gallerySize then 0 else s.byte x)) ∧
      (¬ (s.reg .glOwnHold g = 1 ∧ s.reg .glStopped g = 1) →
        ∃ t, exec (.cacheStepsWrite g steps) s = .next t ∧ t.reg .glSplitRefused g = 1 ∧ outsideSame s t ∧
          t.chambers = s.chambers ∧ sameRegs (fun f u k => f = .glSplitRefused ∧ u = g ∧ k = 0) s t))

/-- The hold bits, `STOPPED` and `STOP_COUNT` of an element. -/
def holdFields : List Field :=
  [.chOwnHold, .chStewardHold, .chKeeperHold, .chComplexHold, .glOwnHold, .glKeeperHold, .glComplexHold, .dieOwnHold,
   .dieComplexHold]

/-- R13, R14: a stop sets the controller's own hold bit, a start clears it, a restart by the restarting controller clears
`OWN_HOLD` (and with a Chamber's the fault freeze ends, R83); no other hold bit of any element changes, and an element with no
hold left is not STOPPED. A keeper's stop and start of a link or of a junction slice hold it and let it go. A stop, a start or a
restart that the controller's reach does not hold changes nothing, nor does a steward's start of a Gallery whose fault is under
recovery (log 20). R16: a retirement sets `RETIRED` and counts once; a retired Chamber takes no program and no start from any
controller. -/
def Obligations.HoldsAndRetirement : Prop :=
  (∀ (s : State) (who : Who) (e : Elem),
      (∀ reached f u, holdBit who e = some (f, u) → ∃ t, exec (.stop who e reached) s = .next t ∧ t.reg f u = 1 ∧ t.mem = s.mem ∧
        t.chambers = s.chambers ∧ ∀ b v, b ∈ holdFields → ¬ (b = f ∧ v = u) → t.reg b v = s.reg b v) ∧
      (∀ f u, startBit who e = some (f, u) → s.startable e = true → s.ownFault who e = false →
        ∃ t, exec (.start who e) s = .next t ∧ t.reg f u = 0 ∧
        outsideSame s t ∧ t.chambers = s.chambers ∧ (∀ b v, b ∈ holdFields → ¬ (b = f ∧ v = u) → t.reg b v = s.reg b v) ∧
        (∀ f' n v, stopFields e = some (f', n, v) → t.held e = false → t.reg f' v = 0)) ∧
      (∀ f u, startBit who e = some (f, u) → s.ownFault who e = true → exec (.start who e) s = .next s) ∧
      (∀ w f u, restarter e = some (w, f, u) →
        (who = w → s.startable e = true → ∃ t, exec (.restart who e) s = .next t ∧
          t.reg f u = 0 ∧ outsideSame s t ∧ t.chambers = s.chambers ∧
          (∀ b v, b ∈ holdFields → ¬ (b = f ∧ v = u) → t.reg b v = s.reg b v) ∧
          (∀ c, e = .chamber c → t.reg .chFaultFreeze c = 0)) ∧
        (who ≠ w → exec (.restart who e) s = .next s)) ∧
      (restarter e = none → exec (.restart who e) s = .next s) ∧
      (∀ reached, (∃ a b, e = .link a b) ∨ (∃ d, e = .junction d) →
        (who = .keeper →
          (∃ t, exec (.stop who e reached) s = .next t ∧ t.held e = true ∧
            { t with linkHolds := s.linkHolds, junctionHolds := s.junctionHolds } = s) ∧
          (∃ t, exec (.start who e) s = .next t ∧ t.held e = false ∧
            { t with linkHolds := s.linkHolds, junctionHolds := s.junctionHolds } = s)) ∧
        (who ≠ .keeper → exec (.stop who e reached) s = .next s ∧ exec (.start who e) s = .next s))) ∧
  (∀ (s : State) (c : Nat),
      (s.reg .chRetired c = 0 → ∃ t, exec (.retire c) s = .next t ∧ t.reg .chRetired c = 1 ∧ t.mem = s.mem ∧
        t.chambers = s.chambers ∧ t.reg .modRetiredChambers 0 = (s.reg .modRetiredChambers 0 + 1) % 2 ^ 9 ∧
        sameRegs (fun f u k => k = 0 ∧ ((f = .chRetired ∧ u = c) ∨ (f = .modRetiredChambers ∧ u = 0) ∨
          (f = .glRailGated ∧ u = c / 8))) s t) ∧
      (s.reg .chRetired c = 1 → exec (.retire c) s = .next s ∧ (∀ i, exec (.go c i) s = .next s) ∧
        (∀ who, exec (.start who (.chamber c)) s = .next s ∧ exec (.restart who (.chamber c)) s = .next s)))

/-! ### Host commands -/

/-- R253, R257, R258: NOP completes at once: it is outstanding no more, its outcome is `OK`, and its reply, with the times of
its acceptance, start and end, waits for the status ring, unless `QUIET` asks for none. Nothing else changes. R260, R220, R102:
MEM_WRITE writes its data, MEM_FILL repeats its pattern over the range, MEM_READ copies what is mapped and not poisoned, once marked
blocks of it have been fetched again (R343), to host memory, COUNTER_SIGNAL adds to COUNT and writes the timestamp; each completes
with `OK`, and no other byte of module memory changes. A write in the register space is ignored (R219, R410; log 27). R260, R238: MEM_ALLOC gives out a range of its space and place that is free, where there is one, and MEM_FREE
takes the allocation back. Which free range it is, is a free value (log 26). -/
def Obligations.MemoryCommands : Prop :=
  (∀ (s : State) (h : Cmd), s.ready h = true →
      ∃ t, exec (.nop h) s = .next t ∧ t.isDone h 0 ∧ completionOnly s t ∧
        (∀ q, q ≠ h.queue → t.queue q = s.queue q) ∧
        (¬ s.replying h → t.queue h.queue = s.queue h.queue) ∧
        (s.replying h → ∃ r, t.queue h.queue = (s.queue h.queue).addReply r ∧
          r ∈ (t.queue h.queue).replies ∧ r.queue = h.queue ∧ r.seq = h.seq ∧ r.status = 0 ∧ r.detail = 0 ∧ r.result = 0 ∧
          r.acceptTs = (s.entry h).acceptTs ∧ r.startTs = (s.entry h).startTs ∧ r.doneTs = s.now ∧
          r.notify = bit (s.entry h).flags 2)) ∧
  (∀ (s : State) (h : Cmd) (addr : Nat), s.ready h = true →
      (∀ data, s.hostRange addr data.length = true → ∃ t, exec (.memWrite h addr data) s = .next t ∧ t.isDone h 0 ∧
        completionOnly (s.store addr data) t ∧ (regionOf addr ≠ some .registers → t.bytes addr data.length = data) ∧
        (regionOf addr = some .registers → t.mem = s.mem) ∧ memoryOutside addr data.length s t) ∧
      (∀ len pattern, len % 64 = 0 → s.hostRange addr len = true → ∃ t, exec (.memFill h addr len pattern) s = .next t ∧
        t.isDone h 0 ∧ outsideMemory s { t with
          outstanding := s.outstanding, outcomes := s.outcomes, queues := s.queues, logs := s.logs, logSeq := s.logSeq } ∧
        t.chambers = s.chambers ∧ memoryOutside addr len s t ∧
        (regionOf addr ≠ some .registers → ∀ k, k < len → t.byte (addr + k) = (bytesLE 8 pattern).getD (k % 8) 0) ∧
        (regionOf addr = some .registers → t.mem = s.mem)) ∧
      (∀ len hostAddr, s.pcie.busMaster = true → 1 ≤ len → len ≤ 4096 → s.hostRange addr len = true →
        (s.refetchFirst addr len).poisoned addr len = false →
        ∃ t, exec (.memRead h addr len hostAddr) s = .next t ∧ t.isDone h 0 ∧
          outsideReads (s.hostWrite hostAddr (s.bytes addr len)) { t with
            outstanding := s.outstanding, outcomes := s.outcomes, queues := s.queues, logs := s.logs, logSeq := s.logSeq } ∧
          t.chambers = s.chambers ∧ sameRegs (fun f _ _ => logReg f ∨ trafficReg f) s t ∧
          t.hostBytes hostAddr len = s.bytes addr len ∧ t.mem = s.mem) ∧
      (∀ inc, s.counterOk addr = true → ∃ t, exec (.counterSignal h addr inc) s = .next t ∧ t.isDone h 0 ∧
        t.num addr 8 = (s.num addr 8 + inc) % 2 ^ 64 ∧ t.num (addr + 8) 8 = s.now % 2 ^ 64 ∧ memoryOutside addr 16 s t ∧
        sameRegs (fun f u _ => logReg f ∨ (f = .glDripAtomics ∧ u = galleryOf addr % 32)) s t)) ∧
  (∀ (s : State) (h : Cmd), s.ready h = true →
      (∀ size space place p x, 0 < size → size % 65536 = 0 → space = 1 ∨ space = 2 → p ≤ 31 → place = p ∨ place = 0xFF →
        s.rangeFree (s.pool space p) x size = true → ∃ t a q, exec (.memAlloc h size space place) s = .next t ∧ t.isDone h 0 ∧
          completionOnly { s with allocs := (a, size) :: s.allocs, fresh := s.fresh + 1 } t ∧ q ≤ 31 ∧ (place = q ∨ place = 0xFF) ∧
          s.rangeFree (s.pool space q) a size = true ∧ (s.replying h → t.hasReply h a)) ∧
      (∀ addr, s.allocs.any (fun x => x.1 == addr) = true → ∃ t, exec (.memFree h addr) s = .next t ∧ t.isDone h 0 ∧
        completionOnly { s with allocs := s.allocs.filter (fun x => !(x.1 == addr)) } t))

/-- R260, R154 to R156: PT_UPDATE, whose entries pass every check and whose words do not meet, writes each entry to its place
in the table, in order; no other byte of module memory changes (a table in the register space takes nothing, log 27). R260, R51:
TENSOR_CREATE gives the job a tensor, with no amax history, or in a restarted job with that of the restart step (R352), TENSOR_DESTROY
takes it away once no earlier command names it, and SCALE_SET replaces the scale of one with a fixed scale; no other tensor
changes, and no memory. -/
def Obligations.TensorAndTableCommands : Prop :=
  (∀ (s : State) (h : Cmd) (header first mode : Nat) (entries : List Nat) (hd : PtHeader) (at' : Nat → Nat), s.ready h = true →
      1 ≤ entries.length → entries.length ≤ 106 → mode ≤ 1 → readHeader s header = .ok hd →
      scaleOk hd.kScale = true → scaleOk hd.vScale = true → first + entries.length ≤ (if mode = 0 then hd.limit else 4096) →
      (∀ i, i < entries.length → s.entryAddr hd mode (first + i) = some (at' i) ∧ s.hostRange (at' i) 8 = true ∧
        entryOk mode hd.format (entries.getD i 0) = true) →
      (∀ i j, i < entries.length → j < entries.length → i ≠ j → at' i + 8 ≤ at' j ∨ at' j + 8 ≤ at' i) →
      ∃ t, exec (.ptUpdate h header first mode entries) s = .next t ∧ t.isDone h 0 ∧
        (∀ i, i < entries.length → regionOf (at' i) ≠ some .registers → t.num (at' i) 8 = entries.getD i 0 % 2 ^ 64) ∧
        (∀ x, (∀ i, i < entries.length → ¬ (at' i ≤ x ∧ x < at' i + 8)) → t.byte x = s.byte x) ∧
        sameRegs (fun f _ k => logReg f ∨ storeReg f k) s t) ∧
  (∀ (s : State) (h : Cmd), s.ready h = true →
      (∀ p, passes (s.tensorChecks h p) → ∃ t, exec (.tensorCreate h p) s = .next t ∧ t.isDone h 0 ∧
        completionOnly { s with tensors := t.tensors } t ∧
        ∃ x, t.tensors = s.tensors ++ [x] ∧ t.tensor? (s.entry h).jobId p.id = some x ∧ x.p = p ∧ x.scale = p.scale ∧
          (p.policy ≠ 1 ∨ (∀ j, s.jobOf h = some j → j.restart = none) → x.hist = [])) ∧
      (∀ id x, s.hasJob h = true → s.tensor? (s.entry h).jobId id = some x →
        (s.before h).any (fun o => o.names (s.entry h).jobId id) = false →
        ∃ t, exec (.tensorDestroy h id) s = .next t ∧ t.isDone h 0 ∧ t.tensor? (s.entry h).jobId id = none ∧
          completionOnly { s with tensors := t.tensors } t ∧
          ∀ j k, ¬ (j = (s.entry h).jobId ∧ k = id) → t.tensor? j k = s.tensor? j k) ∧
      (∀ id scale x, s.hasJob h = true → s.tensor? (s.entry h).jobId id = some x → x.p.policy = 0 →
        ∃ t, exec (.scaleSet h id scale) s = .next t ∧ t.isDone h 0 ∧
          t.tensor? (s.entry h).jobId id = some { x with scale := scale } ∧ completionOnly { s with tensors := t.tensors } t ∧
          ∀ j k, ¬ (j = (s.entry h).jobId ∧ k = id) → t.tensor? j k = s.tensor? j k))

/-- R245, R247, R260, R263: QUEUE_CREATE makes an absent queue ACTIVE in the highest common format, with empty rings and no
outcomes. QUEUE_DELETE makes a queue ABSENT at once where nothing of it is left to complete or to reply, and DRAINING
otherwise. R256: CANCEL of a command that has not started completes it with `CANCELLED`; of one that runs outside collectives
it stops it: what it has written stays, and the content of its output tensors is undefined, free values; of one that is complete it changes nothing; and one that is not fetched yet is
remembered with the CANCEL that asked. -/
def Obligations.QueueAndCancelCommands : Prop :=
  (∀ (s : State) (h : Cmd), s.ready h = true → h.queue = 0 →
      (∀ p, passes (s.queueChecks h p) → ∃ t, exec (.queueCreate h p) s = .next t ∧ t.isDone h 0 ∧ t.mem = s.mem ∧
        t.queue p.queueId = {
          state := .active, priority := p.priority, format := min p.fmtMax 3, sqLog2 := p.sqLog2, stqLog2 := p.stqLog2
          msix := p.msix, sqBase := p.sqBase, stqBase := p.stqBase, coalesceCount := p.coalesceCount
          coalesceUs := p.coalesceUs, fwIf := p.fwIf } ∧
        (∀ o ∈ t.outcomes, o.cmd.queue ≠ p.queueId) ∧ (∀ q, q ≠ 0 → q ≠ p.queueId → t.queue q = s.queue q) ∧
        (s.replying h → t.hasReply h (min p.fmtMax 3)) ∧ sameRegs (fun f _ _ => logReg f) s t) ∧
      (∀ queueId mode, 1 ≤ queueId → queueId ≤ 63 → mode ≤ 1 →
        (s.queue queueId).state = .active ∨ (s.queue queueId).state = .error → (s.queue queueId).replies = [] →
        (∀ o ∈ s.outstanding, o.cmd.queue ≠ queueId) → ∃ t, exec (.queueDelete h queueId mode) s = .next t ∧ t.isDone h 0 ∧
          t.queue queueId = { nextSeq := (s.queue queueId).nextSeq } ∧ (∀ q, q ≠ 0 → q ≠ queueId → t.queue q = s.queue q) ∧ t.mem = s.mem) ∧
      (∀ queueId, 1 ≤ queueId → queueId ≤ 63 → (s.queue queueId).state = .active ∨ (s.queue queueId).state = .error →
        (s.queue queueId).replies ≠ [] ∨ (∃ o ∈ s.outstanding, o.cmd.queue = queueId) → ∃ t, exec (.queueDelete h queueId 0) s = .next t ∧ t.isOut h = true ∧
          t.queue queueId = { s.queue queueId with state := .draining, deleting := some h } ∧
          (∀ q, q ≠ queueId → t.queue q = s.queue q) ∧ t.mem = s.mem)) ∧
  (∀ (s : State) (h target : Cmd), s.ready h = true → target.queue < 64 → target ≠ h →
      (∀ o, s.outstanding.find? (fun o => o.cmd == target) = some o → (o.phase = .fetched ∨ ∀ c ∈ s.colls, c.cmd ≠ some target) →
        ∃ t, exec (.cancel h target.queue target.seq) s = .next t ∧ t.isDone h 0 ∧ t.isDone target stCancelled ∧
          (o.phase ≠ .fetched → t.mem = (s.undefineOutputs target).mem) ∧ (o.phase = .fetched → completionOnly s t)) ∧
      (s.isOut target = false → seqBefore target.seq (s.queue target.queue).nextSeq = true →
        ∃ t, exec (.cancel h target.queue target.seq) s = .next t ∧ t.isDone h 0 ∧ completionOnly s t ∧
          (s.replying h → t.hasReply h 2)) ∧
      (s.isOut target = false → seqBefore target.seq (s.queue target.queue).nextSeq = false →
        ∃ t, exec (.cancel h target.queue target.seq) s = .next t ∧ t.isDone h 0 ∧ completionOnly s t ∧
          (t.queue target.queue).cancelled = (target.seq, h.seq) :: (s.queue target.queue).cancelled))

/-- R260, R264, R265: JOB_ADMIT without a rank map settles the highest version that this module implements at or below the one
asked for, and gives the job the next identifier (where no lost job of its partition waits for its restart, R352). JOB_END, once
nothing of the job is outstanding and no collective of it runs, releases what the job held. R148: STAGE_BIND makes a group of the
working Chambers it names, which no other bound group of the job has; R149, R259: it completes with `NO_RESOURCES` where a Pocket has
no room for the stage. R98, R261: STAGE_RUN hands the program to its strand, which is ADMITTING, and waits. R117: it does not start
while strands of another `SF_MODE` hold the Chamber; R27, R32: one of a 2.x job whose program names G16 completes with
`NOT_IN_VERSION`. -/
def Obligations.JobCommands : Prop :=
  ∀ (s : State) (h : Cmd), s.ready h = true →
    (∀ p v, p.rankMap = 0 → passes (s.admitChecks h p) → settleVersion p.major p.minor [] = some v →
      (∀ o ∈ s.jobs, o.lost = true → o.restarted = false → o.tag ≠ p.tag ∨ s.self ∉ o.ranks) →
      ∃ t j, exec (.jobAdmit h p) s = .next t ∧ t.isDone h 0 ∧ t.mem = s.mem ∧ t.jobs = s.jobs ++ [j] ∧ j.id = s.nextJob ∧
        t.nextJob = s.nextJob + 1 ∧ (j.major, j.minor) = v ∧ j.numerics = p.numerics ∧ j.tag = p.tag ∧ j.seed = p.seed ∧
        j.ended = false ∧ j.ranks = [] ∧ (s.replying h → t.hasReply h s.nextJob)) ∧
    (∀ j, s.jobOf h = some j → j.ended = false → (∀ c ∈ s.colls, c.job ≠ j.id) →
      (s.before h).any (fun o => o.jobId == (s.entry h).jobId) = false → ∃ t, exec (.jobEnd h) s = .next t ∧ t.isDone h 0 ∧
        t.mem = s.mem ∧ t.job? j.id = some { j with ended := true, pool := 0, poolFree := 0 } ∧
        (∀ x ∈ t.tensors, x.job ≠ j.id) ∧ (∀ g ∈ t.groups, g.job ≠ j.id) ∧ (∀ x ∈ t.plans, x.job ≠ j.id) ∧
        t.reg .modSumpFree 0 = (s.reg .modSumpFree 0 + j.pool) % 2 ^ (fieldInfo .modSumpFree).width) ∧
    (∀ stageId layout stale mask cs, s.hasJob h = true → layout ≤ 1 → stale ≤ 1 → s.groupForm (maskChambers mask) = true →
      cs = (maskChambers mask).filter (fun c => s.reg .chRetired c == 0) →
      (cs ≠ [] → (∀ g ∈ s.groups, g.job = (s.entry h).jobId → g.stageId = stageId ∨ g.bound = false ∨ ∀ c ∈ cs, c ∉ g.chambers) →
        (∀ c ∈ cs, pocketKept ≤ s.pocketFree c (s.entry h).jobId stageId) →
        ∃ t, exec (.stageBind h stageId layout stale mask) s = .next t ∧ t.isDone h 0 ∧ t.mem = s.mem ∧
          (∀ c, { t.chamber c with job := (s.chamber c).job } = s.chamber c) ∧ (∀ c ∈ cs, (t.chamber c).job = (s.entry h).jobId) ∧
          t.groups = s.groups.filter (fun g => !(g.job == (s.entry h).jobId && g.stageId == stageId) &&
              (g.bound || !(g.job == (s.entry h).jobId && g.chambers.any cs.contains))) ++
            [{ job := (s.entry h).jobId, stageId := stageId, layout := layout, stale := stale, chambers := cs }] ∧
          sameRegs (fun f u k => logReg f ∨ (f ∈ numFlagFields ∧ u ∈ cs ∧ k = 0)) s t) ∧
      ((∃ c ∈ cs, s.pocketFree c (s.entry h).jobId stageId < pocketKept) →
        ∃ t, exec (.stageBind h stageId layout stale mask) s = .next t ∧ t.isDone h stNoResources ∧ completionOnly s t)) ∧
    (∀ c i prio header j, s.jobOf h = some j → j.ended = false → c < 256 → i < 4 → prio ≤ 3 →
      (s.reg .chRetired c = 0 → s.reg .chState c i = psEmpty ∨ s.reg .chState c i = psDone ∨ s.reg .chState c i = psRefused →
        ¬ (s.jobMajor (s.entry h).jobId = 2 ∧ s.namesG16 c header = true) →
        (s.sfAgrees c j.sfMode = true → (s.forMode c (s.entry h).jobId).imageReady c (s.entry h).jobId = true →
          ∃ t, exec (.stageRun h c i prio header) s = .next t ∧ t.isHeld h ∧ t.reg .chState c i = psAdmitting ∧
            t.reg .chPc c i = 0 ∧ t.reg .chProgAddr c i = header % 2 ^ (fieldInfo .chProgAddr).width ∧ t.reg .chPriority c i = prio ∧
            (t.strand c i).cmd = some h ∧ (t.strand c i).job = (s.entry h).jobId ∧ t.mem = s.mem ∧
            (∀ d, d ≠ c → t.chamber d = s.chamber d) ∧ (∀ j, j ≠ i → t.strand c j = s.strand c j)) ∧
        (s.sfAgrees c j.sfMode = false → exec (.stageRun h c i prio header) s = .next s)) ∧
      (s.jobMajor (s.entry h).jobId = 2 → s.namesG16 c header = true →
        ∃ t, exec (.stageRun h c i prio header) s = .next t ∧ t.isDone h stNotInVersion ∧ completionOnly s t))

/-- R261, R435, R436: CONTRACT of a stage whose Chambers run (R14, R15), once marked blocks of its operands have been fetched again
(R343), forms each element that its mask leaves as the one chain of its product, where no saved progress stands for it, writes the
converted elements, moves its output's history on by the amax, and completes; no other byte of memory changes. A stage with stale
weights reads the copy taken before the optimizer (R180). It waits while a Chamber of its stage is held. R262: a thin one opens a
batch where none is like it, and waits; at the deadline of its only member a batch runs, once its stage does. -/
def Obligations.ContractCommand : Prop :=
  ∀ (s s1 : State) (h : Cmd) (p : ContractParams), s.ready h = true → s1 = s.refetchTensors (s.entry h).jobId [p.a, p.b] →
    (∀ ta tb tout g ts lens mask rects src r m n k r' s2 o, passes (s1.contractChecks h p) →
      s1.contractTensors h p = some (ta, tb, tout) → p.role ≠ 0 ∨ p.batchKey = 0 →
      s1.stageGroup (s.entry h).jobId p.stageId = some g → s1.stageRuns (some g) = true →
      s1.contractTasks p ta tb tout = .ok (ts, lens) →
      (if p.role = 2 then s1.mask p.gmaskAddr tout.p.rows tout.p.cols else .ok (.ok none)) = .ok (.ok mask) →
      badBuckets p.edges lens = none → rects = (if p.listCount = 0 then s1.heldRects h 0x40 else []) →
      src = (if p.role = 0 then g.operandState s1 else s1) → src.runTasks rects mask ts = .ok r → tasksBlocks ts = (m, n, k) →
      r' = { r.divide (contractDivision p false m n k) g.chambers with status := 0 } →
      s2 = (s1.setGroup (s1.contractPlans g p ta tb tout false lens ts).1).runPlans
        (s1.contractPlans g p ta tb tout false lens ts).2 (s1.stacksOf tout.job p.listCount [p.a, p.b]) →
      s2.outputWrites h (if p.role = 0 then tout else tout.unsaved) p.stream p.rnd r' (drainGauss p.drainFunc)
        (drainFin (s1.strict tout.job) (s1.jobImage tout.job) p.drainFunc (s1.outDraws h tout p.stream)) = .ok o → o.far = false →
      (∃ t, exec (.contract h p) s = .next t ∧ t.isDone h 0 ∧ t.mem = (s.storeAll o.writes).mem ∧ computeOnly s t ∧
        (t.tensor? (s.entry h).jobId p.out).map (·.hist) = some (tout.hist ++ [r.amax])) ∧
      ∀ (q : Nat) (y : Problem × Task) (part : OutPart), rects = [] → ts[q]? = some y → r.parts[q]? = some part →
        ∀ i j, i < y.2.m → j < y.2.n → maskFreezes mask src i j = false →
          ∃ a, y.2.prod.acc src i j = .ok a ∧ (⟨i, j, a.1, a.2⟩ : OutElem) ∈ part.elems) ∧
    (passes (s1.contractChecks h p) → p.role ≠ 0 ∨ p.batchKey = 0 →
      s1.stageRuns (s1.stageGroup (s.entry h).jobId p.stageId) = false → exec (.contract h p) s = .next s1) ∧
    (∀ m n k, passes (s1.contractChecks h p) → p.role = 0 → p.batchKey ≠ 0 → s1.thinExtents h p = some (m, n, k) → n < 128 →
      s.batches = [] → ∃ t, exec (.contract h p) s = .next t ∧ t.isHeld h ∧ t.mem = s.mem ∧
        t.batches = [⟨(s.entry h).jobId, p.batchKey, p.a, [(h, p)], n⟩]) ∧
    (∀ b rest, s.batches = b :: rest → b.members = [(h, p)] → b ∉ rest → (s.entry h).acceptTs + 2 * p.deadlineNs ≤ s.now →
      (s.stageRuns (s.batchGroup b) = true →
        exec (.batchDeadline h) s = .next ({ s with batches := rest }.contractRun h p true)) ∧
      (s.stageRuns (s.batchGroup b) = false → exec (.batchDeadline h) s = .next s))

/-- R141, R435: a product of one segment is the chain of its terms in ascending index from +0: term n multiplies element (i, n)
of A by element (n, j) of B, each as the Load delivers it. -/
def Obligations.ProductIsOneChain : Prop :=
  ∀ (s : State) (p : Product) (i j : Nat), p.kSeg = 0 ∨ p.k ≤ 128 * p.kSeg →
    p.acc s i j = p.chain s accZero i j 0 p.k ∧
      ∀ n x fl fa fb a b, p.chain s accZero i j 0 n = .ok (x, fl) → p.a.read s p.strict i n = .ok (a, fa) →
        p.b.read s p.strict n j = .ok (b, fb) → ∃ g, p.chain s accZero i j 0 (n + 1) =
          .ok ((accStep p.strict x (cellProduct p.a.deliver p.b.deliver a b)).1, g)

/-- R168, R186, R261, R437: CONVOLVE, ATTEND and MAP on a group whose Chambers run (R14, R15), whose operands can be read whole once
marked blocks of them have been fetched again (R343) and whose outputs lie in memory, write their converted elements (ATTEND its
statistics records before them), move the output's history on by the amax, and complete; no other byte of memory changes. R182,
R184: OPT_STEP in a job of one member writes the new m, v and w of every element that its mask leaves, and the copy, and completes.
R214, R215: SAMPLE on a Gallery that is not held, of a request whose header is good, writes the 16 bytes of each row's result, in
row order. -/
def Obligations.OperationCommands : Prop :=
  (∀ (s : State) (h : Cmd) (job : Nat), s.ready h = true → job = (s.entry h).jobId →
      (∀ p s1 tx tw tout gr g y r m n k s2 o, s1 = s.refetchTensors job [p.x, p.w] → passes (s1.convolveChecks h p) →
        s1.tensor? job p.x = some tx → s1.tensor? job p.w = some tw → s1.tensor? job p.out = some tout →
        s1.jobGroup job 0x41 = some gr → s1.stageRuns (some gr) = true → s1.convolveTask p tx tw tout = .ok y →
        s1.runTasks (s1.heldRects h 0x41) none [({}, y)] = .ok r → g = Geom.of (s1.bytes p.geomAddr 64) → y.blocks = (m, n, k) →
        s2 = (s1.setGroup (s1.convolvePlans gr p g y).1).runPlans (s1.convolvePlans gr p g y).2 (s1.stacksOf job 0 [p.x, p.w]) →
        s2.outputWrites h (if p.role = 0 then tout else tout.unsaved) p.stream p.rnd
          (r.divide (convolveDivision p g m n) (if p.role = 0 then stripeChambers p.stripes gr.chambers else gr.chambers))
          (drainGauss p.drainFunc) (drainFin (s1.strict job) (s1.jobImage job) p.drainFunc (s1.outDraws h tout p.stream)) = .ok o →
        o.far = false →
        ∃ t, exec (.convolve h p) s = .next t ∧ t.isDone h 0 ∧ t.mem = (s.storeAll o.writes).mem ∧ computeOnly s t ∧
          (t.tensor? job p.out).map (·.hist) = some (tout.hist ++ [r.amax])) ∧
      (∀ p s1 tq tout qs g r rs s2 o, s1 = s.refetchTensors job [p.q] → passes (s1.attendChecks h p) →
        s1.tensor? job p.q = some tq → s1.tensor? job p.out = some tout → s1.sequences p = .ok qs →
        s1.jobGroup job 0x42 = some g → s1.stageRuns (some g) = true →
        (∀ q ∈ qs, hdrScales q.kRef.hdr = none ∧ hdrScales q.vRef.hdr = none) →
        attendFormats tq qs = true → badBuckets p.edges (qs.map (·.seqLen)) = none →
        s1.attendAll (if p.listCount = 0 then s1.heldRects h 0x42 else []) p tq tout qs = .ok (r, rs) →
        (∀ w ∈ rs, s1.hostRange w.1 w.2.length = true) →
        s2 = ((s1.storeAll rs).setGroup { g with chunks := g.chunks + 1 }).runPlans (s1.attendPlans g p tq tout qs) (List.range 32) →
        s2.outputWrites h (if p.pass = 0 then tout else tout.unsaved) p.stream p.rnd
          { r with parts := r.parts.flatMap (fun y => y.divide (.alongM (ceilDiv y.rows 128)) g.chambers) } {}
          (drainFin (s1.strict job) (s1.jobImage job) 0xFF (s1.outDraws h tout p.stream)) = .ok o → o.far = false →
        ∃ t, exec (.attend h p) s = .next t ∧ t.isDone h 0 ∧ t.mem = ((s.storeAll rs).storeAll o.writes).mem ∧ computeOnly s t ∧
          (t.tensor? job p.out).map (·.hist) = some (tout.hist ++ [r.amax])) ∧
      (∀ p s1 d x es g r s2 s3 o, s1 = s.refetchTensors job [p.src, p.src2] → passes (s1.mapChecks h p) →
        s1.mapCtx h p = .ok (some (d, x)) → s1.jobGroup job 0x43 = some g → s1.stageRuns (some g) = true →
        x.groups s1 x.all = .ok es → s1.openPart h p d (x.produced (s1.heldRects h 0x43) es) = (r, s2) →
        s3 = (s2.setGroup g).runPlans (g.elementPlans x.dst.rEnd x.dst.cEnd (fun c n => g.plan c 0 1 [.map n]))
          (s1.stacksOf g.job 0 [p.src, p.src2]) →
        s3.outputWrites h d p.stream p.rnd (r.divide (.alongM (ceilDiv x.dst.rEnd 128)) g.chambers) x.gauss x.fin = .ok o →
        o.far = false →
        ∃ t, exec (.map h p) s = .next t ∧ t.isDone h 0 ∧ t.mem = (s.storeAll o.writes).mem ∧ computeOnly s t)) ∧
  (∀ (s : State) (h : Cmd), s.ready h = true →
      (∀ p s1 g x cp mask es ws fl tally, s1 = s.refetchTensors (s.entry h).jobId [p.w, p.m, p.v, p.dw] →
        passes (s1.optChecks h p) → s1.optGroup (s.entry h).jobId p = some g → s1.stageRuns (some g) = true →
        s1.optCtx h p = .ok (some (x, cp)) → (∀ j, s.jobOf h = some j → j.ranks.length < 2) →
        s1.mask p.gmaskAddr x.w.rEnd x.w.cEnd = .ok (.ok mask) →
        x.elems s1 (s1.strict (s.entry h).jobId) (s1.jobImage (s.entry h).jobId) p (x.places s1 h mask) = .ok es →
        x.writes s1 (s1.strict (s.entry h).jobId) (s1.outDraws h cp p.stream) es = .ok (ws, fl, tally) → tally.idxRange = false →
        ∃ t, exec (.optStep h p) s = .next t ∧ t.isDone h 0 ∧ t.mem = (s.storeAll ws).mem ∧ computeOnly s t ∧
          t.tensors = s.tensors) ∧
      (∀ reqAddr g j q, s.jobOf h = some j → j.ended = false → g ≤ 31 → s.samplerRuns g = true → s.hostRange reqAddr 64 = true →
        s.poisoned reqAddr 64 = false → smpHeaderOk (s.bytes reqAddr 64) = true → q = SmpHeader.of (s.bytes reqAddr 64) →
        (∀ x, x = (q.params, 32 * q.rows) ∨ (∃ r, r < q.rows ∧ x = (q.logits + r * q.stride, q.vocab * fmtBytes q.fmt)) →
          s.hostRange x.1 x.2 = true ∧ s.poisoned x.1 x.2 = false) → s.hostRange q.results (16 * q.rows) = true →
        ∃ t, exec (.sample h reqAddr g) s = .next t ∧ t.isDone h 0 ∧ memoryOutside q.results (16 * q.rows) s t ∧
          (regionOf q.results ≠ some .registers →
            ∀ r, r < q.rows → t.bytes (q.results + 16 * r) 16 = (smpRow s (s.jobImage j.id) j.generator q r).1) ∧
          (s.replying h → t.hasReply h q.rows) ∧
          t.reg .glSmpRows g = (s.reg .glSmpRows g + q.rows) % 2 ^ (fieldInfo .glSmpRows).width))

/-- R299, R302: a collective whose parameters are good, with a sequence number that its job has not reached and none of its
source poisoned, is received and waits for its claims; memory is not touched. -/
def Obligations.CollectivesWait : Prop :=
  ∀ (s : State) (h : Cmd) (p : CollParams) (j : Job) (v : View), s.ready h = true → s.jobOf h = some j → j.nextColl ≤ p.collSeq →
    s.coll? j.id p.collSeq = none → s.collSource j.id p.src = .ok v → s.collPoison v = false →
    ∀ c op, (c, op) ∈ [(Instr.allReduce h p, 0x60), (.reduceScatter h p, 0x61), (.allGather h p, 0x62), (.broadcast h p, 0x63)] →
      passes (s.collChecks h op p) → ∃ t x, exec c s = .next t ∧ t.isHeld h ∧ t.mem = s.mem ∧ t.chambers = s.chambers ∧ t.regs = s.regs ∧
        t.coll? j.id p.collSeq = some x ∧ x.cmd = some h ∧ x.opcode = op ∧ x.p = p ∧ x.granted = 0 ∧
        (p.collSeq = j.nextColl → ∃ k, t.job? j.id = some k ∧ p.collSeq < k.nextColl)

/-- R279: an XFER, once marked blocks of its source have been fetched again (R343), within the module copies its bytes (into memory: the
register space takes none), adds to its counter, and completes. One to another module whose dimension-order link is up is held,
with its segments in flight, and module memory as it was; one on a free flow of an edge port is taken by the flow. R10, R261: with a
bit of `DST_MODULE` [31:18] set it completes with `RESERVED_NONZERO`. -/
def Obligations.XferCommand : Prop :=
  (∀ (s : State) (h : Cmd) (p : XferParams), s.ready h = true → p.route ≤ 1 → 2 ^ 18 ≤ p.dstModule →
    ∃ t, exec (.xfer h p) s = .next t ∧ t.isDone h stReserved ∧ t.mem = s.mem ∧ t.xfers = s.xfers) ∧
  ∀ (s : State) (h : Cmd) (p : XferParams), s.ready h = true → s.hostRange p.src p.length = true →
    (s.refetchFirst p.src p.length).poisoned p.src p.length = false →
    (p.route = 0 → p.dstModule = s.self → p.dstModule < 2 ^ 18 → p.increment < 2 ^ 48 → s.hostRange p.dst p.length = true →
      (p.ctrAddr = 0 ∨ s.counterOk p.ctrAddr = true ∧ (p.ctrAddr + 16 ≤ p.dst ∨ p.dst + p.length ≤ p.ctrAddr)) →
      ∃ t, exec (.xfer h p) s = .next t ∧ t.isDone h 0 ∧
        (regionOf p.dst ≠ some .registers → t.bytes p.dst p.length = s.bytes p.src p.length) ∧
        (p.ctrAddr ≠ 0 → t.num p.ctrAddr 8 = (s.num p.ctrAddr 8 + p.increment) % 2 ^ 64) ∧
        (p.ctrAddr = 0 → memoryOutside p.dst p.length s t)) ∧
    (∀ d, p.route = 0 → p.dstModule ≠ s.self → p.dstModule < 2 ^ 18 → p.increment < 2 ^ 48 → s.dorPort p.dstModule = some d →
      s.linkUp d = true → (∀ x ∈ s.xfers, x.cmd ≠ h) → ∃ t x, exec (.xfer h p) s = .next t ∧ t.isHeld h ∧ x ∈ t.xfers ∧ x.cmd = h ∧
        x.p = p ∧ x.segs.length = max 1 (ceilDiv p.length 0x1000000) ∧ (∃ g ∈ x.segs, g.2.2.2 = 1) ∧ t.mem = s.mem ∧
        t.chambers = s.chambers) ∧
    (∀ f, p.route = 1 → p.edgePort ≤ 5 → p.dstModule < 2 ^ 18 → s.flow? p.edgePort p.edgeFlow 1 = some f → f.failed = false → f.sending = none →
      ∃ t, exec (.xfer h p) s = .next t ∧ t.isHeld h ∧ t.mem = s.mem ∧
        (t.flow? p.edgePort p.edgeFlow 1).map (·.sending) = some (some (h, p.src, p.dst, p.length)))

/-- R353: CONTEXT_SAVE of a live job with nothing running writes the context at once, at the destination or, for destination 0,
in a free range of a stack; the job's commands are fetched no more. R354: CONTEXT_RESTORE of a context whose header, length,
CRC and version are good, once marked blocks of it have been fetched again (R343), admits its job with its tensors under the next
identifier. -/
def Obligations.ContextCommands : Prop :=
  ∀ (s : State) (h : Cmd), s.ready h = true →
    (∀ jobId dest j bs, s.job? jobId = some j → j.ended = false → (s.entry h).jobId ≠ jobId → s.runningOf jobId = [] →
      bs = s.contextBytes j (decide (dest = 0)) →
      (dest ≠ 0 → s.contextPoison jobId = none ∧ s.hostRange dest bs.length = true) →
      (dest = 0 → ∃ k x, k < 32 ∧ s.rangeFree (s.pool 2 k) x (ceilDiv bs.length 65536 * 65536) = true) →
      ∃ t a, exec (.contextSave h jobId dest) s = .next t ∧ t.isDone h 0 ∧ (dest ≠ 0 → a = dest) ∧
        (regionOf a ≠ some .registers → t.bytes a bs.length = bs) ∧
        memoryOutside a bs.length s t ∧ (s.replying h → t.hasReply h bs.length) ∧
        t.job? jobId = some { j with saving := true } ∧ t.chambers = s.chambers) ∧
    (∀ src hd n s1, src ≠ 0 → hd = s.bytes src 128 → n = fieldLE hd 56 8 → s1 = (s.refetchFirst src 128).refetchFirst src n →
      s.hostRange src 128 = true → s1.poisoned src 128 = false →
      fieldLE hd 0 4 = 2 ∨ fieldLE hd 0 4 = 3 → fieldLE hd 4 1 = 1 ∨ fieldLE hd 4 1 = 2 → 128 ≤ n → s.hostRange src n = true →
      s1.poisoned src n = false → crc32c (zeroed (s.bytes src n) 52 4) = fieldLE hd 52 4 →
      ownVersions.contains (fieldLE hd 8 1, fieldLE hd 9 1) = true → s.reg .modSumpJobSegs 0 ≤ s.reg .modSumpFree 0 →
      ∃ t j, exec (.contextRestore h src) s = .next t ∧ t.isDone h 0 ∧ t.mem = s.mem ∧ t.jobs = s.jobs ++ [j] ∧ j.id = s.nextJob ∧
        t.nextJob = s.nextJob + 1 ∧ j.seed = fieldLE (s.bytes src n) 24 16 ∧ j.rank = fieldLE (s.bytes src n) 40 4 ∧
        t.tensors.length = s.tensors.length + min (fieldLE (s.bytes src n) 44 4) (n / 64) ∧
        (s.replying h → t.hasReply h s.nextJob))

/-- R412, R328: IDENTIFY and LOG_READ write the identity record and the merged log to host memory, while the function may
master the bus. R227: SLOT_TABLE_SET puts its words into the shadow tables of the Galleries it names, marks them for their next
frame boundary, and waits. R230: CACHE_SPLIT changes every Gallery it names where nothing blocks it. R290: FABRIC_CONFIG that
no condition blocks writes its group at once: a port's, the accepted tags, the torus, or the time root. -/
def Obligations.ModuleCommands : Prop :=
  (∀ (s : State) (h : Cmd), s.ready h = true →
      (∀ a, s.pcie.busMaster = true → ∃ t, exec (.identify h a) s = .next t ∧ t.isDone h 0 ∧
        completionOnly (s.hostWrite a s.identity) t ∧ t.hostBytes a 4096 = s.identity) ∧
      (∀ a maxBytes lo es, s.pcie.busMaster = true → 65536 ≤ maxBytes →
        es = (if s.now < 4000 then [] else wholeTicks (maxBytes / 64) (s.mergedLog lo (s.now - 4000))) →
        ∃ t, exec (.logRead h a maxBytes lo) s = .next t ∧ t.isDone h 0 ∧ t.hostBytes a (64 * es.length) = es.flatMap LogEntry.bytes ∧
          t.mem = s.mem ∧ (s.replying h → t.hasReply h (64 * es.length)) ∧
          (∀ e, es.getLast? = some e → t.reg .modLogReadTs 0 = e.ts % 2 ^ 64)) ∧
      (∀ g table, g ≤ 31 ∨ g = 0xFF → ∃ t, exec (.slotTableSet h g table) s = .next t ∧ t.isHeld h ∧ t.mem = s.mem ∧
        (∀ k w, k < 32 → (g = k ∨ g = 0xFF) → w < 32 → t.reg .glSlotPending k = 1 ∧
          t.reg .glSlotShadow k w = table.getD w 0 % 2 ^ 32) ∧
        sameRegs (fun f u _ => (f = .glSlotShadow ∨ f = .glSlotPending) ∧ (u = g ∨ g = 0xFF)) s t) ∧
      (∀ mask steps, steps ≤ 7 → (∀ g, g < 32 → bit mask g = true → s.splitBlocked g steps = false ∧ s.galleryBusy g = false) →
        ∃ t, exec (.cacheSplit h mask steps) s = .next t ∧ t.isDone h 0 ∧ t.chambers = s.chambers ∧
          (∀ g, g < 32 → t.reg .glCacheSteps g = (if bit mask g then steps else s.reg .glCacheSteps g)) ∧
          ∀ x, (∀ g, g < 32 → bit mask g = true → ¬ (galleryBase + g * gallerySize ≤ x ∧ x < galleryBase + (g + 1) * gallerySize)) →
            t.byte x = s.byte x)) ∧
  (∀ (s : State) (h : Cmd) (bs : List Byte), s.ready h = true → fieldLE bs 0 1 ≤ 3 → (fieldLE bs 0 1 = 0 → fieldLE bs 1 1 ≤ 5) →
      fabricReserved bs = none → s.fabricBusy bs = false →
      ∃ t, exec (.fabricConfig h bs) s = .next t ∧ t.isDone h 0 ∧ t.chambers = s.chambers ∧
        (fieldLE bs 0 1 ≠ 0 → t.mem = s.mem) ∧
        (fieldLE bs 0 1 = 0 → t.reg .portMode (fieldLE bs 1 1) = bits (fieldLE bs 2 1) 2 2 ∧
          t.reg .portEnable (fieldLE bs 1 1) = bits (fieldLE bs 2 1) 0 0 ∧ t.reg .portHalfOk (fieldLE bs 1 1) = bits (fieldLE bs 2 1) 1 1 ∧
          t.reg .portPfcEn (fieldLE bs 1 1) = bits (fieldLE bs 2 1) 3 3 ∧ t.reg .portPfcPrio (fieldLE bs 1 1) = bits (fieldLE bs 2 1) 6 4) ∧
        (fieldLE bs 0 1 = 1 → ∀ n, n < 4 → t.reg .fabAcceptTag 0 n = bits (fieldLE bs (4 + 4 * n) 4) 11 0 ∧
          t.reg .fabTagValid 0 n = bits (fieldLE bs (4 + 4 * n) 4) 31 31) ∧
        (fieldLE bs 0 1 = 2 → t.reg .fabModuleAddr 0 = bits (fieldLE bs 4 4) 17 0 ∧ t.reg .fabAddrValid 0 = bits (fieldLE bs 4 4) 31 31 ∧
          t.reg .fabSizeX 0 = bits (fieldLE bs 8 4) 5 0 ∧ t.reg .fabSizeY 0 = bits (fieldLE bs 8 4) 13 8 ∧
          t.reg .fabSizeZ 0 = bits (fieldLE bs 8 4) 21 16 ∧ t.reg .fabAdaptiveEn 0 = bits (fieldLE bs 12 1) 0 0 ∧
          t.reg .fabAddrCheck 0 = bits (fieldLE bs 12 1) 1 1) ∧
        (fieldLE bs 0 1 = 3 → t.reg .modTimeRoot 0 = bits (fieldLE bs 4 4) 17 0 ∧ t.reg .modRootValid 0 = bits (fieldLE bs 4 4) 31 31))

/-- R363, R366: POWER_STATE completes where the module is in the state asked for and begins the transition otherwise; POWER_CAP
sets the host's cap, and with it the effective one, and waits until the cap is met. R398: SETTINGS_STORE of values in range, R388:
FW_ACTIVATE of a good image (once marked blocks of it have been fetched again, R343), and R392: ATTEST with a token and a ready tree queue their line writes and wait; the non-volatile
memory itself has not changed yet. -/
def Obligations.PowerAndStoreCommands : Prop :=
  ∀ (s : State) (h : Cmd), s.ready h = true →
    (∀ target, target ≤ 2 → s.power.moving = none → s.power.queuedPower = [] →
      (target = 0 → s.jobs.all (·.ended) = true ∧ s.outstanding.all (fun o => o.cmd == h || o.phase == .fetched || o.opcode == 0x70) = true) →
      ∃ t, exec (.powerState h target) s = .next t ∧ t.mem = s.mem ∧
        (s.reg .modPowerState 0 = target + 1 → t.isDone h 0 ∧ t.power.moving = none) ∧
        (s.reg .modPowerState 0 ≠ target + 1 → t.isHeld h ∧ t.power.moving = some (target + 1, some h))) ∧
    (∀ cap, cap = 0 ∨ (1800 ≤ cap ∧ cap ≤ 7200) → ∃ t, exec (.powerCap h cap) s = .next t ∧ t.isHeld h ∧
      h ∈ t.power.capCmds ∧ t.reg .modHostCap 0 = (if cap = 0 then 7200 else cap) ∧
      t.reg .modEffectiveCap 0 = t.capNow ∧ t.capNow ≤ t.reg .modHostCap 0 ∧ t.mem = s.mem) ∧
    (∀ offset data, s.boot.setBusy = none → data.length ≤ 960 → offset + data.length ≤ 16384 →
      settingsBad (splice s.settingsImage offset data) offset (offset + data.length) = none →
      ∃ t ws, exec (.settingsStore h offset data) s = .next t ∧ t.isHeld h ∧ t.boot.setBusy = some h ∧ t.nvMem = s.nvMem ∧
        t.nvQueue = s.nvQueue ++ ws ∧ ws.length = 257 ∧ ∀ w ∈ ws, w.prio = 4 ∧ w.tag = 3) ∧
    (∀ a n, s.boot.fwBusy = none → s.hostRange a 256 = true → n = (if imageHeaderOk (s.bytes a 256) then imageLen (s.bytes a 256) else 256) →
      s.hostRange a n = true → (s.refetchFirst a n).poisoned a n = false →
      (imageFails s.slotState (s.bytes a n) = none → ∃ t ws, exec (.fwActivate h a) s = .next t ∧ t.isHeld h ∧
        t.boot.fwBusy = some (h, s.otherSlot) ∧ t.nvMem = s.nvMem ∧ t.nvQueue = s.nvQueue ++ ws ∧ ∀ w ∈ ws, w.prio = 5 ∧ w.tag = 4) ∧
      (∀ code, imageFails s.slotState (s.bytes a n) = some code → ∃ t, exec (.fwActivate h a) s = .next t ∧
        t.isDone h stBadParam ∧ completionOnly ((s.refetchFirst a n).readRange none clsManagement false a n) t ∧ t.mem = s.mem ∧
        t.nvMem = s.nvMem ∧ t.nvQueue = s.nvQueue ∧ t.boot = s.boot)) ∧
    (∀ nonce a, s.keyUninit = false → s.reg .modKeyNextQ 0 < 2 ^ 25 → s.reg .modAttestTokens 0 ≠ 0 → s.reg .modKeyReady 0 ≠ 0 →
      s.keys.signing = none → s.keys.waiting = [] → ∃ t w, exec (.attest h nonce a) s = .next t ∧ t.isHeld h ∧
        t.keys.signing = some (h, nonce, a) ∧ t.reg .modAttestTokens 0 = (s.reg .modAttestTokens 0 - 1) % 2 ^ (fieldInfo .modAttestTokens).width ∧
        t.nvMem = s.nvMem ∧ t.nvQueue = s.nvQueue ++ [w] ∧ w.prio = 1 ∧ t.mem = s.mem)

/-! ### Queues, interrupts and the function -/

/-- R246, R249, R250: COMMAND_FETCH takes the packet at the head of the queue that arbitration names: the head passes its slots
and, where its sequence number is the next one and every header check passes, it is outstanding. A wrong sequence number puts
the queue into ERROR. R252, R253: COMMAND_START starts a fetched command whose dependencies, order and time are met, and
completes one whose dependency has failed; one that waits stays as it is. R253, R255: a dependency on a command that has not
been fetched for 10 ms, a counter that has not reached its target within the limit, and a command that has run longer than its
limit each complete their command; what it has written stays, but for the output tensors of a command that ran, which hold free
values (R256). -/
def Obligations.CommandExecution : Prop :=
  (∀ (s : State),
      (∀ q hd bs, s.pcie.busMaster = true → s.outstanding.length < 4096 → s.arbitrate = some q →
        hd = headerOf (s.slotBytes (s.queue q) 1) → bs = s.slotBytes (s.queue q) hd.takes →
        (hd.seq = (s.queue q).nextSeq → (∀ c ∈ (s.queue q).cancelled, c.1 ≠ hd.seq) → passes (s.headerChecks q (s.queue q) hd bs) →
          opChambers hd.opcode = false ∨ s.reg .modPowerState 0 ≠ 1 → ∃ t, exec .commandFetch s = .next t ∧
            t.outstanding = s.outstanding ++ [outstandingOf s q hd bs] ∧ t.mem = s.mem ∧ t.hostMem = s.hostMem ∧
            t.queue q = { s.queue q with
              head := ((s.queue q).head + hd.takes) % (s.queue q).slots, nextSeq := ((s.queue q).nextSeq + 1) % 2 ^ 32 } ∧
            (∀ k, k ≠ q → t.queue k = s.queue k)) ∧
        (hd.seq ≠ (s.queue q).nextSeq → ∃ t, exec .commandFetch s = .next t ∧ (t.queue q).state = .error ∧
          t.outstanding = s.outstanding ∧ t.mem = s.mem ∧ ∀ k, k ≠ q → t.queue k = s.queue k)) ∧
      (∀ h o, s.outstanding.find? (fun o => o.cmd == h) = some o → o.phase = .fetched →
        ((∀ x ∈ s.depStates o, x = .met) → s.orderMet o = true → s.timeMet o = true → s.saving o.jobId = false →
          s.powerGate o.opcode = .go → ∃ t, exec (.commandStart h) s = .next t ∧ s.isOut h = true ∧ t.mem = s.mem ∧
            t.queues = s.queues ∧ t.entry h = { o with phase := .started, startTs := s.now }) ∧
        (∀ st d, (s.depStates o).findSome? depBad = some (st, d) → ∃ t, exec (.commandStart h) s = .next t ∧ t.isDone h st ∧
          completionOnly s t) ∧
        ((s.depStates o).findSome? depBad = none → DepState.waits ∈ s.depStates o → exec (.commandStart h) s = .next s))) ∧
  (∀ (s : State) (h : Cmd) (o : Outstanding), s.outstanding.find? (fun o => o.cmd == h) = some o →
      (∀ i d, o.deps[i]? = some d → o.phase = .fetched → s.depState h i d = .future → o.acceptTs + 20000000 ≤ s.now →
        ∃ t, exec (.depFuture h i) s = .next t ∧ t.isDone h stDepFuture ∧ completionOnly s t) ∧
      (∀ l, limitTicks o.opcode o.timeoutUs = some l → o.phase ≠ .fetched → o.startTs + l < s.now →
        ∃ t, exec (.commandTimeout h) s = .next t ∧ t.isDone h stTimeout ∧ t.mem = (s.undefineOutputs h).mem ∧
          (outputOffsets o.opcode = [] → t.mem = s.mem)) ∧
      (∀ d, d ∈ o.deps → d.kind = 2 → s.count d.addr < d.target → o.phase = .fetched →
        (∀ l, limitTicks o.opcode o.timeoutUs = some l → o.acceptTs + l < s.now →
          ∃ t, exec (.counterDependencyTimeout h) s = .next t ∧ t.isDone h stTimeout ∧ completionOnly s t) ∧
        (opColl o.opcode = true → o.timeoutUs ≠ 0 → o.acceptTs + 2000 * o.timeoutUs < s.now →
          ∃ t, exec (.counterDependencyTimeout h) s = .next t ∧ t.isDone h stTimeout ∧ completionOnly s t)))

/-- R246, R248, R257, R258: a status entry is written where the ring of its queue has room, and leaves the queue's replies; the
time limit of coalescing sends the queue's interrupt; the two doorbells move the tail and the head that the host writes, and a
tail beyond the ring puts its queue into ERROR. -/
def Obligations.StatusRingAndDoorbells : Prop :=
  ∀ (s : State) (q : Nat),
    (∀ r, s.pcie.busMaster = true → (s.queue q).state = .active → (s.queue q).stTail - (s.queue q).stHead < (s.queue q).entries →
      nextReply (s.queue q).replies = some r → ∃ t, exec (.statusEntryWrite q) s = .next t ∧ t.mem = s.mem ∧
        t.hostBytes ((s.queue q).stqBase + 64 * ((s.queue q).stTail % (s.queue q).entries)) 64 = statusBytes (s.queue q) r ∧
        (t.queue q).stTail = (s.queue q).stTail + 1 ∧ (t.queue q).replies = (s.queue q).replies.erase r ∧
        t.chambers = s.chambers ∧ ∀ k, k ≠ q → t.queue k = s.queue k) ∧
    ((s.queue q).unsignalled ≠ 0 → (s.queue q).coalesceUs ≠ 0 →
      (s.queue q).unsignalledSince + 2000 * (s.queue q).coalesceUs ≤ s.now → ∃ t, exec (.interruptCoalescing q) s = .next t ∧
        t.queue q = { s.queue q with unsignalled := 0 } ∧ t.mem = s.mem ∧
        (∀ v, v = (if q = 0 then 0 else (s.queue q).msix) → (if s.pcie.busMaster = true ∧ s.reg .pciMsixMask 0 v = 0 then
          t.outbox = .msix v :: s.outbox else v ∈ t.pcie.pba))) ∧
    (∀ value, s.rings q = true →
      (value % 65536 < (s.queue q).slots → ∃ t, exec (.sqTail q value) s = .next t ∧
        t = s.modQueue q (fun x => { x with tail := value % 65536 })) ∧
      ((s.queue q).slots ≤ value % 65536 → (s.queue q).state = .active → ∃ t, exec (.sqTail q value) s = .next t ∧
        (t.queue q).state = .error ∧ (t.queue q).tail = (s.queue q).tail ∧ t.mem = s.mem) ∧
      (∀ n, 0 < n → n ≤ (s.queue q).stTail - (s.queue q).stHead → (s.queue q).stTail - (s.queue q).stHead ≤ (s.queue q).entries →
        value % 65536 = ((s.queue q).stHead + n) % (s.queue q).entries → exec (.stqHead q value) s =
          .next (s.modQueue q (fun x => { x with stHead := x.stHead + n })))) ∧
    (∀ value, s.rings q = false → ∃ t, exec (.sqTail q value) s = .next t ∧ exec (.stqHead q value) s = .next t ∧
      t.reg .pciAccessErr 0 = 1 ∧ t.queues = s.queues)

/-- R406: a write of 1 to AQ_ENABLE after boot, with a ring that R245 allows, makes the admin queue ACTIVE and new; AQ_RESET makes
it ABSENT in silence. R401: BUS_MASTER_ENABLE lets pending messages whose vectors are unmasked leave. R409: a function reset ends
every job and command and leaves every queue ABSENT; memory is as it was where no command with an output tensor ran (R256). R402: the link trains once reset is released and
stage 1 has ended. -/
def Obligations.FunctionControl : Prop :=
  ∀ (s : State),
    (∀ value, value % 2 = 1 → s.reg .pciReady 0 ≠ 0 → 6 ≤ s.reg .pciAqSqLog2 0 → s.reg .pciAqSqLog2 0 ≤ 16 →
      6 ≤ s.reg .pciAqStqLog2 0 → s.reg .pciAqStqLog2 0 ≤ 16 → s.reg .pciAqSqBase 0 % 4096 = 0 → s.reg .pciAqStqBase 0 % 4096 = 0 →
      (s.queue 0).state = .absent → ∃ t, exec (.aqEnable value) s = .next t ∧ t.reg .pciAqEnable 0 = 1 ∧
        t.reg .pciAqReady 0 = 1 ∧ t.mem = s.mem ∧ (∀ o ∈ t.outcomes, o.cmd.queue ≠ 0) ∧ (∀ k, k ≠ 0 → t.queue k = s.queue k) ∧
        t.queue 0 = {
          state := .active, sqLog2 := s.reg .pciAqSqLog2 0, stqLog2 := s.reg .pciAqStqLog2 0, sqBase := s.reg .pciAqSqBase 0
          stqBase := s.reg .pciAqStqBase 0 }) ∧
    ((∀ c ∈ s.colls, ∀ h, c.cmd = some h → h.queue ≠ 0) →
      (∀ o ∈ s.outstanding, o.cmd.queue = 0 → o.phase = .fetched ∨ outputOffsets o.opcode = []) → ∃ t, exec .aqReset s = .next t ∧ (t.queue 0).state = .absent ∧
      (∀ o ∈ t.outstanding, o.cmd.queue ≠ 0) ∧ t.reg .pciAqEnable 0 = 0 ∧ t.reg .pciAqReady 0 = 0 ∧ t.reg .pciAqError 0 = 0 ∧
      t.mem = s.mem ∧ t.hostMem = s.hostMem) ∧
    (exec (.busMasterEnable false) s = .next { s with pcie := { s.pcie with busMaster := false } }) ∧
    (∃ t, exec (.busMasterEnable true) s = .next t ∧ t.pcie.busMaster = true ∧ t.keys.unsent = [] ∧ t.mem = s.mem ∧
      ∀ v ∈ s.pcie.pba, s.reg .pciMsixMask 0 v = 0 → .msix v ∈ t.outbox ∧ v ∉ t.pcie.pba) ∧
    (∃ t, exec .pcieReset s = .next t ∧ t.outstanding = [] ∧ (∀ q, q < 64 → (t.queue q).state = .absent) ∧
      (∀ id j, t.job? id = some j → j.ended = true) ∧ t.reg .pciAqEnable 0 = 0 ∧ t.hostMem = s.hostMem ∧
      ((∀ o ∈ s.outstanding, o.phase = .fetched ∨ outputOffsets o.opcode = []) → t.mem = s.mem)) ∧
    (∃ t, exec .perstDeassert s = .next t ∧ t.pcie.perst = false ∧ t.mem = s.mem ∧
      (2 ≤ s.reg .modBootStage 0 → s.pcie.trained = false → t.pcie.trained = true ∧ t.reg .mgtLinkUp 0 = 1))


/-! ### Register writes and the management interface -/

/-- R268, R269, R272, R287, R292: the commands of a port. RETRAIN takes a port that is not in edge mode to DETECT and ends its
refusal; IN_SERVICE takes one in STANDBY to ACTIVE; MODE is written only while the link is DOWN, else the write is an access
error; EDGE_COMMIT reads the port's table, unless one of its flows is in the middle of a transfer. -/
def Obligations.PortControls : Prop :=
  ∀ (s : State) (p : Nat),
    (s.reg .portMode p = 1 → exec (.retrain p) s = .next s) ∧
    (s.reg .portMode p ≠ 1 → ∃ t, exec (.retrain p) s = .next t ∧ t.reg .portLinkState p = 1 ∧ (t.port p).blocked = false ∧
      (s.reg .portLinkState p ≠ 6 → t.mem = s.mem)) ∧
    (∃ t, exec (.inService p) s = .next t ∧ t.reg .portInService p = 1 ∧ t.mem = s.mem ∧ t.chambers = s.chambers ∧
      t.reg .portLinkState p = (if s.reg .portLinkState p = 5 then 6 else s.reg .portLinkState p)) ∧
    (∀ v, (s.reg .portLinkState p = 0 → ∃ t, exec (.mode p v) s = .next t ∧ t.reg .portMode p = v % 2 ∧
        t.reg .portRate p = (if v % 2 = 1 then 3 else 0) ∧ outsideSame s t ∧ t.chambers = s.chambers ∧
        sameRegs (fun f u k => (f = .portMode ∨ f = .portRate) ∧ u = p ∧ k = 0) s t) ∧
      (s.reg .portLinkState p ≠ 0 → exec (.mode p v) s = .next (s.flag .portAccessErr p))) ∧
    ((∃ f ∈ s.flows, f.port = p ∧ f.busy = true) → exec (.edgeCommit p) s = .next (s.flag .portFlowBusy p)) ∧
    ((∀ f ∈ s.flows, f.port = p → f.busy = false) → s.hostRange (s.reg .portEdgeTable p) edgeTableBytes = true →
      ∃ t, exec (.edgeCommit p) s = .next t ∧ t.mem = s.mem ∧ t.regs = s.regs ∧ t.chambers = s.chambers ∧
        t.flows.filter (fun f => f.port != p) = s.flows.filter (fun f => f.port != p) ∧
        (∀ f ∈ t.flows, f.port = p → f.busy = false) ∧
        ∀ f, (f ∈ t.flows ∧ f.port = p ↔
          ∃ i, i < 256 ∧ flowOf p (s.bytes (s.reg .portEdgeTable p + 256 + 64 * i) 64) = some f))

/-- Fields of the register space whose write by the control complex does more than their access code says. -/
def actingFields : List Field :=
  [.chComplexHold, .glComplexHold, .dieComplexHold, .chRngMode, .chBoundaryBase, .chBoundarySlots, .glCacheSteps, .glReqComplex,
   .modHostCap, .modTimeRoot, .modRootValid, .fabModuleAddr, .fabAddrValid, .portEnable, .portMode, .portInService]

/-- R7, R9, R183, R217, R404, R411: a write of the control complex to a field without an action of its own does what the access
code says and nothing else; a generator or mask register of a strand at work, and a reserved encoding, keep their value and
set the error bit; a host write before the module is ready, and every write through the window, is ignored with an error. -/
def Obligations.RegisterWrites : Prop :=
  ∀ (s : State) (f : Field) (u i v : Nat), fieldExists f u i = true →
    ((fieldInfo f).block ≠ .pci → (fieldInfo f).block ≠ .mgt → encodingOk f (v % 2 ^ (fieldInfo f).width) = true →
      f ∉ actingFields →
      (rngField f = true → s.strandBusy u i = true → exec (.registerWrite .complex f u i v) s = .next (s.flag .chRngBusy u)) ∧
      (maskField f = true → s.reg .chState u i ≠ psEmpty → s.reg .chState u i ≠ psDone →
        exec (.registerWrite .complex f u i v) s = .next (s.flag .chGmaskBusy u)) ∧
      ((rngField f = true → s.strandBusy u i = false) →
        (maskField f = true → s.reg .chState u i = psEmpty ∨ s.reg .chState u i = psDone) →
        ((fieldInfo f).acc = .rw ∨ (fieldInfo f).acc = .rws → ∃ t, exec (.registerWrite .complex f u i v) s = .next t ∧
          t.reg f u i = v % 2 ^ (fieldInfo f).width ∧ outsideSame s t ∧ t.chambers = s.chambers ∧
          sameRegs (fun g w k => g = f ∧ w = u ∧ k = i) s t) ∧
        ((fieldInfo f).acc = .rw1c → s.reg f u i < 2 ^ (fieldInfo f).width →
          ∃ t, exec (.registerWrite .complex f u i v) s = .next t ∧ t.reg f u i = s.reg f u i - (s.reg f u i &&& v % 2 ^ (fieldInfo f).width) ∧
            outsideSame s t ∧ t.chambers = s.chambers ∧ sameRegs (fun g w k => g = f ∧ w = u ∧ k = i) s t) ∧
        ((fieldInfo f).acc = .ro → exec (.registerWrite .complex f u i v) s = .next s))) ∧
    ((fieldInfo f).block ≠ .pci → (fieldInfo f).block ≠ .mgt → encodingOk f (v % 2 ^ (fieldInfo f).width) = false →
      exec (.registerWrite .complex f u i v) s = .next (s.refusedEncoding f u)) ∧
    (f = .chWalkAhead → v % 2 ^ (fieldInfo f).width = 0 →
      exec (.registerWrite .complex f u i v) s = .next (s.flag .chAccessErr u)) ∧
    ((fieldInfo f).block = .pci → s.reg .pciReady 0 = 0 →
      exec (.registerWrite .host f u i v) s = .next (s.flag .pciAccessErr 0)) ∧
    exec (.registerWrite .window f u i v) s = .next (s.flag .pciAccessErr 0)

/-- R366, R410, R413 to R416: MGT_CAP takes 0 and 1,800 to 7,200 W and refuses the rest with an access error; a right MGT_RESET_KEY
resets the module, which keeps its module address and, until boot writes it, its memory; MFR_MGT_ADDR and MFR_MGT_DATA set the
address and move one word of the management view, whose address advances by 4. -/
def Obligations.ManagementView : Prop :=
  ∀ (s : State),
    (∀ v, (v = 0 ∨ (1800 ≤ v ∧ v ≤ 7200) → ∃ t, exec (.mgtCap v) s = .next t ∧ t.reg .mgtCap 0 = v ∧
        t.reg .modMgmtCap 0 = (if v = 0 then 7200 else v) ∧ t.reg .modEffectiveCap 0 = t.capNow ∧ t.mem = s.mem ∧
        t.chambers = s.chambers) ∧
      (v ≠ 0 → v < 1800 ∨ 7200 < v → exec (.mgtCap v) s = .next (s.flag .mgtAccessErr 0))) ∧
    (∀ v, (v % 65536 ≠ 0xD2C1 → exec (.mgtResetKey v) s = .next (s.flag .mgtAccessErr 0)) ∧
      (v % 65536 = 0xD2C1 → s.power.on = false → exec (.mgtResetKey v) s = .next s) ∧
      (v % 65536 = 0xD2C1 → s.power.on = true → ∃ t, exec (.mgtResetKey v) s = .next t ∧ t.outstanding = [] ∧ t.jobs = [] ∧
        t.chambers = [] ∧ t.queues = [] ∧ t.mem = s.mem ∧ t.power.on = true ∧
        t.reg .fabModuleAddr 0 = s.reg .fabModuleAddr 0 % 2 ^ 18 ∧ ∀ c, t.reg .chRetired c = 0)) ∧
    (∀ a, s.power.on = true →
      exec (.mfrMgtAddr a) s = .next { s with smbus := { s.smbus with mgtAddr := a % 65536 } } ∧
      (∀ v, exec (.mfrMgtData (some v)) s =
        .next (({ s with smbus := { s.smbus with mgtAddr := (s.smbus.mgtAddr + 4) % 65536 } }).mgtWrite s.smbus.mgtAddr v)) ∧
      ∃ t w, exec (.mfrMgtData none) s = .next t ∧ t.outbox = .pmbus (bytesLE 1 4 ++ bytesLE 4 w) :: s.outbox ∧ t.mem = s.mem ∧
        t.regs = s.regs ∧ t.chambers = s.chambers ∧ t.smbus.mgtAddr = (s.smbus.mgtAddr + 4) % 65536 ∧
        (s.smbus.mgtAddr ≠ 0x20 → s.smbus.mgtAddr ≠ 0x24 → s.smbus.mgtAddr ≠ 0x34 → w = s.mgtWord s.smbus.mgtAddr) ∧
        (s.smbus.mgtAddr = 0x20 → w = s.reg .modInputEnergy 0 % 2 ^ 32 ∧
          t.smbus.latched = some (0x24, s.reg .modInputEnergy 0 / 2 ^ 32)) ∧
        (s.smbus.mgtAddr = 0x24 → ∀ x, s.smbus.latched = some (0x24, x) → w = x)) ∧
    (∀ v, v % 2 ^ 13 = v → v ≤ 7200 → 1800 ≤ v → (s.mgtWrite 0x04 v).reg .mgtCap 0 = v) ∧
    (∀ off v, off ∉ [0x04, 0x08, 0x0C, 0x10, 0x30, 0x38] → s.mgtWrite off v = s.flag .mgtAccessErr 0)

/-- R413, R414: the PMBus readings. With the always-on rail down nothing answers. A reading of a measured value is in Linear11: of
the exponents whose mantissa holds the value, the lowest, and a mantissa next to the exact one on either side (which side, where
it is not exact, the spec leaves open: log 41). -/
def Obligations.PmbusReadings : Prop :=
  ∀ (s : State),
    (s.power.on = false → ∀ code a w, ∀ c ∈ [Instr.statusByte, .statusWord, .statusInput, .statusTemperature, .readVin, .readIin,
      .readPin, .readTemperature1, .readTemperature2, .readTemperature3, .pmbusRevision, .mfrId, .mfrModel, .mfrSerial,
      .pmbusRefused code, .alertResponse, .mfrMgtAddr a, .mfrMgtData w], exec c s = .next s) ∧
    (s.power.on = true →
      exec .statusByte s = .next (s.send (.pmbus (bytesLE 1 s.statusBits))) ∧
      exec .statusWord s = .next (s.send (.pmbus (bytesLE 2 s.statusBits))) ∧
      exec .statusInput s = .next (s.send (.pmbus (bytesLE 1 (64 * s.reg .modInputHigh 0 + 32 * s.reg .modInputLow 0)))) ∧
      exec .statusTemperature s = .next (s.send (.pmbus (bytesLE 1 (if s.thermalAction then 64 else 0)))) ∧
      exec .pmbusRevision s = .next (s.send (.pmbus [0x33])) ∧
      exec .mfrId s = .next (s.send (.pmbus [4, 0x53, 0x56, 0x4C, 0x59])) ∧
      (∃ d, d.length = 4 ∧ exec .mfrModel s =
        .next (s.send (.pmbus ([12, 0x53, 0x56, 0x4C, 0x2D, 0x44, 0x4D, 0x32, 0x2D] ++ d)))) ∧
      (∃ d, d.length = 16 ∧ exec .mfrSerial s = .next (s.send (.pmbus (16 :: d)))) ∧
      (s.alertLow = true → exec .alertResponse s = .next (s.send (.pmbus (bytesLE 1 (2 * s.smbus.address))))) ∧
      (s.alertLow = false → exec .alertResponse s = .next s) ∧
      (∀ code, code ∉ pmbusCodes → exec (.pmbusRefused code) s =
        .next ({ s with smbus := { s.smbus with cml := true } }.send (.pmbus [0xFF]))) ∧
      (∀ c num den, (c, num, den) ∈ [(Instr.readVin, s.reg .modVin 0, 100), (.readIin, s.reg .modIin 0, 100),
          (.readPin, s.reg .modPin 0, 1), (.readTemperature1, s.hottest.1, 1), (.readTemperature2, s.hottest.2, 1),
          (.readTemperature3, s.reg .modCoolantOut 0, 2)] → num < 1023 * den * 2 ^ 15 →
        ∃ t e m, exec c s = .next t ∧ e < 32 ∧ m ≤ 1023 ∧
          t.outbox = .pmbus (bytesLE 2 (m + 2 ^ 11 * ((e + 16) % 32))) :: s.outbox ∧
          { t with outbox := s.outbox, fresh := s.fresh } = s ∧
          m * (den * 2 ^ (e - 16)) ≤ num * 2 ^ (16 - e) + den * 2 ^ (e - 16) ∧
          num * 2 ^ (16 - e) ≤ (m + 1) * (den * 2 ^ (e - 16)) ∧
          ∀ k, k < e → 1023 * (den * 2 ^ (k - 16)) ≤ num * 2 ^ (16 - k)))


/-! ### Boot, the input and power -/

/-- R361, R385, R386, R416: INPUT_POWER_UP starts boot at stage 1, unless the module runs or has tripped. BOOT_STAGE_END ends the
stage in progress: stage 5 leaves every byte of memory zero, and stage 8 makes the module ready in its first power state with
every working Chamber released by the complex. A boot error or a hold of boot in stage 2 ends nothing. BOOT_LIMIT resets a boot
that has not come to its end. (That `BOOT_STAGE` names the stage in progress is log 33.) -/
def Obligations.BootSequence : Prop :=
  ∀ (s : State),
    (∀ a, (s.power.on = true ∨ s.power.tripped = true → exec (.inputPowerUp a) s = .next s) ∧
      (s.power.on = false → s.power.tripped = false → ∃ t, exec (.inputPowerUp a) s = .next t ∧ t.power.on = true ∧
        t.smbus.address = 0x4C + a % 4 ∧ t.reg .modBootStage 0 = 1 ∧ t.mem = s.mem ∧ t.chambers = s.chambers ∧
        sameRegs (fun f u k => f = .modBootStage ∧ u = 0 ∧ k = 0) s t)) ∧
    (∀ f : BootFindings, s.power.on = false ∨ s.reg .modBootErr 0 ≠ 0 ∨ s.reg .modPowerState 0 ≠ 0 ∨
        (s.jtag.extestHold = true ∧ s.reg .modBootStage 0 = 2) → exec (.bootStageEnd f) s = .next s) ∧
    (∀ f : BootFindings, s.power.on = true → s.reg .modBootErr 0 = 0 → s.reg .modPowerState 0 = 0 →
      (s.jtag.extestHold = true → s.reg .modBootStage 0 ≠ 2) → ∃ t, exec (.bootStageEnd f) s = .next t ∧
        (s.reg .modBootStage 0 = 1 → t.mem = s.mem ∧ t.reg .modBootStage 0 = 2 ∧
          t.reg .modBootErr 0 = (if f.complexFails then 3 else 0) ∧ (s.pcie.perst = false → t.pcie.trained = true)) ∧
        (s.reg .modBootStage 0 = 2 → t.mem = s.mem ∧ (f.recordFails = true → t.reg .modBootStage 0 = 2 ∧ t.reg .modBootErr 0 = 2)) ∧
        (s.reg .modBootStage 0 = 3 → t.mem = s.mem ∧ t.reg .modBootStage 0 = 4 ∧
          ∀ d ∈ f.failedDies, ∀ c, c / 32 = d → t.reg .chRetired c = 1) ∧
        (s.reg .modBootStage 0 = 4 → t.mem = s.mem ∧ t.reg .modBootStage 0 = 5 ∧
          ∀ k, k < 32 → if f.failedStacks.contains k then k ∈ t.withdrawn else t.reg .hbmStackOnline k = 1) ∧
        (s.reg .modBootStage 0 = 5 → t.reg .modBootStage 0 = 6 ∧ t.mem = [] ∧ t.poison = [] ∧ ∀ x, t.byte x = 0) ∧
        (s.reg .modBootStage 0 = 6 → t.mem = s.mem ∧ t.reg .modBootStage 0 = 7 ∧
          ∀ c ∈ f.failedChambers, t.reg .chRetired c = 1) ∧
        (s.reg .modBootStage 0 = 7 → t.reg .modBootStage 0 = 8) ∧
        (s.reg .modBootStage 0 = 8 → t.mem = s.mem ∧ t.reg .pciReady 0 = 1 ∧ t.reg .modBootTime 0 = s.now % 2 ^ 64 ∧
          t.reg .modPowerState 0 = (if s.parkAtBoot then 1 else 2) ∧
          ∀ c, c < 256 → s.reg .chRetired c = 0 → t.reg .chComplexHold c = 0)) ∧
    (s.reg .modBootStage 0 = 0 ∨ s.reg .modPowerState 0 ≠ 0 ∨ s.reg .modBootErr 0 ≠ 0 ∨
        (s.jtag.extestHold = true ∧ s.reg .modBootStage 0 = 2) ∨ s.power.on = false → exec .bootLimit s = .next s) ∧
    (s.reg .modBootStage 0 ≠ 0 → s.reg .modPowerState 0 = 0 → s.reg .modBootErr 0 = 0 →
      (s.jtag.extestHold = true → s.reg .modBootStage 0 ≠ 2) → s.power.on = true → ∃ t, exec .bootLimit s = .next t ∧
        t.outstanding = [] ∧ t.mem = s.mem ∧ t.chambers = [] ∧ t.power.on = true ∧
        (s.reg .modBootStage 0 < 3 → t.reg .modBootStage 0 = s.reg .modBootStage 0) ∧
        (3 ≤ s.reg .modBootStage 0 → t.reg .modBootStage 0 = 3 ∨ (t.reg .modBootStage 0 = 2 ∧ t.reg .modBootErr 0 = 1)))

/-- R358 to R360, R375, R377: an input sample is shown, its energy counted, its warnings set, and a sample over a limit halves
every Chamber clock. A shutdown, the removal of the input and a thermal trip leave the module Off: nothing in memory, no
command, every register at its reset value; after a trip the input powers nothing up until it has been removed. -/
def Obligations.InputAndShutdown : Prop :=
  ∀ (s : State),
    (∀ vin iin pin, ∃ t, exec (.inputSample vin iin pin) s = .next t ∧ t.mem = s.mem ∧ t.chambers = s.chambers ∧
      t.reg .modVin 0 = vin % 2 ^ 16 ∧ t.reg .modIin 0 = iin % 2 ^ 16 ∧ t.reg .modPin 0 = pin % 2 ^ 16 ∧
      t.power.energyFrac = (s.power.energyFrac + vin * iin) % 10000000 ∧
      t.reg .modInputEnergy 0 = (s.reg .modInputEnergy 0 + (s.power.energyFrac + vin * iin) / 10000000) % 2 ^ 64 ∧
      t.reg .modInputLow 0 = (if vin < 4400 then 1 else s.reg .modInputLow 0) ∧
      t.reg .modInputHigh 0 = (if 5950 < vin then 1 else s.reg .modInputHigh 0) ∧
      (72000000 < vin * iin ∨ 16400 < iin → s.reg .glDivided 0 ≠ 1 → ∀ g, g < 32 → t.reg .glDivided g = 1) ∧
      (vin * iin ≤ 72000000 → iin ≤ 16400 → ∀ g, t.reg .glDivided g = s.reg .glDivided g)) ∧
    (∀ c ∈ [Instr.underVoltageShutdown, .overVoltageShutdown],
      (s.power.on = false → exec c s = .next s) ∧
      (s.power.on = true → ∃ t, exec c s = .next t ∧ t.power.on = false ∧ t.regs = [] ∧ t.mem = [] ∧ t.chambers = [] ∧
        t.outstanding = [] ∧ t.queues = [] ∧ t.hostMem = s.hostMem ∧ (s.nvQueue = [] → t.nvMem = s.nvMem))) ∧
    (∃ t, exec .inputRemoval s = .next t ∧ t.power.on = false ∧ t.power.tripped = false ∧ t.thermTripLow = false ∧ t.regs = [] ∧
      t.mem = [] ∧ t.outstanding = [] ∧ (s.nvQueue = [] → t.nvMem = s.nvMem)) ∧
    (∃ t, exec .thermalTrip s = .next t ∧ t.power.on = false ∧ t.thermTripLow = true ∧
      (s.power.on = true → t.regs = [] ∧ t.mem = [] ∧ t.outstanding = []) ∧ ∀ a, exec (.inputPowerUp a) t = .next t)

/-- R363, R366, R367: a run of the cap loop over the cap with Chamber-rail power moves the cap's point and duty by the loop's rule, and
every Gallery's request with it; one that is not over the cap, with nothing limited, changes neither; after the hundredth low
run the point goes up by one. DUTY_HOLD holds every Gallery and releases those it held. IDLE_TO_READY and
POWER_TRANSITION_COMPLETE make the transitions of the table, and Running is not left while a strand runs. -/
def Obligations.CapAndPowerStates : Prop :=
  ∀ (s : State),
    (∀ pin ch, s.reg .modEffectiveCap 0 = s.capNow → ∃ t, exec (.capLoop pin ch) s = .next t ∧ t.mem = s.mem ∧
      t.chambers = s.chambers ∧ t.reg .modPin 0 = pin % 2 ^ 16 ∧ (∀ g, g < 32 → t.reg .glDivided g = 0) ∧
      (s.capNow < pin → 0 < ch → t.reg .modCapPoint 0 = capIndex (s.reg .modCapPoint 0) ch (pin - s.capNow) ∧
        (∀ g, g < 32 → t.reg .glReqComplex g = t.reg .modCapPoint 0) ∧
        t.power.duty = (capDuty (s.reg .modCapPoint 0) ch (pin - s.capNow)).getD s.power.duty) ∧
      (pin ≤ s.capNow → s.reg .modCapPoint 0 = 0 → s.power.duty.1 = 0 → t.reg .modCapPoint 0 = 0 ∧ t.power.duty = s.power.duty ∧
        (∀ g, t.reg .glReqComplex g = s.reg .glReqComplex g) ∧ t.reg .modCapTime 0 = s.reg .modCapTime 0) ∧
      (pin + 200 < s.capNow → 99 ≤ s.power.lowRuns → s.power.duty.1 = 0 → s.reg .modCapPoint 0 ≠ 0 →
        t.reg .modCapPoint 0 = (s.reg .modCapPoint 0 - 1) % 16 ∧
        ∀ g, g < 32 → t.reg .glReqComplex g = t.reg .modCapPoint 0)) ∧
    (s.power.duty.1 = 0 ∨ s.power.dutyHeld ≠ [] → exec (.dutyHold true) s = .next s) ∧
    (s.power.duty.1 ≠ 0 → s.power.dutyHeld = [] → ∃ t, exec (.dutyHold true) s = .next t ∧ t.mem = s.mem ∧
      t.chambers = s.chambers ∧ (∀ g, g < 32 → t.reg .glComplexHold g ≠ 0) ∧
      t.power.dutyHeld = (List.range 32).filter (fun g => s.reg .glComplexHold g == 0)) ∧
    (∃ t, exec (.dutyHold false) s = .next t ∧ t.power.dutyHeld = [] ∧ t.mem = s.mem ∧ t.chambers = s.chambers ∧
      (∀ g ∈ s.power.dutyHeld, t.reg .glComplexHold g = 0) ∧
      ∀ g, g ∉ s.power.dutyHeld → t.reg .glComplexHold g = s.reg .glComplexHold g) ∧
    (s.reg .modPowerState 0 = 3 → s.power.moving = none → s.reg .modStayRunning 0 = 0 → s.strandsBusy = false →
      s.power.busyAt + 2000 * s.reg .modIdleToReadyUs 0 ≤ s.now →
      exec .idleToReady s = .next { s with power := { s.power with moving := some (2, none) } }) ∧
    (s.reg .modPowerState 0 ≠ 3 ∨ s.power.moving ≠ none ∨ s.reg .modStayRunning 0 ≠ 0 ∨ s.strandsBusy = true ∨
      s.now < s.power.busyAt + 2000 * s.reg .modIdleToReadyUs 0 → exec .idleToReady s = .next s) ∧
    (s.power.moving = none → exec .powerTransitionComplete s = .next s) ∧
    (∀ target h, s.power.moving = some (target, h) →
      (s.reg .modPowerState 0 = 3 → target < 3 → s.strandsBusy = true → exec .powerTransitionComplete s = .next s) ∧
      (s.reg .modPowerState 0 ≤ 3 → target ≤ 3 → (s.reg .modPowerState 0 = 3 → target < 3 → s.strandsBusy = false) →
        ∃ t, exec .powerTransitionComplete s = .next t ∧ t.mem = s.mem ∧ t.chambers = s.chambers ∧
          (s.reg .modPowerState 0 < target → t.reg .modPowerState 0 = s.reg .modPowerState 0 + 1) ∧
          (target < s.reg .modPowerState 0 → t.reg .modPowerState 0 = s.reg .modPowerState 0 - 1) ∧
          (t.reg .modPowerState 0 ≠ target → t.power.moving = s.power.moving) ∧
          (t.reg .modPowerState 0 = target → s.power.queuedPower = [] → t.power.moving = none ∧
            ∀ c, h = some c → s.isOut c = true → t.isDone c 0)))

/-- R365, R370, R371: a step of a point change lowers the clock before the voltage and raises it after the voltage, and moves no
voltage by more than one step of 15 mV; a keeper's round sets each live Gallery's request to the rule's index, and moves no
other voltage. No step brings two live adjacent Galleries that are within 120 mV further apart than that. -/
def Obligations.PointSteps : Prop :=
  ∀ (s : State),
    (∀ a b, a < 32 → b < 32 → (b ∈ adjacent a ↔ a / 4 = b / 4 ∧ (a % 4 ^^^ b % 4 = 1 ∨ a % 4 ^^^ b % 4 = 2))) ∧
    (∀ g, s.reg .glPointMoving g = 0 → exec (.pointChangeStep g) s = .next s) ∧
    (∀ g, s.reg .glPointMoving g ≠ 0 → ∃ t, exec (.pointChangeStep g) s = .next t ∧ t.mem = s.mem ∧ t.chambers = s.chambers ∧
      (∀ a, a ≠ g → t.galPower a = s.galPower a) ∧
      (s.reg .glPointNow g < s.reg .glPointTarget g → t.reg .glPointNow g = s.reg .glPointTarget g % 16 ∧
        (t.galPower g).mv = (s.galPower g).mv) ∧
      (s.reg .glPointTarget g < s.reg .glPointNow g → (s.galPower g).mv < pointMv (s.reg .glPointTarget g) →
        t.reg .glPointNow g = s.reg .glPointNow g ∧
        ((t.galPower g).mv = (s.galPower g).mv ∨ (t.galPower g).mv = (s.galPower g).mv + 15)) ∧
      (s.reg .glPointTarget g < s.reg .glPointNow g → pointMv (s.reg .glPointTarget g) ≤ (s.galPower g).mv →
        t.reg .glPointNow g = s.reg .glPointTarget g % 16 ∧ (t.galPower g).mv = (s.galPower g).mv) ∧
      (s.reg .glPointTarget g = s.reg .glPointNow g → t.reg .glPointNow g = s.reg .glPointNow g ∧
        ((t.galPower g).mv = (s.galPower g).mv ∨ (t.galPower g).mv = (s.galPower g).mv + 15 ∨
          (t.galPower g).mv = (s.galPower g).mv - 15))) ∧
    (∀ d, ∃ t, exec (.keeperRound d) s = .next t ∧ t.mem = s.mem ∧ t.chambers = s.chambers ∧
      (∀ g, g / 4 = d → s.live g = true → t.reg .glReqKeeper g = s.keeperRequest g % 16 ∧
        ((t.galPower g).mv = (s.galPower g).mv ∨ (t.galPower g).mv = (s.galPower g).mv + 15 ∨
          (t.galPower g).mv = (s.galPower g).mv - 15)) ∧
      ∀ g, ¬ (g / 4 = d ∧ s.live g = true) → t.galPower g = s.galPower g ∧ t.reg .glReqKeeper g = s.reg .glReqKeeper g) ∧
    (∀ c t, (∃ g, c = Instr.pointChangeStep g) ∨ (∃ d, c = .keeperRound d) → exec c s = .next t → ∀ a b, a < 32 → b ∈ adjacent a →
      s.live a = true → s.live b = true → gap (s.galPower a).mv (s.galPower b).mv ≤ 120 →
      gap (t.galPower a).mv (t.galPower b).mv ≤ 120)

/-- R221, R228, R242, R372 to R375: PREDICTOR_UPDATE shows its readings, asks for the highest index of its reasons, and holds the
Gallery at 110 °C; HBM_TEMPERATURE_READOUT doubles the refresh above 85 °C, asks for the lowest point at 92 °C and holds at 95 °C;
an inlet above 30 °C is reported. A refresh changes nothing that software sees. -/
def Obligations.ThermalControl : Prop :=
  ∀ (s : State),
    (∀ g (r : TempReading), ∃ t, exec (.predictorUpdate g r) s = .next t ∧ t.mem = s.mem ∧ t.chambers = s.chambers ∧
      (∀ a, a ≠ g → t.galPower a = s.galPower a) ∧ t.reg .glDieTemp g = r.dieTemp % 2 ^ 8 ∧
      t.reg .glReqSteward g = ([(t.galPower g).reqPred, (t.galPower g).reqStack, (t.galPower g).reqStackLow, (t.galPower g).reqDie,
        (t.galPower g).reqDieLow, (t.galPower g).reqAdj].foldl max 0) % 16 ∧
      (r.diePred ≤ 97 → (t.galPower g).reqDie = 0) ∧ (100 < r.diePred → (t.galPower g).reqDie = r.predIndex) ∧
      (105 < r.dieTemp → (t.galPower g).reqDieLow = 15) ∧ (r.dieTemp ≤ 100 → (t.galPower g).reqDieLow = 0) ∧
      (110 ≤ r.dieTemp → (t.galPower g).holdDie = true ∧ ((s.galPower g).holdDie = false → t.reg .glOwnHold g = 1)) ∧
      (r.dieTemp ≤ 105 → (t.galPower g).holdDie = false)) ∧
    (∀ inlet outlet, ∃ t, exec (.coolantRead inlet outlet) s = .next t ∧ t.mem = s.mem ∧ t.chambers = s.chambers ∧
      t.reg .modCoolantIn 0 = inlet % 2 ^ 8 ∧ t.reg .modCoolantOut 0 = outlet % 2 ^ 8 ∧
      t.reg .modInletHot 0 = (if 60 < inlet then 1 else s.reg .modInletHot 0)) ∧
    (∀ k temp, ∃ t, exec (.hbmTemperatureReadout k temp) s = .next t ∧ t.mem = s.mem ∧ t.chambers = s.chambers ∧
      (∀ a, a ≠ k → t.galPower a = s.galPower a) ∧ t.reg .hbmTempStack k = temp % 2 ^ 8 ∧
      t.reg .glStackTemp k = (max (temp % 2 ^ 8) (s.reg .hbmTempBase k)) % 2 ^ 8 ∧
      (85 < t.reg .glStackTemp k → t.reg .hbmRefresh2x k = 1) ∧ (t.reg .glStackTemp k < 83 → t.reg .hbmRefresh2x k = 0) ∧
      (92 ≤ t.reg .glStackTemp k → (t.galPower k).reqStackLow = 15) ∧
      (t.reg .glStackTemp k < 88 → (t.galPower k).reqStackLow = 0) ∧
      (95 ≤ t.reg .glStackTemp k → (t.galPower k).holdStack = true ∧
        ((s.galPower k).holdStack = false → t.reg .glOwnHold k = 1)) ∧
      (t.reg .glStackTemp k < 90 → (t.galPower k).holdStack = false)) ∧
    (∀ k, exec (.hbmRefresh k) s = .next s)


/-! ### Faults and recovery -/

/-- R236 to R241, R342, R343: the patrol scrub marks the uncorrectable words it finds and counts its passes; a first failed channel
narrows its stack, a second is reported; a withdrawal takes the whole stack out of the address map; a refetch clears the marks
that a source can restore. Beside an error record no byte of memory changes. R240, R343: what the redirected lines of the whole stack
held is lost, and every block of it is marked for refetching, as are the allocated blocks of a stack that is withdrawn. -/
def Obligations.StacksInTrouble : Prop :=
  ∀ (s : State),
    (∀ g (x y : ScrubFindings) n b d, ∃ t, exec (.hbmPatrolScrub g x y n b d) s = .next t ∧ t.mem = s.mem ∧ t.chambers = s.chambers ∧
      (s.reg .hbmScrubPeriod g ≠ 0 →
        t.reg .hbmScrubPasses g = (if d then (s.reg .hbmScrubPasses g + 1) % 2 ^ (fieldInfo .hbmScrubPasses).width else s.reg .hbmScrubPasses g) ∧
        ∀ a ∈ x.uncorrectable, regionOf a = some .hbm → a / hbmWindow = g → s.mapped a 1 = true → t.poisoned a 1 = true) ∧
      (s.reg .hbmScrubPeriod g = 0 → t.reg .hbmScrubPasses g = s.reg .hbmScrubPasses g) ∧
      (∀ a ∈ y.uncorrectable, regionOf a = some .gallery → galleryOf a = g → s.mapped a 1 = true → t.poisoned a 1 = true) ∧
      ∀ a, s.poisoned a 1 = true → t.poisoned a 1 = true) ∧
    (∀ k ch, s.withdrawn.contains k = true ∨ (s.reg .hbmNarrowed k = 1 ∧ s.reg .hbmFailedCh k = ch % 32) →
      exec (.channelFailure k ch) s = .next s) ∧
    (∀ k ch, s.withdrawn.contains k = false → s.reg .hbmNarrowed k = 0 → ∃ t, exec (.channelFailure k ch) s = .next t ∧
      recordOnly s t ∧ t.reg .hbmNarrowed k = 1 ∧ t.reg .hbmFailedCh k = ch % 32 ∧ t.reg .hbmFail k = 1 ∧
      t.withdrawn = s.withdrawn ∧ t.chambers = s.chambers ∧ (∃ x ∈ t.lost, x.1 = k ∧ x.2.channel = ch % 32) ∧
      ∀ b, b / 0x100000 = k → t.refetchMarked b = true) ∧
    (∀ k ch, s.withdrawn.contains k = false → s.reg .hbmNarrowed k = 1 → s.reg .hbmFailedCh k ≠ ch % 32 →
      ∃ t, exec (.channelFailure k ch) s = .next t ∧ t.mem = s.mem ∧ t.reg .hbmFail k = 1 ∧
        (∃ e ∈ t.events, e.cls = 3 ∧ e.unit = k ∧ e.info = [ch]) ∧ t.chambers = s.chambers) ∧
    (∀ k, s.withdrawn.contains k = true ∨ s.reg .hbmNarrowed k = 0 → exec (.stackWithdrawal k) s = .next s) ∧
    (∀ k, s.withdrawn.contains k = false → s.reg .hbmNarrowed k ≠ 0 → ∃ t, exec (.stackWithdrawal k) s = .next t ∧ recordOnly s t ∧
      t.reg .hbmStackOnline k = 0 ∧ (∀ a, regionOf a = some .hbm → a / hbmWindow = k → t.mappedByte a = false) ∧
      (∀ a, ¬ (regionOf a = some .hbm ∧ a / hbmWindow = k) → t.mappedByte a = s.mappedByte a) ∧
      ∀ b ∈ s.allocBlocks k, b ∈ (t.gallery k).refetch) ∧
    (∀ b, s.refetchMarked b = false → exec (.refetch b) s = .next s) ∧
    (∀ b, s.refetchMarked b = true → ∃ t, exec (.refetch b) s = .next t ∧ t.mem = s.mem ∧ t.regs = s.regs ∧
      t.chambers = s.chambers ∧ t.refetchMarked b = false ∧ (∀ d, d ≠ b → t.refetchMarked d = s.refetchMarked d) ∧
      ∀ a, t.poisoned a 1 = true ↔ s.poisoned a 1 = true ∧
        ¬ (65536 * b ≤ a ∧ a < 65536 * (b + 1) ∧ s.lineSource (a / 64 * 64) = true))

/-- R20, R259, R330, R331, R338: an address error that reaches the control complex ends its command with `ADDRESS_ERROR` and leaves
its strand EMPTY; a failed check makes the steward stop the Chamber, whose recovery begins, and ends no command. The recovery of
a Chamber replays its strands from their boundaries and releases it, or, for a repeated fault, retires it, and writes one error
record. -/
def Obligations.EventsAndChamberFaults : Prop :=
  ∀ (s : State),
    (∀ cls u kind ts, s.events.find? (fun e => e.cls == cls && e.unit == u && e.kind == kind && e.ts == ts) = none →
      exec (.eventEscalation cls u kind ts) s = .next s) ∧
    (∀ u ts e, s.events.find? (fun e => e.cls == 0 && e.unit == u && e.kind == evAddrErr && e.ts == ts) = some e →
      ∀ h, (s.strand u (e.info.getD 0 4)).cmd = some h → s.isOut h = true → ∃ t, exec (.eventEscalation 0 u evAddrErr ts) s = .next t ∧
        t.isDone h stAddressError ∧ t.reg .chState u (e.info.getD 0 4) = psEmpty ∧ t.mem = s.mem ∧
        t.events = s.events.erase e) ∧
    (∀ u ts e, s.events.find? (fun e => e.cls == 0 && e.unit == u && e.kind == evCheckFail && e.ts == ts) = some e →
      ∃ t, exec (.eventEscalation 0 u evCheckFail ts) s = .next t ∧ t.reg .chStewardHold u = 1 ∧ t.reg .modRecovering 0 = 1 ∧
        (∃ r ∈ t.recoveries, r.cls = 1 ∧ r.unit = u) ∧ t.outstanding = s.outstanding ∧ t.mem = s.mem ∧ t.events = s.events.erase e) ∧
    (∀ c, s.recovery? 1 c = none → exec (.chamberFaultRecovery c) s = .next s) ∧
    (∀ c r, s.recovery? 1 c = some r → ∃ t, exec (.chamberFaultRecovery c) s = .next t ∧ recordOnly s t ∧ t.recovery? 1 c = none ∧
      t.reg .modErrCount 0 = (s.reg .modErrCount 0 + 1) % 2 ^ 64 ∧ t.reg .modRecoveries 0 = (s.reg .modRecoveries 0 + 1) % 2 ^ (fieldInfo .modRecoveries).width ∧
      (s.repeatFault c = true → t.reg .chRetired c = 1 ∧ ∀ i, i < 4 → t.reg .chState c i = psEmpty) ∧
      (s.repeatFault c = false → s.reg .chRetired c = 0 → t.reg .chRetired c = 0 ∧ t.reg .chOwnHold c = 0 ∧
        t.reg .chStewardHold c = 0 ∧ t.reg .chCheckFail c = 0 ∧ t.reg .chFaultFreeze c = 0 ∧ t.outstanding.length = s.outstanding.length ∧
        ∀ i, i < 4 → s.reg .chState c i ≠ psEmpty → s.reg .chState c i ≠ psDone → s.reg .chState c i ≠ psRefused →
          (t.strand c i).runs = [] ∧ (t.strand c i).feedA = [] ∧ (t.strand c i).feedB = [] ∧
          t.reg .chSigSinceBnd c i = 0 ∧ t.reg .chSigSkip c i = (s.reg .chSigSkip c i + s.reg .chSigSinceBnd c i) % 2 ^ 16))

/-- R238, R342: the recovery of a line that is good again lets the commands that wait for it run once more; one that no source
holds completes them with `POISONED`. Memory changes only by the error record. -/
def Obligations.MemoryDataRecovers : Prop :=
  ∀ (s : State) (a : Nat),
    (s.recovery? 3 (a / 64 * 64) = none → s.lineWaiters (a / 64 * 64) = [] → exec (.memoryDataRecovery a) s = .next s) ∧
    (∀ r, s.recovery? 3 (a / 64 * 64) = some r →
      (s.poisoned (a / 64 * 64) 1 = false → ∃ t, exec (.memoryDataRecovery a) s = .next t ∧ recordOnly s t ∧
        t.recovery? 3 (a / 64 * 64) = none ∧
        (regionOf (a / 64 * 64) = some .hbm → t.retired.contains (a / 64 * 64 / 65536) = true) ∧
        ∀ h ∈ s.lineWaiters (a / 64 * 64), ∃ o ∈ t.outstanding, o.cmd = h ∧ o.phase = .started ∧ o.recovered = true) ∧
      (s.poisoned (a / 64 * 64) 1 = true → r.tried = false → r.strands ≠ [] → ∃ t, exec (.memoryDataRecovery a) s = .next t ∧
        t.mem = s.mem ∧ ∃ r', t.recovery? 3 (a / 64 * 64) = some r' ∧ r'.tried = true ∧ r'.strands = []) ∧
      (s.poisoned (a / 64 * 64) 1 = true → r.tried = true ∨ r.strands = [] → s.lineSource (a / 64 * 64) = false →
        ∃ t, exec (.memoryDataRecovery a) s = .next t ∧ recordOnly s t ∧ t.recovery? 3 (a / 64 * 64) = none ∧
          ∀ h ∈ s.lineWaiters (a / 64 * 64), t.isDone h stPoisoned))

/-- R330, R340, R341, R345: a missed heartbeat makes the keeper hold the Gallery; its recovery retires the eight Chambers, empties
their strands and ends with an error record; a thermal hold of more than 1 ms empties the strands and retires none. A failed
die-to-die link, of two dies whose numbers differ in one bit (R4), leaves every path until it has trained again. -/
def Obligations.GalleryAndLinkFaults : Prop :=
  ∀ (s : State),
    (∀ g, ∃ t, exec (.galleryHeartbeatMiss g) s = .next t ∧ t.reg .glKeeperHold g = 1 ∧ t.reg .modRecovering 0 = 1 ∧
      (∃ r ∈ t.recoveries, r.cls = 2 ∧ r.unit = g) ∧ t.mem = s.mem ∧ t.chambers = s.chambers ∧ t.outstanding = s.outstanding) ∧
    (∀ g, s.recovery? 2 g = none → exec (.galleryFault g) s = .next s) ∧
    (∀ g r, s.recovery? 2 g = some r → ∃ t, exec (.galleryFault g) s = .next t ∧ recordOnly s t ∧ t.recovery? 2 g = none ∧
      t.reg .glKeeperHold g = 1 ∧ ∀ c, c / 8 = g → t.reg .chRetired c = 1 ∧ ∀ i, i < 4 → t.reg .chState c i = psEmpty) ∧
    (∀ g, (((s.galPower g).holdStack || (s.galPower g).holdDie) = false ∨ (s.galPower g).holdRecovered = true ∨
      s.now ≤ (s.galPower g).holdSince + 2000000) → exec (.thermalHoldTimeout g) s = .next s) ∧
    (∀ g, ((s.galPower g).holdStack || (s.galPower g).holdDie) = true → (s.galPower g).holdRecovered = false →
      (s.galPower g).holdSince + 2000000 < s.now → ∃ t, exec (.thermalHoldTimeout g) s = .next t ∧ recordOnly s t ∧
        (t.galPower g).holdRecovered = true ∧ (∀ c, t.reg .chRetired c = s.reg .chRetired c) ∧
        ∀ c, c / 8 = g → ∀ i, i < 4 → t.reg .chState c i = psEmpty) ∧
    (∀ a b, linked a b = false ∨ s.failedLinks.contains (min a b, max a b) = true → exec (.dieLinkFailure a b) s = .next s) ∧
    (∀ a b, linked a b = true → s.failedLinks.contains (min a b, max a b) = false → ∃ t, exec (.dieLinkFailure a b) s = .next t ∧ recordOnly s t ∧
      t.failedLinks = (min a b, max a b) :: s.failedLinks ∧ linkWorks t.failedLinks a b = false ∧ t.chambers = s.chambers) ∧
    (∀ a b, ∃ t, exec (.dieLinkTrained a b) s = .next t ∧ t = { s with failedLinks := t.failedLinks } ∧
      linkWorks t.failedLinks a b = true ∧
      ∀ x y, (min x y, max x y) ≠ (min a b, max a b) → linkWorks t.failedLinks x y = linkWorks s.failedLinks x y) ∧
    (∀ order ∈ [[2, 1, 0], [1, 0, 2], [0, 2, 1]], ∀ a b, a < 8 → b < 8 → (axisPath a b order).head? = some a ∧
      (axisPath a b order).getLast? = some b ∧ (pathWorks s.failedLinks (axisPath a b order) = true → order = [2, 1, 0] →
        diePath s.failedLinks a b = some (axisPath a b order)))


/-! ### Links, packets and transfers -/

/-- R267 to R269: the training of a link goes from DETECT through EQUALISE and LOCK to CAPS, on all lanes or, where the port allows
it, on the half that has equalised; a state that lasts past its limit goes back to DETECT. In another state each event changes
nothing. -/
def Obligations.LinkTraining : Prop :=
  ∀ (s : State) (p : Nat),
    (s.reg .portLinkState p = 1 → ∃ t, exec (.detectSignal p) s = .next t ∧ t.reg .portLinkState p = 2 ∧ t.mem = s.mem ∧
      (t.port p).stateSince = s.now) ∧
    (s.reg .portLinkState p ≠ 1 → exec (.detectSignal p) s = .next s) ∧
    (s.reg .portLinkState p = 0 → s.mayTrain p = true → ∃ t, exec (.detectRetry p) s = .next t ∧ t.reg .portLinkState p = 1 ∧
      t.mem = s.mem) ∧
    (s.reg .portLinkState p ≠ 0 ∨ s.mayTrain p = false → exec (.detectRetry p) s = .next s) ∧
    (∀ lo hi, (s.reg .portLinkState p ≠ 2 → exec (.equaliseComplete p lo hi) s = .next s) ∧
      (s.reg .portLinkState p = 2 → lo = true → hi = true → ∃ t, exec (.equaliseComplete p lo hi) s = .next t ∧
        t.reg .portLinkState p = 3 ∧ t.reg .portHalf p = 0 ∧ t.mem = s.mem) ∧
      (s.reg .portLinkState p = 2 → lo ≠ hi → s.reg .portHalfOk p = 1 → ∃ t, exec (.equaliseComplete p lo hi) s = .next t ∧
        t.reg .portLinkState p = 3 ∧ t.reg .portHalf p = 1 ∧ t.reg .portLaneHalf p = (if lo then 0 else 1) ∧ t.mem = s.mem) ∧
      (s.reg .portLinkState p = 2 → (lo = false ∧ hi = false) ∨ (lo ≠ hi ∧ s.reg .portHalfOk p ≠ 1) →
        exec (.equaliseComplete p lo hi) s = .next s)) ∧
    (s.reg .portLinkState p = 3 → ∃ t, exec (.lockAcquired p) s = .next t ∧ t.reg .portLinkState p = 4 ∧
      t.reg .portRate p = (s.port p).trial % 4 ∧ t.mem = s.mem) ∧
    (s.reg .portLinkState p ≠ 3 → exec (.lockAcquired p) s = .next s) ∧
    (linkLimit (s.reg .portLinkState p) = none → exec (.trainFail p) s = .next s) ∧
    (∀ l, linkLimit (s.reg .portLinkState p) = some l →
      (s.now < (s.port p).stateSince + l → exec (.trainFail p) s = .next s) ∧
      ((s.port p).stateSince + l ≤ s.now → ∃ t, exec (.trainFail p) s = .next t ∧ t.reg .portLinkState p = 1 ∧
        t.reg .portTrainFail p = 1 ∧ t.mem = s.mem))

/-- R269 to R276, R283: once both capability records have crossed, a port without a common protocol is refused, and one that meets
its neighbour at its highest rate stands by with the highest common protocol, or is ACTIVE where it is in service. A flit with
a bad CRC is answered with a NAK, the next flit in order moves the receive sequence on, and a NAK replays the retry buffer. A
failed port stays DOWN. -/
def Obligations.CapsAndFlits : Prop :=
  ∀ (s : State) (p : Nat),
    (∀ r, (s.reg .portLinkState p ≠ 4 → exec (.capsFlit p r) s = .next s) ∧
      (s.reg .portLinkState p = 4 → (s.port p).sentCaps = false →
        exec (.capsFlit p r) s = .next (s.modPort p (fun x => { x with caps := some r }))) ∧
      (s.reg .portLinkState p = 4 → (s.port p).sentCaps = true → commonProtocol r = none → ∃ t, exec (.capsFlit p r) s = .next t ∧
        t.reg .portLinkState p = 0 ∧ t.reg .portNoCommon p = 1 ∧ (t.port p).blocked = true ∧ t.mem = s.mem) ∧
      (∀ v, s.reg .portLinkState p = 4 → (s.port p).sentCaps = true → commonProtocol r = some v →
        ((s.port p).settled = none ∨ (s.port p).settled = some v) → ¬ (s.reg .portHalf p = 1 ∧ r.halfOk = false) →
        ¬ ((s.port p).trial = 1 ∧ bit r.rates 1 = true) → s.peerAgrees p r = true → ∃ t, exec (.capsFlit p r) s = .next t ∧
          t.reg .portLinkState p = (if s.reg .portInService p = 1 then 6 else 5) ∧ t.reg .portProtocol p = v ∧
          t.reg .portPeerAddr p = r.moduleAddr % 2 ^ 18 ∧ t.mem = s.mem)) ∧
    (s.reg .portLinkState p = 4 → (s.port p).caps = none → ∃ t, exec (.capsFlitSend p) s = .next t ∧
      t.outbox = .caps p (s.ownCaps p) :: s.outbox ∧ (t.port p).sentCaps = true ∧ t.regs = s.regs ∧ t.mem = s.mem) ∧
    (s.reg .portLinkState p = 5 → exec (.capsFlitSend p) s = .next (s.send (.caps p (s.ownCaps p)))) ∧
    (s.reg .portLinkState p ≠ 4 → s.reg .portLinkState p ≠ 5 → exec (.capsFlitSend p) s = .next s) ∧
    (∀ f, (s.reg .portLinkState p < 5 → exec (.dataFlit p f) s = .next s) ∧
      (s.reg .portLinkState p = 6 → f.crc ≠ flitCrc f → ∃ t, exec (.dataFlit p f) s = .next t ∧ t.mem = s.mem ∧
        t.reg .portCrcErrors p = (s.reg .portCrcErrors p + 1) % 2 ^ (fieldInfo .portCrcErrors).width ∧
        t.outbox = .nak p (((s.port p).rxSeq + 4095) % 4096) :: s.outbox ∧ t.ports = s.ports) ∧
      (s.reg .portLinkState p = 6 → f.crc = flitCrc f → f.kind = 0 → ∃ t, exec (.dataFlit p f) s = .next t ∧ t.mem = s.mem ∧
        t.chambers = s.chambers ∧ (t.port p).heard = true ∧
        (f.seq = (s.port p).rxSeq → (t.port p).rxSeq = ((s.port p).rxSeq + 1) % 4096) ∧
        (f.seq ≠ (s.port p).rxSeq → (t.port p).rxSeq = (s.port p).rxSeq ∧ .nak p (((s.port p).rxSeq + 4095) % 4096) ∈ t.outbox) ∧
        (f.nak = true → f.ackValid = false → ∀ x ∈ (s.port p).retry, .flit p x.payload ∈ t.outbox))) ∧
    (s.reg .portLinkState p < 4 → exec (.portFailure p) s = .next s) ∧
    (4 ≤ s.reg .portLinkState p → ∃ t, exec (.portFailure p) s = .next t ∧ t.reg .portLinkState p = 0 ∧ t.reg .portPortFailed p = 1 ∧
      (t.port p).blocked = true ∧ (∃ e ∈ t.events, e.cls = 4 ∧ e.unit = p) ∧ t.mayTrain p = false ∧
      (s.reg .portLinkState p ≠ 6 → t.mem = s.mem)) ∧
    (s.reg .portLinkState p = 6 → (s.port p).stateSince + 2000000 ≤ s.now → ∃ t, exec (.portHistoryReady p) s = .next t ∧
      (t.port p).history = true ∧ t.mem = s.mem ∧ t.chambers = s.chambers) ∧
    (s.reg .portLinkState p ≠ 6 ∨ s.now < (s.port p).stateSince + 2000000 → exec (.portHistoryReady p) s = .next s)

/-- R278, R280 to R284, R362: a packet for another module goes on by the dimension-order port, or over the first detour link where
that one is missing; a segment of one packet under an accepted tag writes its payload (to memory: the register space takes none), adds to its counter and is complete, and a
packet under another tag, or in Parked, writes nothing. -/
def Obligations.PacketsArriveAndPass : Prop :=
  ∀ (s : State) (k : Packet),
    (∀ p, (k.dest = s.self → exec (.packetRoute p k) s = .next s) ∧
      (∀ d, k.dest ≠ s.self → s.dorPort k.dest = some d → k.type ≠ 1 ∨ k.vc ≠ 2 ∨ s.reg .fabAdaptiveEn 0 ≠ 1 →
        (s.linkUp d = true → ∃ t k', exec (.packetRoute p k) s = .next t ∧ t.mem = s.mem ∧ t.chambers = s.chambers ∧
          k' = { k with vc := k'.vc, dateline := k'.dateline, detour := false } ∧
          (k' ∈ (t.port d).queue ∨ .packet d k' ∈ t.outbox)) ∧
        (∀ q, s.linkUp d = false → (s.detourPorts k.dest (d / 2)).find? s.linkUp = some q → ∃ t k',
          exec (.packetRoute p k) s = .next t ∧ t.mem = s.mem ∧ t.chambers = s.chambers ∧
          k' = { k with vc := k'.vc, dateline := false, detour := true } ∧
          (k' ∈ (t.port q).queue ∨ .packet q k' ∈ t.outbox)) ∧
        (s.linkUp d = false → (s.detourPorts k.dest (d / 2)).find? s.linkUp = none → k.type ≠ 1 →
          exec (.packetRoute p k) s = .next s))) ∧
    (∀ e, (k.dest ≠ s.self → exec (.data k e) s = .next s) ∧
      (k.dest = s.self → s.reg .modPowerState 0 = 1 → ∃ t, exec (.data k e) s = .next t ∧ t.mem = s.mem ∧ t.segments = s.segments ∧
        t.reg .fabXferNacks 0 = (s.reg .fabXferNacks 0 + 1) % 2 ^ (fieldInfo .fabXferNacks).width) ∧
      (k.dest = s.self → s.reg .modPowerState 0 ≠ 1 → s.tagAccepted k.tag = false → ∃ t, exec (.data k e) s = .next t ∧
        t.mem = s.mem ∧ t.segments = s.segments ∧
        t.reg .fabTagDrops 0 = (s.reg .fabTagDrops 0 + 1) % 2 ^ (fieldInfo .fabTagDrops).width) ∧
      (k.dest = s.self → s.reg .modPowerState 0 ≠ 1 → s.tagAccepted k.tag = true →
        (∀ g, s.segments.find? (fun g => g.src == k.src && g.xferId == k.xferId) = some g → g.complete = true →
          ∃ t, exec (.data k e) s = .next t ∧ t.mem = s.mem ∧ t.segments = s.segments) ∧
        (s.segments.find? (fun g => g.src == k.src && g.xferId == k.xferId) = none → s.segments.length < 4096 →
          k.pktIndex = 0 → e.pktTotal = 1 → s.hostRange e.destAddr k.payload.length = true →
          (e.ctrAddr = 0 ∨ s.counterOk e.ctrAddr = true ∧
            (e.ctrAddr + 16 ≤ e.destAddr ∨ e.destAddr + k.payload.length ≤ e.ctrAddr)) →
          ∃ t, exec (.data k e) s = .next t ∧
            (regionOf e.destAddr ≠ some .registers → t.bytes e.destAddr k.payload.length = k.payload) ∧
            (e.ctrAddr = 0 → memoryOutside e.destAddr k.payload.length s t) ∧
            (e.ctrAddr ≠ 0 → t.num e.ctrAddr 8 = (s.num e.ctrAddr 8 + e.increment) % 2 ^ 64) ∧
            ∃ g ∈ t.segments, g.src = k.src ∧ g.xferId = k.xferId ∧ g.complete = true)))

/-- R279, R280: the answer to a transfer's final segment completes its command; another answer marks its segment; a refusal for a
want of room keeps the segment for a second try, an address error ends the command with `ADDRESS_ERROR` and a missing link with
`FAULT`. A refused segment goes again 10 µs later, and a completed entry is released after 10 ms. -/
def Obligations.TransferAnswers : Prop :=
  ∀ (s : State),
    (∀ k, s.xferOf k.src k.xferId = none → exec (.xferDone k) s = .next s ∧ exec (.xferNack k) s = .next s) ∧
    (∀ k x, s.xferOf k.src k.xferId = some x →
      (x.final k.xferId = true → s.isOut x.cmd = true → (s.entry x.cmd).opcode ≠ 0x45 → ∃ t, exec (.xferDone k) s = .next t ∧
        t.isDone x.cmd 0 ∧ t.mem = s.mem ∧ t.chambers = s.chambers ∧ ∀ y ∈ t.xfers, y.cmd ≠ x.cmd) ∧
      (x.final k.xferId = false → ∃ t, exec (.xferDone k) s = .next t ∧
        ∀ y ∈ t.xfers, y.cmd = x.cmd → ∀ g ∈ y.segs, g.1 = k.xferId → g.2.2.2 = 2) ∧
      (k.reason = 1 → ∃ t, exec (.xferNack k) s = .next t ∧ t.mem = s.mem ∧ t.outstanding = s.outstanding ∧
        ∀ y ∈ t.xfers, y.cmd = x.cmd → (k.xferId, s.now) ∈ y.nacked ∧ ∀ g ∈ y.segs, g.1 = k.xferId → g.2.2.2 = 3) ∧
      (k.reason = 2 ∨ k.reason = 3 → s.isOut x.cmd = true → ∃ t, exec (.xferNack k) s = .next t ∧ t.isDone x.cmd stAddressError ∧
        t.mem = s.mem ∧ ∀ y ∈ t.xfers, y.cmd ≠ x.cmd) ∧
      (k.reason = 4 → s.isOut x.cmd = true → ∃ t, exec (.xferNack k) s = .next t ∧ t.isDone x.cmd stFault ∧ recordOnly s t ∧
        ∀ y ∈ t.xfers, y.cmd ≠ x.cmd)) ∧
    (∀ id, s.xfers.find? (fun x => x.segs.any (fun g => g.1 == id && g.2.2.2 == 3) &&
        x.nacked.any (fun n => n.1 == id && decide (n.2 + 20000 ≤ s.now))) = none → exec (.segmentResend id) s = .next s) ∧
    (∀ id x g u, s.xfers.find? (fun x => x.segs.any (fun g => g.1 == id && g.2.2.2 == 3) &&
        x.nacked.any (fun n => n.1 == id && decide (n.2 + 20000 ≤ s.now))) = some x → x.segs.find? (fun g => g.1 == id) = some g →
      s.sendSegment x g.1 g.2.1 g.2.2.1 = some u → exec (.segmentResend id) s = .next (u.setSeg x.cmd id 1) ∧ u.mem = s.mem) ∧
    (∀ src id, ∃ t, exec (.segmentEntryExpiry src id) s = .next t ∧ t = { s with segments := t.segments } ∧
      ∀ g, g ∈ t.segments ↔ g ∈ s.segments ∧
        ¬ (g.src = src ∧ g.xferId = id ∧ g.complete = true ∧ g.doneTs + 20000000 ≤ s.now))

/-- R313 to R317: a TIME flit that is sent carries the module's time, its reference's distance and the echo of the partner's last
flit; one that arrives renews what the module knows of its partner, and before convergence one from the reference moves the time
by its offset. A keeper's exchange records the error of its die's copy. -/
def Obligations.TimeExchanges : Prop :=
  ∀ (s : State) (p : Nat),
    (s.reg .portMode p = 1 ∨ s.reg .portLinkState p = 0 →
      exec (.timeFlitSend p) s = .next s ∧ ∀ f, exec (.timeFlit p f) s = .next s) ∧
    (s.reg .portMode p ≠ 1 → s.reg .portLinkState p ≠ 0 →
      (∃ t f, exec (.timeFlitSend p) s = .next t ∧ t.outbox = .time p f :: s.outbox ∧ f.tTx = s.now ∧ f.fineTx = s.fine ∧
        f.hops = s.reg .modTimeHops 0 ∧ f.rootAddr = s.reg .modTimeRoot 0 ∧ f.tstate = s.reg .modTimeConverged 0 ∧
        f.tRxLast = (s.port p).lastTimeRx ∧ f.fineRx = (s.port p).lastTimeRxFine ∧ f.tTxEcho = (s.port p).lastPartnerTx ∧
        (t.port p).lastTimeTx = s.now ∧ t.regs = s.regs ∧ t.mem = s.mem) ∧
      ∀ f, ∃ t, exec (.timeFlit p f) s = .next t ∧ t.mem = s.mem ∧ t.chambers = s.chambers ∧ (t.port p).partnerHops = f.hops ∧
        (t.port p).partnerState = f.tstate ∧ (t.port p).partnerRoot = f.rootAddr ∧ (t.port p).lastPartnerTx = f.tTx ∧
        (t.port p).lastTimeRx = f.rxTime ∧
        ∀ u x, u = (s.modPort p (fun y => { y with
            lastTimeRx := f.rxTime, lastTimeRxFine := f.rxFine, lastPartnerTx := f.tTx, partnerHops := f.hops
            partnerRoot := f.rootAddr, partnerState := f.tstate })).follow →
          u.reg .modTimeRefPort 0 = p → u.reg .modTimeRootSelf 0 = 0 → f.tTxEcho ≠ 0 → timeOffset2 f = 2 * x →
          t.reg .modTimeOffset 0 = unsigned 32 x ∧
          (u.reg .modTimeConverged 0 = 0 → 0 ≤ ((16 * s.now + s.fine : Nat) : Int) + x →
            ((16 * s.now + s.fine : Nat) : Int) + x < 2 ^ 68 →
            ((16 * t.now + t.fine : Nat) : Int) = ((16 * s.now + s.fine : Nat) : Int) + x)) ∧
    (∀ d e, ∃ t, exec (.dieTimeExchange d e) s = .next t ∧ t.mem = s.mem ∧ t.chambers = s.chambers ∧ t.now = s.now ∧
      tget 0 t.dieOffset d = (if d = 0 then tget 0 s.dieOffset 0 else e) ∧
      ∀ k, k ≠ d → tget 0 t.dieOffset k = tget 0 s.dieOffset k)

/-! ### Collectives in progress -/

/-- The collective of a packet as this member has it: neither stopped nor complete. -/
def liveColl (s : State) (k : CollPacket) (j : Job) (c : Coll) : Prop :=
  k.malformed = false ∧ s.collJob k = some j ∧ s.coll? j.id k.collSeq = some c ∧ c.stopped = false ∧
    (c.cmd.isSome = true ∨ j.nextColl ≤ k.collSeq)

/-- R303, R306, R312: a packet with a reserved field or of no job here is discarded. While this member has no claim of its own, a
CLAIM of the same rank map is held, a CREDIT and a DONE are counted, and nothing else changes; a CLAIM of another map stops the
collective with reason 3. CLAIM_GRANT gives the head of the claim queue what it wants from the pool, or leaves it waiting. -/
def Obligations.ClaimsAndCredits : Prop :=
  (∀ (s : State) (k : CollPacket),
    (k.malformed = true → ∀ c ∈ [Instr.claim k, .piece k, .credit k, .done k, .abortPacket k],
      exec c s = .next (s.flag .modCollProto 0)) ∧
    (k.malformed = false → s.collJob k = none → ∀ c ∈ [Instr.claim k, .piece k, .credit k, .done k, .abortPacket k],
      exec c s = .next s) ∧
    (∀ j c, liveColl s k j c →
      (natLE (k.payload.take 4) = j.mapCrc → c.granted = 0 → ∃ t d, exec (.claim k) s = .next t ∧ t = { s with colls := t.colls } ∧
        t.coll? j.id k.collSeq = some d ∧ (j.ranks.idxOf k.src, k.count) ∈ d.claims) ∧
      (natLE (k.payload.take 4) ≠ j.mapCrc → ∃ t d, exec (.claim k) s = .next t ∧ t.mem = s.mem ∧ t.outstanding = s.outstanding ∧
        t.coll? j.id k.collSeq = some d ∧ d.stopped = true ∧ d.out = [] ∧ (c.record = none →
          d.record = some (abortRecord j k.collSeq 3 0xFF (j.ranks.idxOf k.src) j.rank s.now c.lastTs))) ∧
      (c.granted = 0 → ∃ t d, exec (.credit k) s = .next t ∧ t = { s with colls := t.colls } ∧
        t.coll? j.id k.collSeq = some d ∧
        (k.step, ((c.credits.find? (fun y => y.1 == k.step)).map (·.2)).getD 0 + k.count) ∈ d.credits) ∧
      (c.granted = 0 → ∃ t d, exec (.done k) s = .next t ∧ t = { s with colls := t.colls } ∧
        t.coll? j.id k.collSeq = some d ∧ d.dones = c.dones + 1))) ∧
  (∀ (s : State) (job : Nat),
    (s.job? job = none → exec (.claimGrant job) s = .next s) ∧
    (∀ j, s.job? job = some j → (s.claimHead j = none → exec (.claimGrant job) s = .next s) ∧
      ∀ c x want, s.claimHead j = some c → s.collCtx c = some x → want = max 1 (min j.claimMax (ceilDiv (2 * x.largest) 0x10000)) →
        (j.poolFree < want → j.poolFree < 8 → exec (.claimGrant job) s = .next s) ∧
        (∀ p, want ≤ j.poolFree → c.begun = 0 → c.out = [] → x.plan.head? = some p →
          Coll.ringReady { c with claims := (j.rank, want) :: c.claims } j p.axis = false →
          ∃ t d j', exec (.claimGrant job) s = .next t ∧ t.mem = s.mem ∧ t.chambers = s.chambers ∧ t.outstanding = s.outstanding ∧
            t.job? job = some j' ∧ j'.poolFree = j.poolFree - want ∧ t.coll? job c.seq = some d ∧ d.granted = want ∧
            (j.rank, want) ∈ d.claims)))

/-- R298, R305: a packet of a piece that has come before is dropped and counted; a new one of a reduce pass in progress is
remembered, and at the ring place where its chunk ends each of its elements becomes one step of the reduction with this
member's own value. R296, R308: an ABORT stops the collective, and the smaller of the records is kept. R307 to R309: a
collective that has made no progress for `COLL_TIMEOUT_US`, of which 0 counts as 1, is stopped with reason 1; at `DETECT_TS` +
250 µs the content of `DST` is undefined, free values, the record goes into the abort ring, the claims return and the command
completes with `COLL_ABORT`. -/
def Obligations.CollectiveProgress : Prop :=
  (∀ (s : State) (k : CollPacket) (j : Job),
      (∀ c x i p codes, liveColl s k j c → s.collCtx c = some x → x.passOf c k.step k.chunk = some (i, p) →
        codes = (wireCodes (x.wire p).1 k.payload).take ((p.range k.chunk).2 - k.elemOffset) →
        (c.seen.any (fun y => y.1 == k.step && y.2.1 == k.chunk && y.2.2.1 == k.elemOffset) = true →
          exec (.piece k) s = .next (s.bump .modCollDupDrops 0 1)) ∧
        (c.seen.any (fun y => y.1 == k.step && y.2.1 == k.chunk && y.2.2.1 == k.elemOffset) = false → p.kind = .reduce →
          i + 1 = c.begun →
          Coll.got { c with seen := (k.step, k.chunk, k.elemOffset, codes.length) :: c.seen } p < p.due →
          ∃ t d, exec (.piece k) s = .next t ∧ t.mem = s.mem ∧ t.chambers = s.chambers ∧ t.outstanding = s.outstanding ∧
            t.coll? j.id k.collSeq = some d ∧ d.seen = (k.step, k.chunk, k.elemOffset, codes.length) :: c.seen ∧
            (p.finish k.chunk = p.r → ∀ y, y < codes.length →
              d.val i ((p.range k.chunk).1 + k.elemOffset + y) = carryStep x.strict x.wide c.p.reduce (codes.getD y 0)
                (s.collInput x c i ((p.range k.chunk).1 + k.elemOffset + y))))) ∧
      (∀ c r, k.malformed = false → s.collJob k = some j → c = s.coll j.id k.collSeq → r = padTo 64 (k.payload.take 64) →
        c.stored = none → (c.cmd.isSome = true ∨ c.stopped = true ∨ j.nextColl ≤ k.collSeq) →
        ∃ t d, exec (.abortPacket k) s = .next t ∧ t = { s with colls := t.colls } ∧ t.coll? j.id k.collSeq = some d ∧
          d.stopped = true ∧ d.out = [] ∧ (c.record = none → d.record = some r) ∧
          (∀ o, c.record = some o → d.record = some (if recordBefore r o then r else o)))) ∧
  (∀ (s : State) (job seq : Nat) (c : Coll), s.coll? job seq = some c →
      (∀ j, s.job? job = some j → c.stopped = false → c.cmd.isSome = true →
        (s.now < c.lastTs + 2000 * max 1 (s.reg .modCollTimeoutUs 0) → exec (.collProgressTimeout job seq) s = .next s) ∧
        (c.lastTs + 2000 * max 1 (s.reg .modCollTimeoutUs 0) ≤ s.now → ∃ t d, exec (.collProgressTimeout job seq) s = .next t ∧
          t.mem = s.mem ∧ t.outstanding = s.outstanding ∧ t.coll? job seq = some d ∧ d.stopped = true ∧ d.out = [] ∧
          (c.record = none →
            d.record = some (abortRecord j seq 1 (s.collLate j c).1 (s.collLate j c).2 j.rank s.now c.lastTs)))) ∧
      (c.stopped = true → exec (.collProgressTimeout job seq) s = .next s) ∧
      (c.record = none ∨ c.stored ≠ none → exec (.abortCompletion job seq) s = .next s) ∧
      (∀ r n, c.record = some r → c.stored = none → n = s.reg .modCollAborts 0 →
        (s.now < fieldLE r 32 8 + 500000 → exec (.abortCompletion job seq) s = .next s) ∧
        (fieldLE r 32 8 + 500000 ≤ s.now → r.length = 64 → ∃ t d, exec (.abortCompletion job seq) s = .next t ∧
          (regionOf (s.reg .modCollAbortBase 0 + 64 * (n % 256)) ≠ some .registers →
            t.bytes (s.reg .modCollAbortBase 0 + 64 * (n % 256)) 64 = r) ∧
          memoryOutside (s.reg .modCollAbortBase 0 + 64 * (n % 256)) 64 (s.collUndefined c r) t ∧ t.coll? job seq = some d ∧ d.stored = some n ∧
          d.granted = 0 ∧ t.reg .modCollAborts 0 = (n + 1) % 2 ^ (fieldInfo .modCollAborts).width ∧ t.reg .modCollAborted 0 = 1 ∧
          (∀ h, c.cmd = some h → s.isOut h = true → t.isDone h stCollAbort) ∧
          (∀ j, s.job? job = some j → ∃ j', t.job? job = some j' ∧ j'.poolFree = j.poolFree + c.granted))))

/-! ### Lost modules and admissions -/

/-- R351: a PROBE is answered; a PROBE_ACK ends its probe; a probe without an answer declares its rank lost. Of the loss records of
a job the smallest by time and then by rank is kept, and 250 µs after its time every command of the job ends with `FAULT` and one
error record is written. A LINK_DOWN is remembered, and a module whose facing ports have all failed is declared lost. -/
def Obligations.LostModules : Prop :=
  ∀ (s : State),
    (∀ k, exec (.probe k) s = .next (s.sendMgmt k.src k.tag 2 ((s.mgmtJob k).elim 0 (·.id)) [])) ∧
    (∀ k, (s.mgmtJob k = none → exec (.probeAck k) s = .next s ∧ exec (.loss k) s = .next s) ∧
      ∀ j, s.mgmtJob k = some j →
        (∃ t, exec (.probeAck k) s = .next t ∧ t = { s with probes := t.probes } ∧
          ∀ x, x ∈ t.probes ↔ x ∈ s.probes ∧ ¬ (x.job = j.id ∧ j.ranks.getD x.rank 0 = k.src)) ∧
        (s.job? j.id = some j → ∀ r, r = (fieldLE k.payload 0 8, fieldLE k.payload 56 4, fieldLE k.payload 40 4, fieldLE k.payload 48 8) →
          (j.loss = none ∨ (∃ t d x y, j.loss = some (t, d, x, y) ∧ (r.1 < t ∨ (r.1 = t ∧ r.2.1 < d))) →
            ∃ t j', exec (.loss k) s = .next t ∧ t.job? j.id = some j' ∧ j'.loss = some r ∧ t.reg .modLossSeen 0 = 1 ∧ t.mem = s.mem ∧
              t.outstanding = s.outstanding) ∧
          (∀ t d x y, j.loss = some (t, d, x, y) → ¬ (r.1 < t ∨ (r.1 = t ∧ r.2.1 < d)) → exec (.loss k) s = .next s))) ∧
    (∀ job rank step x j, s.probes.find? (fun x => x.job == job && x.rank == rank) = some x → s.job? job = some j →
      (s.now < x.sentTs + 2000 * s.reg .modProbeTimeoutUs 0 → exec (.probeTimeout job rank step) s = .next s) ∧
      (x.sentTs + 2000 * s.reg .modProbeTimeoutUs 0 ≤ s.now → ∃ t, exec (.probeTimeout job rank step) s = .next t ∧
        t.mem = s.mem ∧ t.outstanding = s.outstanding ∧ (∀ y ∈ t.probes, ¬ (y.job = job ∧ y.rank = rank)) ∧
        (j.loss = none → ∃ j', t.job? job = some j' ∧ j'.loss = some (s.now, j.rank, rank, step)))) ∧
    (∀ job j, s.job? job = some j → (j.loss = none → exec (.lossCompletion job) s = .next s) ∧
      ∀ ts d r st, j.loss = some (ts, d, r, st) →
        (j.lost = true ∨ s.now < ts + 500000 → exec (.lossCompletion job) s = .next s) ∧
        (j.lost = false → ts + 500000 ≤ s.now → ∃ t, exec (.lossCompletion job) s = .next t ∧ recordOnly s t ∧
          t.reg .modErrCount 0 = (s.reg .modErrCount 0 + 1) % 2 ^ 64 ∧ (∀ o ∈ s.outstanding, o.jobId = job → t.isDone o.cmd stFault) ∧
          ∀ o ∈ s.outstanding, (∀ x ∈ s.outstanding, x.cmd = o.cmd → x.jobId ≠ job) → t.isOut o.cmd = true)) ∧
    (∀ k m p, m = fieldLE k.payload 0 4 % 2 ^ 18 → p = fieldLE k.payload 4 1 →
      (5 < p → exec (.linkDown k) s = .next s) ∧
      (p ≤ 5 → ∃ t, exec (.linkDown k) s = .next t ∧ t.mem = s.mem ∧ t.outstanding = s.outstanding ∧
        tget 0 t.portsFailedAt (8 * m + p) = max 1 s.now ∧
        ∀ l, s.beyond m p = some l → l ≠ s.self → { s with portsFailedAt := t.portsFailedAt }.cutOff l = true →
          ∀ j ∈ s.jobs, s.job? j.id = some j → j.ranks.contains l = true → j.ranks.contains s.self = true → j.loss = none →
            ∃ j', t.job? j.id = some j' ∧ j'.loss.isSome = true))

/-- A pending admission with one member's record added. -/
def withRecord (a : Pending) (src : Nat) (bs : List Byte) : Pending :=
  { a with records := a.records.filter (fun x => !(x.1 == src)) ++ [(src, padTo 64 (bs.take 64))] }

/-- R264, R265, R301: a JOB_HELLO for no pending admission is held, and a JOB_HELLO_ACK for none is dropped. One for a pending
admission is held with it until the records of all members are there; then the job is admitted with the highest version that
every member implements, or ends with the status of R265. A record still missing after 10 ms ends the command with `TIMEOUT`. R352: a
job that is admitted again in place of one that has lost a member restarts at the step of the loss record, and a mirror step that had
gone one further is at it again. -/
def Obligations.MembersAgree : Prop :=
  ∀ (s : State),
    (∀ k, (s.admissionOf k = none → exec (.jobHelloAck k) s = .next s ∧
        exec (.jobHello k) s = .next { s with
          hellos := s.hellos.filter (fun x => !(x.1 == k.src && sameAdmission x.2.1 k.payload)) ++ [(k.src, k.payload, s.now)] }) ∧
      ∀ a b, s.admissionOf k = some a → b = withRecord a k.src k.payload → ∀ c, (c = Instr.jobHello k ∨ c = .jobHelloAck k) →
        (b.records.length + 1 < a.ranks.length → ∃ t, exec c s = .next t ∧ t.mem = s.mem ∧ t.outstanding = s.outstanding ∧
          t.jobs = s.jobs ∧ b ∈ t.admitting) ∧
        (∀ v, a.ranks.length ≤ b.records.length + 1 → settleVersion a.p.major a.p.minor (b.records.map (·.2)) = some v →
          a.p.collOrder = 0 → requestDiff (memberRecord a (a.ranks.idxOf s.self)) (b.records.map (·.2)) = none →
          (∀ o ts d rank step, s.reg .modSumpJobSegs 0 ≤ s.reg .modSumpFree 0 →
            s.jobs.find? (fun o => o.lost && !o.restarted && o.tag == a.p.tag && o.ranks.contains s.self) = some o →
            o.loss = some (ts, d, rank, step) → ∃ t, exec c s = .next t ∧ t.isDone a.cmd 0 ∧
              (∀ x ∈ t.jobs, x.id = o.id → x.restarted = true) ∧ (∃ j ∈ t.jobs, j.id = s.nextJob ∧ j.restart = some step) ∧
              t.reg .modMirrorStep 0 = (if s.reg .modMirrorStep 0 = step + 1 then step % 2 ^ (fieldInfo .modMirrorStep).width
                else s.reg .modMirrorStep 0)) ∧
          (s.reg .modSumpJobSegs 0 ≤ s.reg .modSumpFree 0 →
            s.jobs.find? (fun o => o.lost && !o.restarted && o.tag == a.p.tag && o.ranks.contains s.self) = none →
            ∃ t, exec c s = .next t ∧ t.isDone a.cmd 0 ∧ t.mem = s.mem ∧
            t.reg .modSumpFree 0 = (s.reg .modSumpFree 0 - s.reg .modSumpJobSegs 0) % 2 ^ (fieldInfo .modSumpFree).width ∧
            t.nextJob = s.nextJob + 1 ∧ ∃ j ∈ t.jobs, j.id = s.nextJob ∧ (j.major, j.minor) = v ∧ j.ranks = a.ranks ∧
              j.mapCrc = a.mapCrc ∧ j.tag = a.p.tag ∧ j.pool = s.reg .modSumpJobSegs 0 ∧ j.poolFree = j.pool) ∧
          (s.reg .modSumpFree 0 < s.reg .modSumpJobSegs 0 → ∃ t, exec c s = .next t ∧ t.isDone a.cmd stNoResources ∧
            t.jobs = s.jobs ∧ t.mem = s.mem)) ∧
        (a.ranks.length ≤ b.records.length + 1 → settleVersion a.p.major a.p.minor (b.records.map (·.2)) = none →
          ∃ t, exec c s = .next t ∧ t.isDone a.cmd stVersionContract ∧ t.jobs = s.jobs ∧ t.mem = s.mem)) ∧
    (∀ h, (s.admitting.find? (fun a => a.cmd == h) = none ∨ s.now < (s.entry h).startTs + 20000000 →
        exec (.jobHelloTimeout h) s = .next s) ∧
      ((∃ a ∈ s.admitting, a.cmd = h) → (s.entry h).startTs + 20000000 ≤ s.now → ∃ t, exec (.jobHelloTimeout h) s = .next t ∧
        t.isDone h stTimeout ∧ t.mem = s.mem ∧ t.chambers = s.chambers ∧ t.jobs = s.jobs ∧ ∀ a ∈ t.admitting, a.cmd ≠ h))

/-! ### Edge mode -/

/-- R286 to R289, R362: an ingest flow writes an in-order packet into its window and passes its PSN; the last packet of a
transfer adds to its counter; one outside the window fails the flow, and a packet of no flow is counted and dropped. ACK_TIMER
acknowledges what has come 2 µs ago. R285: an interface answers for its own address alone. R286, R288, R289: an acknowledgement
of every packet of a flow's transfer completes its XFER; a packet unanswered for `EDGE_RTO` is sent again and counted, and
after the eighth retransmission the flow fails (log 37); a RESET fails the flow and ends its transfer with `FAULT`. -/
def Obligations.EdgeFlows : Prop :=
  (∀ (s : State) (p : Nat),
      (∀ k, (s.reg .modPowerState 0 = 1 → exec (.transportData p k) s = .next s) ∧
        (s.reg .modPowerState 0 ≠ 1 → s.flowOfPacket p 0 k = none → exec (.transportData p k) s = .next (s.edgeDrop p)) ∧
        ∀ f a, s.reg .modPowerState 0 ≠ 1 → s.flowOfPacket p 0 k = some f → a = f.winBase + k.offsetOrSack →
          (f.failed = true → exec (.transportData p k) s = .next s) ∧
          (f.failed = false → k.psn = f.ackPsn → f.got = [] → k.offsetOrSack + k.payload.length ≤ f.winSize →
            s.hostRange a k.payload.length = true →
            (f.ctrAddr = 0 ∨ (k.flags % 2 = 0 ∧ f.lasts = []) → ∃ t g, exec (.transportData p k) s = .next t ∧
              (regionOf a ≠ some .registers → t.bytes a k.payload.length = k.payload) ∧
              memoryOutside a k.payload.length s t ∧ t.chambers = s.chambers ∧ t.outstanding = s.outstanding ∧
              t.flow? p k.flowId 0 = some g ∧ g.ackPsn = (k.psn + 1) % 2 ^ 32 ∧ g.got = []) ∧
            (f.ctrAddr ≠ 0 → k.flags % 2 = 1 → f.lasts = [] → s.counterOk f.ctrAddr = true →
              (f.ctrAddr + 16 ≤ a ∨ a + k.payload.length ≤ f.ctrAddr) → ∃ t, exec (.transportData p k) s = .next t ∧
                (regionOf a ≠ some .registers → t.bytes a k.payload.length = k.payload) ∧ t.num f.ctrAddr 8 = (s.num f.ctrAddr 8 + f.increment) % 2 ^ 64)) ∧
          (f.failed = false → (k.psn + 2 ^ 32 - f.ackPsn) % 2 ^ 32 < 2 ^ 31 → k.psn ∉ f.got →
            f.winSize < k.offsetOrSack + k.payload.length → ∃ t, exec (.transportData p k) s = .next t ∧ recordOnly s t ∧
              (∃ q, .transport p 3 q ∈ t.outbox ∧ q.flags = 1 ∧ q.flowId = f.id) ∧
              ∀ g ∈ t.flows, g.port = p → g.id = f.id → g.dir = 0 → g.failed = true)) ∧
      (∀ id, (s.flow? p id 0 = none → exec (.ackTimer p id) s = .next s) ∧
        ∀ f, s.flow? p id 0 = some f →
          (f.sinceAck = 0 ∨ f.failed = true ∨ s.now < f.firstNew + 4000 → exec (.ackTimer p id) s = .next s) ∧
          (f.sinceAck ≠ 0 → f.failed = false → f.firstNew + 4000 ≤ s.now → ∃ t q g, exec (.ackTimer p id) s = .next t ∧
            t.outbox = .transport p 2 q :: s.outbox ∧ q.ackPsn = f.ackPsn ∧ q.flowId = id ∧ t.mem = s.mem ∧ t.regs = s.regs ∧
            t.chambers = s.chambers ∧ t.flow? p id 0 = some g ∧ g.sinceAck = 0)) ∧
      (∀ iface target body,
        (s.ifaceAddr p iface = some target → exec (.neighborSolicitation p iface target) s = .next (s.send (.frame p iface (bytesLE 16 target))) ∧
          exec (.echoRequest p iface target body) s = .next (s.send (.frame p iface body))) ∧
        (s.ifaceAddr p iface ≠ some target → exec (.neighborSolicitation p iface target) s = .next s ∧
          exec (.echoRequest p iface target body) s = .next s)) ∧
      (∀ iface prios, (s.reg .portPfcEn p = 0 → exec (.priorityFlowControl p iface prios) s = .next (s.edgeDrop p)) ∧
        (s.reg .portPfcEn p ≠ 0 → ∃ t, exec (.priorityFlowControl p iface prios) s = .next t ∧ t.mem = s.mem ∧ t.regs = s.regs ∧
          t.chambers = s.chambers ∧ (iface ∈ (t.port p).paused ↔ bit prios (s.reg .portPfcPrio p) = true))) ∧
      exec (.frameDiscard p) s = .next (s.edgeDrop p)) ∧
  (∀ (s : State) (p : Nat),
      (∀ k, (s.flowOfPacket p 1 k = none → exec (.transportAck p k) s = .next (s.edgeDrop p)) ∧
        ∀ f, s.flowOfPacket p 1 k = some f → (f.failed = true → exec (.transportAck p k) s = .next s) ∧
          (∀ h src dst n, f.failed = false → s.flow? p k.flowId 1 = some f → f.sending = some (h, src, dst, n) → packets n ≤ f.sentPkts →
            (∀ u ∈ f.unacked, 2 ^ 31 ≤ (u.1 + 2 ^ 32 - k.ackPsn) % 2 ^ 32) → s.isOut h = true →
            ∃ t g, exec (.transportAck p k) s = .next t ∧ t.isDone h 0 ∧ t.mem = s.mem ∧ t.chambers = s.chambers ∧
              t.flow? p k.flowId 1 = some g ∧ g.sending = none ∧ g.unacked = [])) ∧
      (∀ k, (s.flowOfPacket p 1 k = none → s.flowOfPacket p 0 k = none → exec (.transportReset p k) s = .next (s.edgeDrop p)) ∧
        (∀ f, s.flowOfPacket p 1 k = some f → s.flowOfPacket p 0 k = none → ∃ t, exec (.transportReset p k) s = .next t ∧
          recordOnly s t ∧ (∀ g ∈ t.flows, g.port = p → g.id = f.id → g.dir = 1 → g.failed = true ∧ g.sending = none) ∧
          ∀ h x, f.sending = some (h, x) → s.isOut h = true → t.isDone h stFault) ∧
        (∀ f, s.flowOfPacket p 1 k = none → s.flowOfPacket p 0 k = some f → ∃ t, exec (.transportReset p k) s = .next t ∧
          recordOnly s t ∧ ∀ g ∈ t.flows, g.port = p → g.id = f.id → g.dir = 0 → g.failed = true)) ∧
      (∀ id psn, (s.flow? p id 1 = none → exec (.edgeRto p id psn) s = .next s) ∧
        ∀ f, s.flow? p id 1 = some f →
          ((∀ u ∈ f.unacked, u.1 = psn → s.now < u.2.2.2 + 2000 * s.reg .portEdgeRto p) → exec (.edgeRto p id psn) s = .next s) ∧
          (∀ u, f.failed = false → f.unacked.find? (fun u => u.1 == psn) = some u → u.2.2.2 + 2000 * s.reg .portEdgeRto p ≤ s.now →
            (u.2.2.1 < 9 → ∃ t, exec (.edgeRto p id psn) s = .next t ∧ t.mem = s.mem ∧ t.chambers = s.chambers ∧
              t.reg .portEdgeRetx p = (s.reg .portEdgeRetx p + 1) % 2 ^ (fieldInfo .portEdgeRetx).width ∧
              (∀ h src dst n, f.sending = some (h, src, dst, n) → ∃ q, t.outbox = .transport p 1 q :: s.outbox ∧ q.psn = psn ∧
                q.payload = s.bytes (src + 8192 * u.2.1) (min 8192 (n - 8192 * u.2.1)))) ∧
            (9 ≤ u.2.2.1 → ∃ t, exec (.edgeRto p id psn) s = .next t ∧ recordOnly s t ∧
              ∀ g ∈ t.flows, g.port = p → g.id = f.id → g.dir = 1 → g.failed = true))))

/-! ### The test access port, the identity key and the non-volatile memory -/

/-- R390, R417: TRST_N resets the port and lets boot go on. IDCODE and SVL_STATUS shift out their words; EXTEST holds boot and
is taken only up to stage 2; with the rail down no instruction does anything. SVL_IMG_LOAD fills the staging memory and
SVL_IMG_COMMIT resets the module only with an image that passes R383. SVL_KEY_PROV makes the identity key usable. R381, R391,
R393, R395: a line write that reads back as written leaves the queue and is in force; one that does not is made again until its
eighth failure, which sets `NV_WRITE_ERR`. A tree rebuild makes the key ready and writes its chain block; tokens refill up to
64. -/
def Obligations.TestPortAndKeys : Prop :=
  (∀ (s : State),
      exec .trstN s = .next { s with jtag := { s.jtag with instr := .idcode, extestHold := false } } ∧
      (s.power.on = false → ∀ d, ∀ c ∈ [Instr.bypass, .idcode, .samplePreload, .extest, .svlStatus, .svlImgLoad d, .svlImgCommit,
        .svlKeyProv], exec c s = .next s) ∧
      (s.power.on = true →
        exec .bypass s = .next ({ s with jtag := { s.jtag with instr := .bypass } }.send (.jtag 1 0)) ∧
        exec .idcode s = .next ({ s with jtag := { s.jtag with instr := .idcode } }.send (.jtag 32 0x1D2004A7)) ∧
        exec .samplePreload s = .next { s with jtag := { s.jtag with instr := .samplePreload } } ∧
        exec .svlStatus s = .next ({ s with jtag := { s.jtag with instr := .svlStatus } }.send (.jtag 32 (s.reg .modBootStage 0 +
          16 * s.reg .modBootErr 0 + (if s.mfgOpen then 2 ^ 8 else 0) + (if s.keyInit then 2 ^ 9 else 0)))) ∧
        (s.reg .modBootStage 0 ≤ 2 → exec .extest s = .next { s with jtag := { s.jtag with instr := .extest, extestHold := true } }) ∧
        (2 < s.reg .modBootStage 0 → exec .extest s = .next s) ∧
        (s.imageOpen = false → (∀ d, exec (.svlImgLoad d) s = .next s) ∧ exec .svlImgCommit s = .next s) ∧
        (s.imageOpen = true → (∀ d, exec (.svlImgLoad d) s =
            .next { s with jtag := { s.jtag with instr := .svlImgLoad, staging := d.take 0x200000 } }) ∧
          (∀ n, imageFails s.slotState (s.jtag.staging.take (imageLen s.jtag.staging)) = some n →
            exec .svlImgCommit s = .next { s with jtag := { s.jtag with instr := .svlImgCommit } }) ∧
          (imageFails s.slotState (s.jtag.staging.take (imageLen s.jtag.staging)) = none → ∃ t, exec .svlImgCommit s = .next t ∧
            t.jobs = [] ∧ t.outstanding = [] ∧ t.chambers = [] ∧ t.mem = s.mem ∧ t.power.on = true)) ∧
        (s.mfgOpen = false → exec .svlKeyProv s = .next s) ∧
        (s.mfgOpen = true → ∃ t, exec .svlKeyProv s = .next t ∧ t.keyInit = true ∧ t.mem = s.mem ∧ t.chambers = s.chambers ∧
          t.outstanding = s.outstanding ∧ sameRegs (fun f u k => f = .modNvWrites ∧ u = 0 ∧ k = 0) s t))) ∧
  (∀ (s : State),
      (s.keyUninit = true ∨ s.reg .modKeyUninit 0 = 1 → ∀ b, exec (.keyTreeRebuild b) s = .next s) ∧
      (s.keyUninit = false → s.reg .modKeyUninit 0 ≠ 1 →
        (s.reg .modKeyNextQ 0 % 2 ^ 15 < 28672 → exec (.keyTreeRebuild true) s = .next s) ∧
        (28672 ≤ s.reg .modKeyNextQ 0 % 2 ^ 15 → exec (.keyTreeRebuild true) s =
          .next { s with keys := { s.keys with nextTree := some (s.reg .modKeyNextQ 0 / 2 ^ 15 + 1) } }) ∧
        ∃ t, exec (.keyTreeRebuild false) s = .next t ∧ t.reg .modKeyReady 0 = 1 ∧ t.chambers = s.chambers ∧
          t.bytes chainAddr 6300 = chainBlock (s.reg .modKeyNextQ 0 / 2 ^ 15) ∧ memoryOutside chainAddr 6300 s t ∧
          t.keys.tree = some (s.reg .modKeyNextQ 0 / 2 ^ 15)) ∧
      (∃ t, exec .attestTokenRefill s = .next t ∧
        t.reg .modAttestTokens 0 = min 64 (s.reg .modAttestTokens 0 + 1) % 2 ^ (fieldInfo .modAttestTokens).width ∧ outsideSame s t ∧
        t.chambers = s.chambers ∧ sameRegs (fun f u k => f = .modAttestTokens ∧ u = 0 ∧ k = 0) s t) ∧
      (∀ ok, s.nvQueue = [] → exec (.nvLineWrite ok) s = .next s) ∧
      (∀ w, nvHead s.nvQueue = some w →
        (w.tag = 0 → ∃ t, exec (.nvLineWrite true) s = .next t ∧ t.nvQueue = s.nvQueue.erase w ∧
          t.nvLine w.line = padTo 64 (w.bytes.take 64) ∧ (∀ l, l ≠ w.line → t.nvLine l = s.nvLine l) ∧ t.mem = s.mem ∧
          t.chambers = s.chambers ∧ t.outstanding = s.outstanding ∧ sameRegs (fun f u k => f = .modNvWrites ∧ u = 0 ∧ k = 0) s t) ∧
        (w.tries < 7 → ∃ t, exec (.nvLineWrite false) s = .next t ∧ { w with tries := w.tries + 1 } ∈ t.nvQueue ∧ t.mem = s.mem ∧
          (∀ l, l ≠ w.line → t.nvLine l = s.nvLine l) ∧ t.regs = s.regs ∧ t.chambers = s.chambers) ∧
        (7 ≤ w.tries → w.tag = 0 → ∃ t, exec (.nvLineWrite false) s = .next t ∧ t.reg .modNvWriteErr 0 = 1 ∧ t.mem = s.mem ∧
          t.nvQueue = s.nvQueue.erase w ∧ (∀ l, l ≠ w.line → t.nvLine l = s.nvLine l) ∧ t.outstanding = s.outstanding)))

/-! ### The block as a whole -/

/-- A step with commands waiting takes the first of them out of the queue and has its effect; with none waiting it is one tick
of module time (log 1). -/
def Obligations.StepRunsFront : Prop :=
  (∀ (c : Instr) (rest : List Instr) (s : State), step { s with pending := c :: rest } = exec c { s with pending := rest }) ∧
  ∀ s : State, s.pending = [] → step s = .next s.tick

/-- R8, R15, R229, R245: after reset every register holds the value of its Reset column (and the slot tables the default table),
nothing is listed in memory, nothing waits, and no queue, job, transfer or strand is there. The state at reset is well formed.
(Which values fill the registers that the spec gives none is in the log.) -/
def Obligations.ResetState : Prop :=
  State.reset.wf ∧ (∀ f u i, State.reset.reg f u i = resetVal f i) ∧
    (∀ f, f ≠ .glSlotActive → f ≠ .glSlotShadow → ∀ u i, State.reset.reg f u i = (fieldInfo f).reset) ∧
    (∀ a, State.reset.byte a = 0) ∧ (∀ a n, State.reset.poisoned a n = false) ∧ State.reset.pending = [] ∧
    State.reset.outstanding = [] ∧ State.reset.jobs = [] ∧ State.reset.xfers = [] ∧ State.reset.flows = [] ∧
    (∀ q, (State.reset.queue q).state = .absent) ∧ ∀ c i, State.reset.strandLive c i = false

/-- The invariant of the model's state: whatever a step does, memory, the host's memory and the poison marks keep their canonical
form, and every register holds a value of its width. -/
def Obligations.StepKeepsWf : Prop := ∀ (s t : State), s.wf → step s = .next t → t.wf

/-- R19: what a SWEEP that issues behind another, or that does not, does to values, banks, runs, feeds and every register does not
depend on when its words come: only the counters of frozen clocks differ. -/
def Obligations.SweepTimingOnlyCounts : Prop :=
  ∀ (s : State) (c i : Nat) (w : SweepWord) (a b : SweepTiming), a.behind = b.behind → ∃ t u, exec (.sweep c i w a) s = .next t ∧
    exec (.sweep c i w b) s = .next u ∧ { t with regs := u.regs } = u ∧
    sameRegs (fun f v k => v = c ∧ k = 0 ∧ f ∈ [Field.chFreezeTotal, .chFreezeAfeed, .chFreezeBfeed, .chFreezeBank]) u t

/-- The commands that can reset the module or take its power away. -/
def resets : Instr → Bool
  | .mgtResetKey _ => true
  | .bootLimit => true
  | .svlImgCommit => true
  | .registerWrite .board _ _ _ _ => true
  | .mfrMgtData (some _) => true
  | .underVoltageShutdown => true
  | .overVoltageShutdown => true
  | .inputRemoval => true
  | .thermalTrip => true
  | _ => false

/-- R16: a retired Chamber accepts no stage program and no start from any controller, and is none of the working Chambers of its
Gallery; and no command but one that resets the module ends its retirement. -/
def Obligations.RetiredUntilReset : Prop :=
  ∀ (s : State) (k : Nat), s.reg .chRetired k = 1 →
    (∀ (c : Instr) (t : State), resets c = false → exec c s = .next t → t.reg .chRetired k = 1) ∧
    (∀ i, exec (.go k i) s = .next s) ∧ (∀ who, exec (.start who (.chamber k)) s = .next s) ∧
    (∀ who, exec (.restart who (.chamber k)) s = .next s) ∧
    (∀ h i prio header, k < 256 → i < 4 → prio ≤ 3 → s.ready h = true → s.hasJob h = true →
      ¬ (s.jobMajor (s.entry h).jobId = 2 ∧ s.namesG16 k header = true) →
      exec (.stageRun h k i prio header) s = .next (s.fail h stNoResources 0)) ∧
    ∀ job stage g, k ∉ s.freeChambers job stage g
end

