-- ==== Sys2Proof/Laws/State.lean ====
section
/-!
SUPPORT. What each primitive update leaves of each field of the state: everything that it does not write. One line per
update and field, true by unfolding, so that no proof opens a record update.
-/
namespace Sys2Proof.Machine

variable (s : State)


/-! ### `State.setReg` -/

@[simp] theorem State.setReg_mem (f : Field) (u i v : Nat) : (s.setReg f u i v).mem = s.mem := rfl
@[simp] theorem State.setReg_poison (f : Field) (u i v : Nat) : (s.setReg f u i v).poison = s.poison := rfl
@[simp] theorem State.setReg_soft (f : Field) (u i v : Nat) : (s.setReg f u i v).soft = s.soft := rfl
@[simp] theorem State.setReg_hostMem (f : Field) (u i v : Nat) : (s.setReg f u i v).hostMem = s.hostMem := rfl
@[simp] theorem State.setReg_chambers (f : Field) (u i v : Nat) : (s.setReg f u i v).chambers = s.chambers := rfl
@[simp] theorem State.setReg_gmem (f : Field) (u i v : Nat) : (s.setReg f u i v).gmem = s.gmem := rfl
@[simp] theorem State.setReg_gpow (f : Field) (u i v : Nat) : (s.setReg f u i v).gpow = s.gpow := rfl
@[simp] theorem State.setReg_caches (f : Field) (u i v : Nat) : (s.setReg f u i v).caches = s.caches := rfl
@[simp] theorem State.setReg_sharers (f : Field) (u i v : Nat) : (s.setReg f u i v).sharers = s.sharers := rfl
@[simp] theorem State.setReg_lost (f : Field) (u i v : Nat) : (s.setReg f u i v).lost = s.lost := rfl
@[simp] theorem State.setReg_queues (f : Field) (u i v : Nat) : (s.setReg f u i v).queues = s.queues := rfl
@[simp] theorem State.setReg_fetchRR (f : Field) (u i v : Nat) : (s.setReg f u i v).fetchRR = s.fetchRR := rfl
@[simp] theorem State.setReg_outstanding (f : Field) (u i v : Nat) : (s.setReg f u i v).outstanding = s.outstanding := rfl
@[simp] theorem State.setReg_outcomes (f : Field) (u i v : Nat) : (s.setReg f u i v).outcomes = s.outcomes := rfl
@[simp] theorem State.setReg_jobs (f : Field) (u i v : Nat) : (s.setReg f u i v).jobs = s.jobs := rfl
@[simp] theorem State.setReg_nextJob (f : Field) (u i v : Nat) : (s.setReg f u i v).nextJob = s.nextJob := rfl
@[simp] theorem State.setReg_admitting (f : Field) (u i v : Nat) : (s.setReg f u i v).admitting = s.admitting := rfl
@[simp] theorem State.setReg_hellos (f : Field) (u i v : Nat) : (s.setReg f u i v).hellos = s.hellos := rfl
@[simp] theorem State.setReg_tensors (f : Field) (u i v : Nat) : (s.setReg f u i v).tensors = s.tensors := rfl
@[simp] theorem State.setReg_groups (f : Field) (u i v : Nat) : (s.setReg f u i v).groups = s.groups := rfl
@[simp] theorem State.setReg_plans (f : Field) (u i v : Nat) : (s.setReg f u i v).plans = s.plans := rfl
@[simp] theorem State.setReg_batches (f : Field) (u i v : Nat) : (s.setReg f u i v).batches = s.batches := rfl
@[simp] theorem State.setReg_progress (f : Field) (u i v : Nat) : (s.setReg f u i v).progress = s.progress := rfl
@[simp] theorem State.setReg_halted (f : Field) (u i v : Nat) : (s.setReg f u i v).halted = s.halted := rfl
@[simp] theorem State.setReg_contexts (f : Field) (u i v : Nat) : (s.setReg f u i v).contexts = s.contexts := rfl
@[simp] theorem State.setReg_allocs (f : Field) (u i v : Nat) : (s.setReg f u i v).allocs = s.allocs := rfl
@[simp] theorem State.setReg_retired (f : Field) (u i v : Nat) : (s.setReg f u i v).retired = s.retired := rfl
@[simp] theorem State.setReg_withdrawn (f : Field) (u i v : Nat) : (s.setReg f u i v).withdrawn = s.withdrawn := rfl
@[simp] theorem State.setReg_colls (f : Field) (u i v : Nat) : (s.setReg f u i v).colls = s.colls := rfl
@[simp] theorem State.setReg_ports (f : Field) (u i v : Nat) : (s.setReg f u i v).ports = s.ports := rfl
@[simp] theorem State.setReg_segments (f : Field) (u i v : Nat) : (s.setReg f u i v).segments = s.segments := rfl
@[simp] theorem State.setReg_xfers (f : Field) (u i v : Nat) : (s.setReg f u i v).xfers = s.xfers := rfl
@[simp] theorem State.setReg_nextXfer (f : Field) (u i v : Nat) : (s.setReg f u i v).nextXfer = s.nextXfer := rfl
@[simp] theorem State.setReg_xferSources (f : Field) (u i v : Nat) : (s.setReg f u i v).xferSources = s.xferSources := rfl
@[simp] theorem State.setReg_flows (f : Field) (u i v : Nat) : (s.setReg f u i v).flows = s.flows := rfl
@[simp] theorem State.setReg_fine (f : Field) (u i v : Nat) : (s.setReg f u i v).fine = s.fine := rfl
@[simp] theorem State.setReg_dieOffset (f : Field) (u i v : Nat) : (s.setReg f u i v).dieOffset = s.dieOffset := rfl
@[simp] theorem State.setReg_refGood (f : Field) (u i v : Nat) : (s.setReg f u i v).refGood = s.refGood := rfl
@[simp] theorem State.setReg_refFar (f : Field) (u i v : Nat) : (s.setReg f u i v).refFar = s.refFar := rfl
@[simp] theorem State.setReg_slew (f : Field) (u i v : Nat) : (s.setReg f u i v).slew = s.slew := rfl
@[simp] theorem State.setReg_slewTicks (f : Field) (u i v : Nat) : (s.setReg f u i v).slewTicks = s.slewTicks := rfl
@[simp] theorem State.setReg_logs (f : Field) (u i v : Nat) : (s.setReg f u i v).logs = s.logs := rfl
@[simp] theorem State.setReg_logSeq (f : Field) (u i v : Nat) : (s.setReg f u i v).logSeq = s.logSeq := rfl
@[simp] theorem State.setReg_events (f : Field) (u i v : Nat) : (s.setReg f u i v).events = s.events := rfl
@[simp] theorem State.setReg_recoveries (f : Field) (u i v : Nat) : (s.setReg f u i v).recoveries = s.recoveries := rfl
@[simp] theorem State.setReg_failedLinks (f : Field) (u i v : Nat) : (s.setReg f u i v).failedLinks = s.failedLinks := rfl
@[simp] theorem State.setReg_linkHolds (f : Field) (u i v : Nat) : (s.setReg f u i v).linkHolds = s.linkHolds := rfl
@[simp] theorem State.setReg_junctionHolds (f : Field) (u i v : Nat) : (s.setReg f u i v).junctionHolds = s.junctionHolds := rfl
@[simp] theorem State.setReg_probes (f : Field) (u i v : Nat) : (s.setReg f u i v).probes = s.probes := rfl
@[simp] theorem State.setReg_mirrors (f : Field) (u i v : Nat) : (s.setReg f u i v).mirrors = s.mirrors := rfl
@[simp] theorem State.setReg_portsFailedAt (f : Field) (u i v : Nat) : (s.setReg f u i v).portsFailedAt = s.portsFailedAt := rfl
@[simp] theorem State.setReg_power (f : Field) (u i v : Nat) : (s.setReg f u i v).power = s.power := rfl
@[simp] theorem State.setReg_nvMem (f : Field) (u i v : Nat) : (s.setReg f u i v).nvMem = s.nvMem := rfl
@[simp] theorem State.setReg_nvQueue (f : Field) (u i v : Nat) : (s.setReg f u i v).nvQueue = s.nvQueue := rfl
@[simp] theorem State.setReg_boot (f : Field) (u i v : Nat) : (s.setReg f u i v).boot = s.boot := rfl
@[simp] theorem State.setReg_keys (f : Field) (u i v : Nat) : (s.setReg f u i v).keys = s.keys := rfl
@[simp] theorem State.setReg_jtag (f : Field) (u i v : Nat) : (s.setReg f u i v).jtag = s.jtag := rfl
@[simp] theorem State.setReg_pcie (f : Field) (u i v : Nat) : (s.setReg f u i v).pcie = s.pcie := rfl
@[simp] theorem State.setReg_smbus (f : Field) (u i v : Nat) : (s.setReg f u i v).smbus = s.smbus := rfl
@[simp] theorem State.setReg_alertLow (f : Field) (u i v : Nat) : (s.setReg f u i v).alertLow = s.alertLow := rfl
@[simp] theorem State.setReg_thermTripLow (f : Field) (u i v : Nat) : (s.setReg f u i v).thermTripLow = s.thermTripLow := rfl
@[simp] theorem State.setReg_mfgOpen (f : Field) (u i v : Nat) : (s.setReg f u i v).mfgOpen = s.mfgOpen := rfl
@[simp] theorem State.setReg_keyInit (f : Field) (u i v : Nat) : (s.setReg f u i v).keyInit = s.keyInit := rfl
@[simp] theorem State.setReg_fresh (f : Field) (u i v : Nat) : (s.setReg f u i v).fresh = s.fresh := rfl
@[simp] theorem State.setReg_outbox (f : Field) (u i v : Nat) : (s.setReg f u i v).outbox = s.outbox := rfl
@[simp] theorem State.setReg_pending (f : Field) (u i v : Nat) : (s.setReg f u i v).pending = s.pending := rfl

/-! ### `State.setChamber` -/

@[simp] theorem State.setChamber_regs (c : Nat) (x : Chamber) : (s.setChamber c x).regs = s.regs := rfl
@[simp] theorem State.setChamber_mem (c : Nat) (x : Chamber) : (s.setChamber c x).mem = s.mem := rfl
@[simp] theorem State.setChamber_poison (c : Nat) (x : Chamber) : (s.setChamber c x).poison = s.poison := rfl
@[simp] theorem State.setChamber_soft (c : Nat) (x : Chamber) : (s.setChamber c x).soft = s.soft := rfl
@[simp] theorem State.setChamber_hostMem (c : Nat) (x : Chamber) : (s.setChamber c x).hostMem = s.hostMem := rfl
@[simp] theorem State.setChamber_gmem (c : Nat) (x : Chamber) : (s.setChamber c x).gmem = s.gmem := rfl
@[simp] theorem State.setChamber_gpow (c : Nat) (x : Chamber) : (s.setChamber c x).gpow = s.gpow := rfl
@[simp] theorem State.setChamber_caches (c : Nat) (x : Chamber) : (s.setChamber c x).caches = s.caches := rfl
@[simp] theorem State.setChamber_sharers (c : Nat) (x : Chamber) : (s.setChamber c x).sharers = s.sharers := rfl
@[simp] theorem State.setChamber_lost (c : Nat) (x : Chamber) : (s.setChamber c x).lost = s.lost := rfl
@[simp] theorem State.setChamber_queues (c : Nat) (x : Chamber) : (s.setChamber c x).queues = s.queues := rfl
@[simp] theorem State.setChamber_fetchRR (c : Nat) (x : Chamber) : (s.setChamber c x).fetchRR = s.fetchRR := rfl
@[simp] theorem State.setChamber_outstanding (c : Nat) (x : Chamber) : (s.setChamber c x).outstanding = s.outstanding := rfl
@[simp] theorem State.setChamber_outcomes (c : Nat) (x : Chamber) : (s.setChamber c x).outcomes = s.outcomes := rfl
@[simp] theorem State.setChamber_jobs (c : Nat) (x : Chamber) : (s.setChamber c x).jobs = s.jobs := rfl
@[simp] theorem State.setChamber_nextJob (c : Nat) (x : Chamber) : (s.setChamber c x).nextJob = s.nextJob := rfl
@[simp] theorem State.setChamber_admitting (c : Nat) (x : Chamber) : (s.setChamber c x).admitting = s.admitting := rfl
@[simp] theorem State.setChamber_hellos (c : Nat) (x : Chamber) : (s.setChamber c x).hellos = s.hellos := rfl
@[simp] theorem State.setChamber_tensors (c : Nat) (x : Chamber) : (s.setChamber c x).tensors = s.tensors := rfl
@[simp] theorem State.setChamber_groups (c : Nat) (x : Chamber) : (s.setChamber c x).groups = s.groups := rfl
@[simp] theorem State.setChamber_plans (c : Nat) (x : Chamber) : (s.setChamber c x).plans = s.plans := rfl
@[simp] theorem State.setChamber_batches (c : Nat) (x : Chamber) : (s.setChamber c x).batches = s.batches := rfl
@[simp] theorem State.setChamber_progress (c : Nat) (x : Chamber) : (s.setChamber c x).progress = s.progress := rfl
@[simp] theorem State.setChamber_halted (c : Nat) (x : Chamber) : (s.setChamber c x).halted = s.halted := rfl
@[simp] theorem State.setChamber_contexts (c : Nat) (x : Chamber) : (s.setChamber c x).contexts = s.contexts := rfl
@[simp] theorem State.setChamber_allocs (c : Nat) (x : Chamber) : (s.setChamber c x).allocs = s.allocs := rfl
@[simp] theorem State.setChamber_retired (c : Nat) (x : Chamber) : (s.setChamber c x).retired = s.retired := rfl
@[simp] theorem State.setChamber_withdrawn (c : Nat) (x : Chamber) : (s.setChamber c x).withdrawn = s.withdrawn := rfl
@[simp] theorem State.setChamber_colls (c : Nat) (x : Chamber) : (s.setChamber c x).colls = s.colls := rfl
@[simp] theorem State.setChamber_ports (c : Nat) (x : Chamber) : (s.setChamber c x).ports = s.ports := rfl
@[simp] theorem State.setChamber_segments (c : Nat) (x : Chamber) : (s.setChamber c x).segments = s.segments := rfl
@[simp] theorem State.setChamber_xfers (c : Nat) (x : Chamber) : (s.setChamber c x).xfers = s.xfers := rfl
@[simp] theorem State.setChamber_nextXfer (c : Nat) (x : Chamber) : (s.setChamber c x).nextXfer = s.nextXfer := rfl
@[simp] theorem State.setChamber_xferSources (c : Nat) (x : Chamber) : (s.setChamber c x).xferSources = s.xferSources := rfl
@[simp] theorem State.setChamber_flows (c : Nat) (x : Chamber) : (s.setChamber c x).flows = s.flows := rfl
@[simp] theorem State.setChamber_fine (c : Nat) (x : Chamber) : (s.setChamber c x).fine = s.fine := rfl
@[simp] theorem State.setChamber_dieOffset (c : Nat) (x : Chamber) : (s.setChamber c x).dieOffset = s.dieOffset := rfl
@[simp] theorem State.setChamber_refGood (c : Nat) (x : Chamber) : (s.setChamber c x).refGood = s.refGood := rfl
@[simp] theorem State.setChamber_refFar (c : Nat) (x : Chamber) : (s.setChamber c x).refFar = s.refFar := rfl
@[simp] theorem State.setChamber_slew (c : Nat) (x : Chamber) : (s.setChamber c x).slew = s.slew := rfl
@[simp] theorem State.setChamber_slewTicks (c : Nat) (x : Chamber) : (s.setChamber c x).slewTicks = s.slewTicks := rfl
@[simp] theorem State.setChamber_logs (c : Nat) (x : Chamber) : (s.setChamber c x).logs = s.logs := rfl
@[simp] theorem State.setChamber_logSeq (c : Nat) (x : Chamber) : (s.setChamber c x).logSeq = s.logSeq := rfl
@[simp] theorem State.setChamber_events (c : Nat) (x : Chamber) : (s.setChamber c x).events = s.events := rfl
@[simp] theorem State.setChamber_recoveries (c : Nat) (x : Chamber) : (s.setChamber c x).recoveries = s.recoveries := rfl
@[simp] theorem State.setChamber_failedLinks (c : Nat) (x : Chamber) : (s.setChamber c x).failedLinks = s.failedLinks := rfl
@[simp] theorem State.setChamber_linkHolds (c : Nat) (x : Chamber) : (s.setChamber c x).linkHolds = s.linkHolds := rfl
@[simp] theorem State.setChamber_junctionHolds (c : Nat) (x : Chamber) : (s.setChamber c x).junctionHolds = s.junctionHolds := rfl
@[simp] theorem State.setChamber_probes (c : Nat) (x : Chamber) : (s.setChamber c x).probes = s.probes := rfl
@[simp] theorem State.setChamber_mirrors (c : Nat) (x : Chamber) : (s.setChamber c x).mirrors = s.mirrors := rfl
@[simp] theorem State.setChamber_portsFailedAt (c : Nat) (x : Chamber) : (s.setChamber c x).portsFailedAt = s.portsFailedAt := rfl
@[simp] theorem State.setChamber_power (c : Nat) (x : Chamber) : (s.setChamber c x).power = s.power := rfl
@[simp] theorem State.setChamber_nvMem (c : Nat) (x : Chamber) : (s.setChamber c x).nvMem = s.nvMem := rfl
@[simp] theorem State.setChamber_nvQueue (c : Nat) (x : Chamber) : (s.setChamber c x).nvQueue = s.nvQueue := rfl
@[simp] theorem State.setChamber_boot (c : Nat) (x : Chamber) : (s.setChamber c x).boot = s.boot := rfl
@[simp] theorem State.setChamber_keys (c : Nat) (x : Chamber) : (s.setChamber c x).keys = s.keys := rfl
@[simp] theorem State.setChamber_jtag (c : Nat) (x : Chamber) : (s.setChamber c x).jtag = s.jtag := rfl
@[simp] theorem State.setChamber_pcie (c : Nat) (x : Chamber) : (s.setChamber c x).pcie = s.pcie := rfl
@[simp] theorem State.setChamber_smbus (c : Nat) (x : Chamber) : (s.setChamber c x).smbus = s.smbus := rfl
@[simp] theorem State.setChamber_alertLow (c : Nat) (x : Chamber) : (s.setChamber c x).alertLow = s.alertLow := rfl
@[simp] theorem State.setChamber_thermTripLow (c : Nat) (x : Chamber) : (s.setChamber c x).thermTripLow = s.thermTripLow := rfl
@[simp] theorem State.setChamber_mfgOpen (c : Nat) (x : Chamber) : (s.setChamber c x).mfgOpen = s.mfgOpen := rfl
@[simp] theorem State.setChamber_keyInit (c : Nat) (x : Chamber) : (s.setChamber c x).keyInit = s.keyInit := rfl
@[simp] theorem State.setChamber_fresh (c : Nat) (x : Chamber) : (s.setChamber c x).fresh = s.fresh := rfl
@[simp] theorem State.setChamber_outbox (c : Nat) (x : Chamber) : (s.setChamber c x).outbox = s.outbox := rfl
@[simp] theorem State.setChamber_pending (c : Nat) (x : Chamber) : (s.setChamber c x).pending = s.pending := rfl

/-! ### `State.modChamber` -/

@[simp] theorem State.modChamber_regs (c : Nat) (f : Chamber → Chamber) : (s.modChamber c f).regs = s.regs := rfl
@[simp] theorem State.modChamber_mem (c : Nat) (f : Chamber → Chamber) : (s.modChamber c f).mem = s.mem := rfl
@[simp] theorem State.modChamber_poison (c : Nat) (f : Chamber → Chamber) : (s.modChamber c f).poison = s.poison := rfl
@[simp] theorem State.modChamber_soft (c : Nat) (f : Chamber → Chamber) : (s.modChamber c f).soft = s.soft := rfl
@[simp] theorem State.modChamber_hostMem (c : Nat) (f : Chamber → Chamber) : (s.modChamber c f).hostMem = s.hostMem := rfl
@[simp] theorem State.modChamber_gmem (c : Nat) (f : Chamber → Chamber) : (s.modChamber c f).gmem = s.gmem := rfl
@[simp] theorem State.modChamber_gpow (c : Nat) (f : Chamber → Chamber) : (s.modChamber c f).gpow = s.gpow := rfl
@[simp] theorem State.modChamber_caches (c : Nat) (f : Chamber → Chamber) : (s.modChamber c f).caches = s.caches := rfl
@[simp] theorem State.modChamber_sharers (c : Nat) (f : Chamber → Chamber) : (s.modChamber c f).sharers = s.sharers := rfl
@[simp] theorem State.modChamber_lost (c : Nat) (f : Chamber → Chamber) : (s.modChamber c f).lost = s.lost := rfl
@[simp] theorem State.modChamber_queues (c : Nat) (f : Chamber → Chamber) : (s.modChamber c f).queues = s.queues := rfl
@[simp] theorem State.modChamber_fetchRR (c : Nat) (f : Chamber → Chamber) : (s.modChamber c f).fetchRR = s.fetchRR := rfl
@[simp] theorem State.modChamber_outstanding (c : Nat) (f : Chamber → Chamber) : (s.modChamber c f).outstanding = s.outstanding := rfl
@[simp] theorem State.modChamber_outcomes (c : Nat) (f : Chamber → Chamber) : (s.modChamber c f).outcomes = s.outcomes := rfl
@[simp] theorem State.modChamber_jobs (c : Nat) (f : Chamber → Chamber) : (s.modChamber c f).jobs = s.jobs := rfl
@[simp] theorem State.modChamber_nextJob (c : Nat) (f : Chamber → Chamber) : (s.modChamber c f).nextJob = s.nextJob := rfl
@[simp] theorem State.modChamber_admitting (c : Nat) (f : Chamber → Chamber) : (s.modChamber c f).admitting = s.admitting := rfl
@[simp] theorem State.modChamber_hellos (c : Nat) (f : Chamber → Chamber) : (s.modChamber c f).hellos = s.hellos := rfl
@[simp] theorem State.modChamber_tensors (c : Nat) (f : Chamber → Chamber) : (s.modChamber c f).tensors = s.tensors := rfl
@[simp] theorem State.modChamber_groups (c : Nat) (f : Chamber → Chamber) : (s.modChamber c f).groups = s.groups := rfl
@[simp] theorem State.modChamber_plans (c : Nat) (f : Chamber → Chamber) : (s.modChamber c f).plans = s.plans := rfl
@[simp] theorem State.modChamber_batches (c : Nat) (f : Chamber → Chamber) : (s.modChamber c f).batches = s.batches := rfl
@[simp] theorem State.modChamber_progress (c : Nat) (f : Chamber → Chamber) : (s.modChamber c f).progress = s.progress := rfl
@[simp] theorem State.modChamber_halted (c : Nat) (f : Chamber → Chamber) : (s.modChamber c f).halted = s.halted := rfl
@[simp] theorem State.modChamber_contexts (c : Nat) (f : Chamber → Chamber) : (s.modChamber c f).contexts = s.contexts := rfl
@[simp] theorem State.modChamber_allocs (c : Nat) (f : Chamber → Chamber) : (s.modChamber c f).allocs = s.allocs := rfl
@[simp] theorem State.modChamber_retired (c : Nat) (f : Chamber → Chamber) : (s.modChamber c f).retired = s.retired := rfl
@[simp] theorem State.modChamber_withdrawn (c : Nat) (f : Chamber → Chamber) : (s.modChamber c f).withdrawn = s.withdrawn := rfl
@[simp] theorem State.modChamber_colls (c : Nat) (f : Chamber → Chamber) : (s.modChamber c f).colls = s.colls := rfl
@[simp] theorem State.modChamber_ports (c : Nat) (f : Chamber → Chamber) : (s.modChamber c f).ports = s.ports := rfl
@[simp] theorem State.modChamber_segments (c : Nat) (f : Chamber → Chamber) : (s.modChamber c f).segments = s.segments := rfl
@[simp] theorem State.modChamber_xfers (c : Nat) (f : Chamber → Chamber) : (s.modChamber c f).xfers = s.xfers := rfl
@[simp] theorem State.modChamber_nextXfer (c : Nat) (f : Chamber → Chamber) : (s.modChamber c f).nextXfer = s.nextXfer := rfl
@[simp] theorem State.modChamber_xferSources (c : Nat) (f : Chamber → Chamber) : (s.modChamber c f).xferSources = s.xferSources := rfl
@[simp] theorem State.modChamber_flows (c : Nat) (f : Chamber → Chamber) : (s.modChamber c f).flows = s.flows := rfl
@[simp] theorem State.modChamber_fine (c : Nat) (f : Chamber → Chamber) : (s.modChamber c f).fine = s.fine := rfl
@[simp] theorem State.modChamber_dieOffset (c : Nat) (f : Chamber → Chamber) : (s.modChamber c f).dieOffset = s.dieOffset := rfl
@[simp] theorem State.modChamber_refGood (c : Nat) (f : Chamber → Chamber) : (s.modChamber c f).refGood = s.refGood := rfl
@[simp] theorem State.modChamber_refFar (c : Nat) (f : Chamber → Chamber) : (s.modChamber c f).refFar = s.refFar := rfl
@[simp] theorem State.modChamber_slew (c : Nat) (f : Chamber → Chamber) : (s.modChamber c f).slew = s.slew := rfl
@[simp] theorem State.modChamber_slewTicks (c : Nat) (f : Chamber → Chamber) : (s.modChamber c f).slewTicks = s.slewTicks := rfl
@[simp] theorem State.modChamber_logs (c : Nat) (f : Chamber → Chamber) : (s.modChamber c f).logs = s.logs := rfl
@[simp] theorem State.modChamber_logSeq (c : Nat) (f : Chamber → Chamber) : (s.modChamber c f).logSeq = s.logSeq := rfl
@[simp] theorem State.modChamber_events (c : Nat) (f : Chamber → Chamber) : (s.modChamber c f).events = s.events := rfl
@[simp] theorem State.modChamber_recoveries (c : Nat) (f : Chamber → Chamber) : (s.modChamber c f).recoveries = s.recoveries := rfl
@[simp] theorem State.modChamber_failedLinks (c : Nat) (f : Chamber → Chamber) : (s.modChamber c f).failedLinks = s.failedLinks := rfl
@[simp] theorem State.modChamber_linkHolds (c : Nat) (f : Chamber → Chamber) : (s.modChamber c f).linkHolds = s.linkHolds := rfl
@[simp] theorem State.modChamber_junctionHolds (c : Nat) (f : Chamber → Chamber) : (s.modChamber c f).junctionHolds = s.junctionHolds := rfl
@[simp] theorem State.modChamber_probes (c : Nat) (f : Chamber → Chamber) : (s.modChamber c f).probes = s.probes := rfl
@[simp] theorem State.modChamber_mirrors (c : Nat) (f : Chamber → Chamber) : (s.modChamber c f).mirrors = s.mirrors := rfl
@[simp] theorem State.modChamber_portsFailedAt (c : Nat) (f : Chamber → Chamber) : (s.modChamber c f).portsFailedAt = s.portsFailedAt := rfl
@[simp] theorem State.modChamber_power (c : Nat) (f : Chamber → Chamber) : (s.modChamber c f).power = s.power := rfl
@[simp] theorem State.modChamber_nvMem (c : Nat) (f : Chamber → Chamber) : (s.modChamber c f).nvMem = s.nvMem := rfl
@[simp] theorem State.modChamber_nvQueue (c : Nat) (f : Chamber → Chamber) : (s.modChamber c f).nvQueue = s.nvQueue := rfl
@[simp] theorem State.modChamber_boot (c : Nat) (f : Chamber → Chamber) : (s.modChamber c f).boot = s.boot := rfl
@[simp] theorem State.modChamber_keys (c : Nat) (f : Chamber → Chamber) : (s.modChamber c f).keys = s.keys := rfl
@[simp] theorem State.modChamber_jtag (c : Nat) (f : Chamber → Chamber) : (s.modChamber c f).jtag = s.jtag := rfl
@[simp] theorem State.modChamber_pcie (c : Nat) (f : Chamber → Chamber) : (s.modChamber c f).pcie = s.pcie := rfl
@[simp] theorem State.modChamber_smbus (c : Nat) (f : Chamber → Chamber) : (s.modChamber c f).smbus = s.smbus := rfl
@[simp] theorem State.modChamber_alertLow (c : Nat) (f : Chamber → Chamber) : (s.modChamber c f).alertLow = s.alertLow := rfl
@[simp] theorem State.modChamber_thermTripLow (c : Nat) (f : Chamber → Chamber) : (s.modChamber c f).thermTripLow = s.thermTripLow := rfl
@[simp] theorem State.modChamber_mfgOpen (c : Nat) (f : Chamber → Chamber) : (s.modChamber c f).mfgOpen = s.mfgOpen := rfl
@[simp] theorem State.modChamber_keyInit (c : Nat) (f : Chamber → Chamber) : (s.modChamber c f).keyInit = s.keyInit := rfl
@[simp] theorem State.modChamber_fresh (c : Nat) (f : Chamber → Chamber) : (s.modChamber c f).fresh = s.fresh := rfl
@[simp] theorem State.modChamber_outbox (c : Nat) (f : Chamber → Chamber) : (s.modChamber c f).outbox = s.outbox := rfl
@[simp] theorem State.modChamber_pending (c : Nat) (f : Chamber → Chamber) : (s.modChamber c f).pending = s.pending := rfl

/-! ### `State.modStrand` -/

@[simp] theorem State.modStrand_regs (c i : Nat) (f : Strand → Strand) : (s.modStrand c i f).regs = s.regs := rfl
@[simp] theorem State.modStrand_mem (c i : Nat) (f : Strand → Strand) : (s.modStrand c i f).mem = s.mem := rfl
@[simp] theorem State.modStrand_poison (c i : Nat) (f : Strand → Strand) : (s.modStrand c i f).poison = s.poison := rfl
@[simp] theorem State.modStrand_soft (c i : Nat) (f : Strand → Strand) : (s.modStrand c i f).soft = s.soft := rfl
@[simp] theorem State.modStrand_hostMem (c i : Nat) (f : Strand → Strand) : (s.modStrand c i f).hostMem = s.hostMem := rfl
@[simp] theorem State.modStrand_gmem (c i : Nat) (f : Strand → Strand) : (s.modStrand c i f).gmem = s.gmem := rfl
@[simp] theorem State.modStrand_gpow (c i : Nat) (f : Strand → Strand) : (s.modStrand c i f).gpow = s.gpow := rfl
@[simp] theorem State.modStrand_caches (c i : Nat) (f : Strand → Strand) : (s.modStrand c i f).caches = s.caches := rfl
@[simp] theorem State.modStrand_sharers (c i : Nat) (f : Strand → Strand) : (s.modStrand c i f).sharers = s.sharers := rfl
@[simp] theorem State.modStrand_lost (c i : Nat) (f : Strand → Strand) : (s.modStrand c i f).lost = s.lost := rfl
@[simp] theorem State.modStrand_queues (c i : Nat) (f : Strand → Strand) : (s.modStrand c i f).queues = s.queues := rfl
@[simp] theorem State.modStrand_fetchRR (c i : Nat) (f : Strand → Strand) : (s.modStrand c i f).fetchRR = s.fetchRR := rfl
@[simp] theorem State.modStrand_outstanding (c i : Nat) (f : Strand → Strand) : (s.modStrand c i f).outstanding = s.outstanding := rfl
@[simp] theorem State.modStrand_outcomes (c i : Nat) (f : Strand → Strand) : (s.modStrand c i f).outcomes = s.outcomes := rfl
@[simp] theorem State.modStrand_jobs (c i : Nat) (f : Strand → Strand) : (s.modStrand c i f).jobs = s.jobs := rfl
@[simp] theorem State.modStrand_nextJob (c i : Nat) (f : Strand → Strand) : (s.modStrand c i f).nextJob = s.nextJob := rfl
@[simp] theorem State.modStrand_admitting (c i : Nat) (f : Strand → Strand) : (s.modStrand c i f).admitting = s.admitting := rfl
@[simp] theorem State.modStrand_hellos (c i : Nat) (f : Strand → Strand) : (s.modStrand c i f).hellos = s.hellos := rfl
@[simp] theorem State.modStrand_tensors (c i : Nat) (f : Strand → Strand) : (s.modStrand c i f).tensors = s.tensors := rfl
@[simp] theorem State.modStrand_groups (c i : Nat) (f : Strand → Strand) : (s.modStrand c i f).groups = s.groups := rfl
@[simp] theorem State.modStrand_plans (c i : Nat) (f : Strand → Strand) : (s.modStrand c i f).plans = s.plans := rfl
@[simp] theorem State.modStrand_batches (c i : Nat) (f : Strand → Strand) : (s.modStrand c i f).batches = s.batches := rfl
@[simp] theorem State.modStrand_progress (c i : Nat) (f : Strand → Strand) : (s.modStrand c i f).progress = s.progress := rfl
@[simp] theorem State.modStrand_halted (c i : Nat) (f : Strand → Strand) : (s.modStrand c i f).halted = s.halted := rfl
@[simp] theorem State.modStrand_contexts (c i : Nat) (f : Strand → Strand) : (s.modStrand c i f).contexts = s.contexts := rfl
@[simp] theorem State.modStrand_allocs (c i : Nat) (f : Strand → Strand) : (s.modStrand c i f).allocs = s.allocs := rfl
@[simp] theorem State.modStrand_retired (c i : Nat) (f : Strand → Strand) : (s.modStrand c i f).retired = s.retired := rfl
@[simp] theorem State.modStrand_withdrawn (c i : Nat) (f : Strand → Strand) : (s.modStrand c i f).withdrawn = s.withdrawn := rfl
@[simp] theorem State.modStrand_colls (c i : Nat) (f : Strand → Strand) : (s.modStrand c i f).colls = s.colls := rfl
@[simp] theorem State.modStrand_ports (c i : Nat) (f : Strand → Strand) : (s.modStrand c i f).ports = s.ports := rfl
@[simp] theorem State.modStrand_segments (c i : Nat) (f : Strand → Strand) : (s.modStrand c i f).segments = s.segments := rfl
@[simp] theorem State.modStrand_xfers (c i : Nat) (f : Strand → Strand) : (s.modStrand c i f).xfers = s.xfers := rfl
@[simp] theorem State.modStrand_nextXfer (c i : Nat) (f : Strand → Strand) : (s.modStrand c i f).nextXfer = s.nextXfer := rfl
@[simp] theorem State.modStrand_xferSources (c i : Nat) (f : Strand → Strand) : (s.modStrand c i f).xferSources = s.xferSources := rfl
@[simp] theorem State.modStrand_flows (c i : Nat) (f : Strand → Strand) : (s.modStrand c i f).flows = s.flows := rfl
@[simp] theorem State.modStrand_fine (c i : Nat) (f : Strand → Strand) : (s.modStrand c i f).fine = s.fine := rfl
@[simp] theorem State.modStrand_dieOffset (c i : Nat) (f : Strand → Strand) : (s.modStrand c i f).dieOffset = s.dieOffset := rfl
@[simp] theorem State.modStrand_refGood (c i : Nat) (f : Strand → Strand) : (s.modStrand c i f).refGood = s.refGood := rfl
@[simp] theorem State.modStrand_refFar (c i : Nat) (f : Strand → Strand) : (s.modStrand c i f).refFar = s.refFar := rfl
@[simp] theorem State.modStrand_slew (c i : Nat) (f : Strand → Strand) : (s.modStrand c i f).slew = s.slew := rfl
@[simp] theorem State.modStrand_slewTicks (c i : Nat) (f : Strand → Strand) : (s.modStrand c i f).slewTicks = s.slewTicks := rfl
@[simp] theorem State.modStrand_logs (c i : Nat) (f : Strand → Strand) : (s.modStrand c i f).logs = s.logs := rfl
@[simp] theorem State.modStrand_logSeq (c i : Nat) (f : Strand → Strand) : (s.modStrand c i f).logSeq = s.logSeq := rfl
@[simp] theorem State.modStrand_events (c i : Nat) (f : Strand → Strand) : (s.modStrand c i f).events = s.events := rfl
@[simp] theorem State.modStrand_recoveries (c i : Nat) (f : Strand → Strand) : (s.modStrand c i f).recoveries = s.recoveries := rfl
@[simp] theorem State.modStrand_failedLinks (c i : Nat) (f : Strand → Strand) : (s.modStrand c i f).failedLinks = s.failedLinks := rfl
@[simp] theorem State.modStrand_linkHolds (c i : Nat) (f : Strand → Strand) : (s.modStrand c i f).linkHolds = s.linkHolds := rfl
@[simp] theorem State.modStrand_junctionHolds (c i : Nat) (f : Strand → Strand) : (s.modStrand c i f).junctionHolds = s.junctionHolds := rfl
@[simp] theorem State.modStrand_probes (c i : Nat) (f : Strand → Strand) : (s.modStrand c i f).probes = s.probes := rfl
@[simp] theorem State.modStrand_mirrors (c i : Nat) (f : Strand → Strand) : (s.modStrand c i f).mirrors = s.mirrors := rfl
@[simp] theorem State.modStrand_portsFailedAt (c i : Nat) (f : Strand → Strand) : (s.modStrand c i f).portsFailedAt = s.portsFailedAt := rfl
@[simp] theorem State.modStrand_power (c i : Nat) (f : Strand → Strand) : (s.modStrand c i f).power = s.power := rfl
@[simp] theorem State.modStrand_nvMem (c i : Nat) (f : Strand → Strand) : (s.modStrand c i f).nvMem = s.nvMem := rfl
@[simp] theorem State.modStrand_nvQueue (c i : Nat) (f : Strand → Strand) : (s.modStrand c i f).nvQueue = s.nvQueue := rfl
@[simp] theorem State.modStrand_boot (c i : Nat) (f : Strand → Strand) : (s.modStrand c i f).boot = s.boot := rfl
@[simp] theorem State.modStrand_keys (c i : Nat) (f : Strand → Strand) : (s.modStrand c i f).keys = s.keys := rfl
@[simp] theorem State.modStrand_jtag (c i : Nat) (f : Strand → Strand) : (s.modStrand c i f).jtag = s.jtag := rfl
@[simp] theorem State.modStrand_pcie (c i : Nat) (f : Strand → Strand) : (s.modStrand c i f).pcie = s.pcie := rfl
@[simp] theorem State.modStrand_smbus (c i : Nat) (f : Strand → Strand) : (s.modStrand c i f).smbus = s.smbus := rfl
@[simp] theorem State.modStrand_alertLow (c i : Nat) (f : Strand → Strand) : (s.modStrand c i f).alertLow = s.alertLow := rfl
@[simp] theorem State.modStrand_thermTripLow (c i : Nat) (f : Strand → Strand) : (s.modStrand c i f).thermTripLow = s.thermTripLow := rfl
@[simp] theorem State.modStrand_mfgOpen (c i : Nat) (f : Strand → Strand) : (s.modStrand c i f).mfgOpen = s.mfgOpen := rfl
@[simp] theorem State.modStrand_keyInit (c i : Nat) (f : Strand → Strand) : (s.modStrand c i f).keyInit = s.keyInit := rfl
@[simp] theorem State.modStrand_fresh (c i : Nat) (f : Strand → Strand) : (s.modStrand c i f).fresh = s.fresh := rfl
@[simp] theorem State.modStrand_outbox (c i : Nat) (f : Strand → Strand) : (s.modStrand c i f).outbox = s.outbox := rfl
@[simp] theorem State.modStrand_pending (c i : Nat) (f : Strand → Strand) : (s.modStrand c i f).pending = s.pending := rfl

/-! ### `State.modBank` -/

@[simp] theorem State.modBank_regs (c b : Nat) (f : BankData → BankData) : (s.modBank c b f).regs = s.regs := rfl
@[simp] theorem State.modBank_mem (c b : Nat) (f : BankData → BankData) : (s.modBank c b f).mem = s.mem := rfl
@[simp] theorem State.modBank_poison (c b : Nat) (f : BankData → BankData) : (s.modBank c b f).poison = s.poison := rfl
@[simp] theorem State.modBank_soft (c b : Nat) (f : BankData → BankData) : (s.modBank c b f).soft = s.soft := rfl
@[simp] theorem State.modBank_hostMem (c b : Nat) (f : BankData → BankData) : (s.modBank c b f).hostMem = s.hostMem := rfl
@[simp] theorem State.modBank_gmem (c b : Nat) (f : BankData → BankData) : (s.modBank c b f).gmem = s.gmem := rfl
@[simp] theorem State.modBank_gpow (c b : Nat) (f : BankData → BankData) : (s.modBank c b f).gpow = s.gpow := rfl
@[simp] theorem State.modBank_caches (c b : Nat) (f : BankData → BankData) : (s.modBank c b f).caches = s.caches := rfl
@[simp] theorem State.modBank_sharers (c b : Nat) (f : BankData → BankData) : (s.modBank c b f).sharers = s.sharers := rfl
@[simp] theorem State.modBank_lost (c b : Nat) (f : BankData → BankData) : (s.modBank c b f).lost = s.lost := rfl
@[simp] theorem State.modBank_queues (c b : Nat) (f : BankData → BankData) : (s.modBank c b f).queues = s.queues := rfl
@[simp] theorem State.modBank_fetchRR (c b : Nat) (f : BankData → BankData) : (s.modBank c b f).fetchRR = s.fetchRR := rfl
@[simp] theorem State.modBank_outstanding (c b : Nat) (f : BankData → BankData) : (s.modBank c b f).outstanding = s.outstanding := rfl
@[simp] theorem State.modBank_outcomes (c b : Nat) (f : BankData → BankData) : (s.modBank c b f).outcomes = s.outcomes := rfl
@[simp] theorem State.modBank_jobs (c b : Nat) (f : BankData → BankData) : (s.modBank c b f).jobs = s.jobs := rfl
@[simp] theorem State.modBank_nextJob (c b : Nat) (f : BankData → BankData) : (s.modBank c b f).nextJob = s.nextJob := rfl
@[simp] theorem State.modBank_admitting (c b : Nat) (f : BankData → BankData) : (s.modBank c b f).admitting = s.admitting := rfl
@[simp] theorem State.modBank_hellos (c b : Nat) (f : BankData → BankData) : (s.modBank c b f).hellos = s.hellos := rfl
@[simp] theorem State.modBank_tensors (c b : Nat) (f : BankData → BankData) : (s.modBank c b f).tensors = s.tensors := rfl
@[simp] theorem State.modBank_groups (c b : Nat) (f : BankData → BankData) : (s.modBank c b f).groups = s.groups := rfl
@[simp] theorem State.modBank_plans (c b : Nat) (f : BankData → BankData) : (s.modBank c b f).plans = s.plans := rfl
@[simp] theorem State.modBank_batches (c b : Nat) (f : BankData → BankData) : (s.modBank c b f).batches = s.batches := rfl
@[simp] theorem State.modBank_progress (c b : Nat) (f : BankData → BankData) : (s.modBank c b f).progress = s.progress := rfl
@[simp] theorem State.modBank_halted (c b : Nat) (f : BankData → BankData) : (s.modBank c b f).halted = s.halted := rfl
@[simp] theorem State.modBank_contexts (c b : Nat) (f : BankData → BankData) : (s.modBank c b f).contexts = s.contexts := rfl
@[simp] theorem State.modBank_allocs (c b : Nat) (f : BankData → BankData) : (s.modBank c b f).allocs = s.allocs := rfl
@[simp] theorem State.modBank_retired (c b : Nat) (f : BankData → BankData) : (s.modBank c b f).retired = s.retired := rfl
@[simp] theorem State.modBank_withdrawn (c b : Nat) (f : BankData → BankData) : (s.modBank c b f).withdrawn = s.withdrawn := rfl
@[simp] theorem State.modBank_colls (c b : Nat) (f : BankData → BankData) : (s.modBank c b f).colls = s.colls := rfl
@[simp] theorem State.modBank_ports (c b : Nat) (f : BankData → BankData) : (s.modBank c b f).ports = s.ports := rfl
@[simp] theorem State.modBank_segments (c b : Nat) (f : BankData → BankData) : (s.modBank c b f).segments = s.segments := rfl
@[simp] theorem State.modBank_xfers (c b : Nat) (f : BankData → BankData) : (s.modBank c b f).xfers = s.xfers := rfl
@[simp] theorem State.modBank_nextXfer (c b : Nat) (f : BankData → BankData) : (s.modBank c b f).nextXfer = s.nextXfer := rfl
@[simp] theorem State.modBank_xferSources (c b : Nat) (f : BankData → BankData) : (s.modBank c b f).xferSources = s.xferSources := rfl
@[simp] theorem State.modBank_flows (c b : Nat) (f : BankData → BankData) : (s.modBank c b f).flows = s.flows := rfl
@[simp] theorem State.modBank_fine (c b : Nat) (f : BankData → BankData) : (s.modBank c b f).fine = s.fine := rfl
@[simp] theorem State.modBank_dieOffset (c b : Nat) (f : BankData → BankData) : (s.modBank c b f).dieOffset = s.dieOffset := rfl
@[simp] theorem State.modBank_refGood (c b : Nat) (f : BankData → BankData) : (s.modBank c b f).refGood = s.refGood := rfl
@[simp] theorem State.modBank_refFar (c b : Nat) (f : BankData → BankData) : (s.modBank c b f).refFar = s.refFar := rfl
@[simp] theorem State.modBank_slew (c b : Nat) (f : BankData → BankData) : (s.modBank c b f).slew = s.slew := rfl
@[simp] theorem State.modBank_slewTicks (c b : Nat) (f : BankData → BankData) : (s.modBank c b f).slewTicks = s.slewTicks := rfl
@[simp] theorem State.modBank_logs (c b : Nat) (f : BankData → BankData) : (s.modBank c b f).logs = s.logs := rfl
@[simp] theorem State.modBank_logSeq (c b : Nat) (f : BankData → BankData) : (s.modBank c b f).logSeq = s.logSeq := rfl
@[simp] theorem State.modBank_events (c b : Nat) (f : BankData → BankData) : (s.modBank c b f).events = s.events := rfl
@[simp] theorem State.modBank_recoveries (c b : Nat) (f : BankData → BankData) : (s.modBank c b f).recoveries = s.recoveries := rfl
@[simp] theorem State.modBank_failedLinks (c b : Nat) (f : BankData → BankData) : (s.modBank c b f).failedLinks = s.failedLinks := rfl
@[simp] theorem State.modBank_linkHolds (c b : Nat) (f : BankData → BankData) : (s.modBank c b f).linkHolds = s.linkHolds := rfl
@[simp] theorem State.modBank_junctionHolds (c b : Nat) (f : BankData → BankData) : (s.modBank c b f).junctionHolds = s.junctionHolds := rfl
@[simp] theorem State.modBank_probes (c b : Nat) (f : BankData → BankData) : (s.modBank c b f).probes = s.probes := rfl
@[simp] theorem State.modBank_mirrors (c b : Nat) (f : BankData → BankData) : (s.modBank c b f).mirrors = s.mirrors := rfl
@[simp] theorem State.modBank_portsFailedAt (c b : Nat) (f : BankData → BankData) : (s.modBank c b f).portsFailedAt = s.portsFailedAt := rfl
@[simp] theorem State.modBank_power (c b : Nat) (f : BankData → BankData) : (s.modBank c b f).power = s.power := rfl
@[simp] theorem State.modBank_nvMem (c b : Nat) (f : BankData → BankData) : (s.modBank c b f).nvMem = s.nvMem := rfl
@[simp] theorem State.modBank_nvQueue (c b : Nat) (f : BankData → BankData) : (s.modBank c b f).nvQueue = s.nvQueue := rfl
@[simp] theorem State.modBank_boot (c b : Nat) (f : BankData → BankData) : (s.modBank c b f).boot = s.boot := rfl
@[simp] theorem State.modBank_keys (c b : Nat) (f : BankData → BankData) : (s.modBank c b f).keys = s.keys := rfl
@[simp] theorem State.modBank_jtag (c b : Nat) (f : BankData → BankData) : (s.modBank c b f).jtag = s.jtag := rfl
@[simp] theorem State.modBank_pcie (c b : Nat) (f : BankData → BankData) : (s.modBank c b f).pcie = s.pcie := rfl
@[simp] theorem State.modBank_smbus (c b : Nat) (f : BankData → BankData) : (s.modBank c b f).smbus = s.smbus := rfl
@[simp] theorem State.modBank_alertLow (c b : Nat) (f : BankData → BankData) : (s.modBank c b f).alertLow = s.alertLow := rfl
@[simp] theorem State.modBank_thermTripLow (c b : Nat) (f : BankData → BankData) : (s.modBank c b f).thermTripLow = s.thermTripLow := rfl
@[simp] theorem State.modBank_mfgOpen (c b : Nat) (f : BankData → BankData) : (s.modBank c b f).mfgOpen = s.mfgOpen := rfl
@[simp] theorem State.modBank_keyInit (c b : Nat) (f : BankData → BankData) : (s.modBank c b f).keyInit = s.keyInit := rfl
@[simp] theorem State.modBank_fresh (c b : Nat) (f : BankData → BankData) : (s.modBank c b f).fresh = s.fresh := rfl
@[simp] theorem State.modBank_outbox (c b : Nat) (f : BankData → BankData) : (s.modBank c b f).outbox = s.outbox := rfl
@[simp] theorem State.modBank_pending (c b : Nat) (f : BankData → BankData) : (s.modBank c b f).pending = s.pending := rfl

/-! ### `State.write` -/

@[simp] theorem State.write_regs (a : Nat) (bs : List Byte) : (s.write a bs).regs = s.regs := rfl
@[simp] theorem State.write_soft (a : Nat) (bs : List Byte) : (s.write a bs).soft = s.soft := rfl
@[simp] theorem State.write_hostMem (a : Nat) (bs : List Byte) : (s.write a bs).hostMem = s.hostMem := rfl
@[simp] theorem State.write_chambers (a : Nat) (bs : List Byte) : (s.write a bs).chambers = s.chambers := rfl
@[simp] theorem State.write_gmem (a : Nat) (bs : List Byte) : (s.write a bs).gmem = s.gmem := rfl
@[simp] theorem State.write_gpow (a : Nat) (bs : List Byte) : (s.write a bs).gpow = s.gpow := rfl
@[simp] theorem State.write_caches (a : Nat) (bs : List Byte) : (s.write a bs).caches = s.caches := rfl
@[simp] theorem State.write_sharers (a : Nat) (bs : List Byte) : (s.write a bs).sharers = s.sharers := rfl
@[simp] theorem State.write_lost (a : Nat) (bs : List Byte) : (s.write a bs).lost = s.lost := rfl
@[simp] theorem State.write_queues (a : Nat) (bs : List Byte) : (s.write a bs).queues = s.queues := rfl
@[simp] theorem State.write_fetchRR (a : Nat) (bs : List Byte) : (s.write a bs).fetchRR = s.fetchRR := rfl
@[simp] theorem State.write_outstanding (a : Nat) (bs : List Byte) : (s.write a bs).outstanding = s.outstanding := rfl
@[simp] theorem State.write_outcomes (a : Nat) (bs : List Byte) : (s.write a bs).outcomes = s.outcomes := rfl
@[simp] theorem State.write_jobs (a : Nat) (bs : List Byte) : (s.write a bs).jobs = s.jobs := rfl
@[simp] theorem State.write_nextJob (a : Nat) (bs : List Byte) : (s.write a bs).nextJob = s.nextJob := rfl
@[simp] theorem State.write_admitting (a : Nat) (bs : List Byte) : (s.write a bs).admitting = s.admitting := rfl
@[simp] theorem State.write_hellos (a : Nat) (bs : List Byte) : (s.write a bs).hellos = s.hellos := rfl
@[simp] theorem State.write_tensors (a : Nat) (bs : List Byte) : (s.write a bs).tensors = s.tensors := rfl
@[simp] theorem State.write_groups (a : Nat) (bs : List Byte) : (s.write a bs).groups = s.groups := rfl
@[simp] theorem State.write_plans (a : Nat) (bs : List Byte) : (s.write a bs).plans = s.plans := rfl
@[simp] theorem State.write_batches (a : Nat) (bs : List Byte) : (s.write a bs).batches = s.batches := rfl
@[simp] theorem State.write_progress (a : Nat) (bs : List Byte) : (s.write a bs).progress = s.progress := rfl
@[simp] theorem State.write_halted (a : Nat) (bs : List Byte) : (s.write a bs).halted = s.halted := rfl
@[simp] theorem State.write_contexts (a : Nat) (bs : List Byte) : (s.write a bs).contexts = s.contexts := rfl
@[simp] theorem State.write_allocs (a : Nat) (bs : List Byte) : (s.write a bs).allocs = s.allocs := rfl
@[simp] theorem State.write_retired (a : Nat) (bs : List Byte) : (s.write a bs).retired = s.retired := rfl
@[simp] theorem State.write_withdrawn (a : Nat) (bs : List Byte) : (s.write a bs).withdrawn = s.withdrawn := rfl
@[simp] theorem State.write_colls (a : Nat) (bs : List Byte) : (s.write a bs).colls = s.colls := rfl
@[simp] theorem State.write_ports (a : Nat) (bs : List Byte) : (s.write a bs).ports = s.ports := rfl
@[simp] theorem State.write_segments (a : Nat) (bs : List Byte) : (s.write a bs).segments = s.segments := rfl
@[simp] theorem State.write_xfers (a : Nat) (bs : List Byte) : (s.write a bs).xfers = s.xfers := rfl
@[simp] theorem State.write_nextXfer (a : Nat) (bs : List Byte) : (s.write a bs).nextXfer = s.nextXfer := rfl
@[simp] theorem State.write_flows (a : Nat) (bs : List Byte) : (s.write a bs).flows = s.flows := rfl
@[simp] theorem State.write_fine (a : Nat) (bs : List Byte) : (s.write a bs).fine = s.fine := rfl
@[simp] theorem State.write_dieOffset (a : Nat) (bs : List Byte) : (s.write a bs).dieOffset = s.dieOffset := rfl
@[simp] theorem State.write_refGood (a : Nat) (bs : List Byte) : (s.write a bs).refGood = s.refGood := rfl
@[simp] theorem State.write_refFar (a : Nat) (bs : List Byte) : (s.write a bs).refFar = s.refFar := rfl
@[simp] theorem State.write_slew (a : Nat) (bs : List Byte) : (s.write a bs).slew = s.slew := rfl
@[simp] theorem State.write_slewTicks (a : Nat) (bs : List Byte) : (s.write a bs).slewTicks = s.slewTicks := rfl
@[simp] theorem State.write_logs (a : Nat) (bs : List Byte) : (s.write a bs).logs = s.logs := rfl
@[simp] theorem State.write_logSeq (a : Nat) (bs : List Byte) : (s.write a bs).logSeq = s.logSeq := rfl
@[simp] theorem State.write_events (a : Nat) (bs : List Byte) : (s.write a bs).events = s.events := rfl
@[simp] theorem State.write_recoveries (a : Nat) (bs : List Byte) : (s.write a bs).recoveries = s.recoveries := rfl
@[simp] theorem State.write_failedLinks (a : Nat) (bs : List Byte) : (s.write a bs).failedLinks = s.failedLinks := rfl
@[simp] theorem State.write_linkHolds (a : Nat) (bs : List Byte) : (s.write a bs).linkHolds = s.linkHolds := rfl
@[simp] theorem State.write_junctionHolds (a : Nat) (bs : List Byte) : (s.write a bs).junctionHolds = s.junctionHolds := rfl
@[simp] theorem State.write_probes (a : Nat) (bs : List Byte) : (s.write a bs).probes = s.probes := rfl
@[simp] theorem State.write_mirrors (a : Nat) (bs : List Byte) : (s.write a bs).mirrors = s.mirrors := rfl
@[simp] theorem State.write_portsFailedAt (a : Nat) (bs : List Byte) : (s.write a bs).portsFailedAt = s.portsFailedAt := rfl
@[simp] theorem State.write_power (a : Nat) (bs : List Byte) : (s.write a bs).power = s.power := rfl
@[simp] theorem State.write_nvMem (a : Nat) (bs : List Byte) : (s.write a bs).nvMem = s.nvMem := rfl
@[simp] theorem State.write_nvQueue (a : Nat) (bs : List Byte) : (s.write a bs).nvQueue = s.nvQueue := rfl
@[simp] theorem State.write_boot (a : Nat) (bs : List Byte) : (s.write a bs).boot = s.boot := rfl
@[simp] theorem State.write_keys (a : Nat) (bs : List Byte) : (s.write a bs).keys = s.keys := rfl
@[simp] theorem State.write_jtag (a : Nat) (bs : List Byte) : (s.write a bs).jtag = s.jtag := rfl
@[simp] theorem State.write_pcie (a : Nat) (bs : List Byte) : (s.write a bs).pcie = s.pcie := rfl
@[simp] theorem State.write_smbus (a : Nat) (bs : List Byte) : (s.write a bs).smbus = s.smbus := rfl
@[simp] theorem State.write_alertLow (a : Nat) (bs : List Byte) : (s.write a bs).alertLow = s.alertLow := rfl
@[simp] theorem State.write_thermTripLow (a : Nat) (bs : List Byte) : (s.write a bs).thermTripLow = s.thermTripLow := rfl
@[simp] theorem State.write_mfgOpen (a : Nat) (bs : List Byte) : (s.write a bs).mfgOpen = s.mfgOpen := rfl
@[simp] theorem State.write_keyInit (a : Nat) (bs : List Byte) : (s.write a bs).keyInit = s.keyInit := rfl
@[simp] theorem State.write_fresh (a : Nat) (bs : List Byte) : (s.write a bs).fresh = s.fresh := rfl
@[simp] theorem State.write_outbox (a : Nat) (bs : List Byte) : (s.write a bs).outbox = s.outbox := rfl
@[simp] theorem State.write_pending (a : Nat) (bs : List Byte) : (s.write a bs).pending = s.pending := rfl

/-! ### `State.markPoison` -/

@[simp] theorem State.markPoison_regs (a n : Nat) : (s.markPoison a n).regs = s.regs := rfl
@[simp] theorem State.markPoison_mem (a n : Nat) : (s.markPoison a n).mem = s.mem := rfl
@[simp] theorem State.markPoison_soft (a n : Nat) : (s.markPoison a n).soft = s.soft := rfl
@[simp] theorem State.markPoison_hostMem (a n : Nat) : (s.markPoison a n).hostMem = s.hostMem := rfl
@[simp] theorem State.markPoison_chambers (a n : Nat) : (s.markPoison a n).chambers = s.chambers := rfl
@[simp] theorem State.markPoison_gmem (a n : Nat) : (s.markPoison a n).gmem = s.gmem := rfl
@[simp] theorem State.markPoison_gpow (a n : Nat) : (s.markPoison a n).gpow = s.gpow := rfl
@[simp] theorem State.markPoison_caches (a n : Nat) : (s.markPoison a n).caches = s.caches := rfl
@[simp] theorem State.markPoison_sharers (a n : Nat) : (s.markPoison a n).sharers = s.sharers := rfl
@[simp] theorem State.markPoison_lost (a n : Nat) : (s.markPoison a n).lost = s.lost := rfl
@[simp] theorem State.markPoison_queues (a n : Nat) : (s.markPoison a n).queues = s.queues := rfl
@[simp] theorem State.markPoison_fetchRR (a n : Nat) : (s.markPoison a n).fetchRR = s.fetchRR := rfl
@[simp] theorem State.markPoison_outstanding (a n : Nat) : (s.markPoison a n).outstanding = s.outstanding := rfl
@[simp] theorem State.markPoison_outcomes (a n : Nat) : (s.markPoison a n).outcomes = s.outcomes := rfl
@[simp] theorem State.markPoison_jobs (a n : Nat) : (s.markPoison a n).jobs = s.jobs := rfl
@[simp] theorem State.markPoison_nextJob (a n : Nat) : (s.markPoison a n).nextJob = s.nextJob := rfl
@[simp] theorem State.markPoison_admitting (a n : Nat) : (s.markPoison a n).admitting = s.admitting := rfl
@[simp] theorem State.markPoison_hellos (a n : Nat) : (s.markPoison a n).hellos = s.hellos := rfl
@[simp] theorem State.markPoison_tensors (a n : Nat) : (s.markPoison a n).tensors = s.tensors := rfl
@[simp] theorem State.markPoison_groups (a n : Nat) : (s.markPoison a n).groups = s.groups := rfl
@[simp] theorem State.markPoison_plans (a n : Nat) : (s.markPoison a n).plans = s.plans := rfl
@[simp] theorem State.markPoison_batches (a n : Nat) : (s.markPoison a n).batches = s.batches := rfl
@[simp] theorem State.markPoison_progress (a n : Nat) : (s.markPoison a n).progress = s.progress := rfl
@[simp] theorem State.markPoison_halted (a n : Nat) : (s.markPoison a n).halted = s.halted := rfl
@[simp] theorem State.markPoison_contexts (a n : Nat) : (s.markPoison a n).contexts = s.contexts := rfl
@[simp] theorem State.markPoison_allocs (a n : Nat) : (s.markPoison a n).allocs = s.allocs := rfl
@[simp] theorem State.markPoison_retired (a n : Nat) : (s.markPoison a n).retired = s.retired := rfl
@[simp] theorem State.markPoison_withdrawn (a n : Nat) : (s.markPoison a n).withdrawn = s.withdrawn := rfl
@[simp] theorem State.markPoison_colls (a n : Nat) : (s.markPoison a n).colls = s.colls := rfl
@[simp] theorem State.markPoison_ports (a n : Nat) : (s.markPoison a n).ports = s.ports := rfl
@[simp] theorem State.markPoison_segments (a n : Nat) : (s.markPoison a n).segments = s.segments := rfl
@[simp] theorem State.markPoison_xfers (a n : Nat) : (s.markPoison a n).xfers = s.xfers := rfl
@[simp] theorem State.markPoison_nextXfer (a n : Nat) : (s.markPoison a n).nextXfer = s.nextXfer := rfl
@[simp] theorem State.markPoison_xferSources (a n : Nat) : (s.markPoison a n).xferSources = s.xferSources := rfl
@[simp] theorem State.markPoison_flows (a n : Nat) : (s.markPoison a n).flows = s.flows := rfl
@[simp] theorem State.markPoison_fine (a n : Nat) : (s.markPoison a n).fine = s.fine := rfl
@[simp] theorem State.markPoison_dieOffset (a n : Nat) : (s.markPoison a n).dieOffset = s.dieOffset := rfl
@[simp] theorem State.markPoison_refGood (a n : Nat) : (s.markPoison a n).refGood = s.refGood := rfl
@[simp] theorem State.markPoison_refFar (a n : Nat) : (s.markPoison a n).refFar = s.refFar := rfl
@[simp] theorem State.markPoison_slew (a n : Nat) : (s.markPoison a n).slew = s.slew := rfl
@[simp] theorem State.markPoison_slewTicks (a n : Nat) : (s.markPoison a n).slewTicks = s.slewTicks := rfl
@[simp] theorem State.markPoison_logs (a n : Nat) : (s.markPoison a n).logs = s.logs := rfl
@[simp] theorem State.markPoison_logSeq (a n : Nat) : (s.markPoison a n).logSeq = s.logSeq := rfl
@[simp] theorem State.markPoison_events (a n : Nat) : (s.markPoison a n).events = s.events := rfl
@[simp] theorem State.markPoison_recoveries (a n : Nat) : (s.markPoison a n).recoveries = s.recoveries := rfl
@[simp] theorem State.markPoison_failedLinks (a n : Nat) : (s.markPoison a n).failedLinks = s.failedLinks := rfl
@[simp] theorem State.markPoison_linkHolds (a n : Nat) : (s.markPoison a n).linkHolds = s.linkHolds := rfl
@[simp] theorem State.markPoison_junctionHolds (a n : Nat) : (s.markPoison a n).junctionHolds = s.junctionHolds := rfl
@[simp] theorem State.markPoison_probes (a n : Nat) : (s.markPoison a n).probes = s.probes := rfl
@[simp] theorem State.markPoison_mirrors (a n : Nat) : (s.markPoison a n).mirrors = s.mirrors := rfl
@[simp] theorem State.markPoison_portsFailedAt (a n : Nat) : (s.markPoison a n).portsFailedAt = s.portsFailedAt := rfl
@[simp] theorem State.markPoison_power (a n : Nat) : (s.markPoison a n).power = s.power := rfl
@[simp] theorem State.markPoison_nvMem (a n : Nat) : (s.markPoison a n).nvMem = s.nvMem := rfl
@[simp] theorem State.markPoison_nvQueue (a n : Nat) : (s.markPoison a n).nvQueue = s.nvQueue := rfl
@[simp] theorem State.markPoison_boot (a n : Nat) : (s.markPoison a n).boot = s.boot := rfl
@[simp] theorem State.markPoison_keys (a n : Nat) : (s.markPoison a n).keys = s.keys := rfl
@[simp] theorem State.markPoison_jtag (a n : Nat) : (s.markPoison a n).jtag = s.jtag := rfl
@[simp] theorem State.markPoison_pcie (a n : Nat) : (s.markPoison a n).pcie = s.pcie := rfl
@[simp] theorem State.markPoison_smbus (a n : Nat) : (s.markPoison a n).smbus = s.smbus := rfl
@[simp] theorem State.markPoison_alertLow (a n : Nat) : (s.markPoison a n).alertLow = s.alertLow := rfl
@[simp] theorem State.markPoison_thermTripLow (a n : Nat) : (s.markPoison a n).thermTripLow = s.thermTripLow := rfl
@[simp] theorem State.markPoison_mfgOpen (a n : Nat) : (s.markPoison a n).mfgOpen = s.mfgOpen := rfl
@[simp] theorem State.markPoison_keyInit (a n : Nat) : (s.markPoison a n).keyInit = s.keyInit := rfl
@[simp] theorem State.markPoison_fresh (a n : Nat) : (s.markPoison a n).fresh = s.fresh := rfl
@[simp] theorem State.markPoison_outbox (a n : Nat) : (s.markPoison a n).outbox = s.outbox := rfl
@[simp] theorem State.markPoison_pending (a n : Nat) : (s.markPoison a n).pending = s.pending := rfl

/-! ### `State.hostWrite` -/

@[simp] theorem State.hostWrite_regs (a : Nat) (bs : List Byte) : (s.hostWrite a bs).regs = s.regs := rfl
@[simp] theorem State.hostWrite_mem (a : Nat) (bs : List Byte) : (s.hostWrite a bs).mem = s.mem := rfl
@[simp] theorem State.hostWrite_poison (a : Nat) (bs : List Byte) : (s.hostWrite a bs).poison = s.poison := rfl
@[simp] theorem State.hostWrite_soft (a : Nat) (bs : List Byte) : (s.hostWrite a bs).soft = s.soft := rfl
@[simp] theorem State.hostWrite_chambers (a : Nat) (bs : List Byte) : (s.hostWrite a bs).chambers = s.chambers := rfl
@[simp] theorem State.hostWrite_gmem (a : Nat) (bs : List Byte) : (s.hostWrite a bs).gmem = s.gmem := rfl
@[simp] theorem State.hostWrite_gpow (a : Nat) (bs : List Byte) : (s.hostWrite a bs).gpow = s.gpow := rfl
@[simp] theorem State.hostWrite_caches (a : Nat) (bs : List Byte) : (s.hostWrite a bs).caches = s.caches := rfl
@[simp] theorem State.hostWrite_sharers (a : Nat) (bs : List Byte) : (s.hostWrite a bs).sharers = s.sharers := rfl
@[simp] theorem State.hostWrite_lost (a : Nat) (bs : List Byte) : (s.hostWrite a bs).lost = s.lost := rfl
@[simp] theorem State.hostWrite_queues (a : Nat) (bs : List Byte) : (s.hostWrite a bs).queues = s.queues := rfl
@[simp] theorem State.hostWrite_fetchRR (a : Nat) (bs : List Byte) : (s.hostWrite a bs).fetchRR = s.fetchRR := rfl
@[simp] theorem State.hostWrite_outstanding (a : Nat) (bs : List Byte) : (s.hostWrite a bs).outstanding = s.outstanding := rfl
@[simp] theorem State.hostWrite_outcomes (a : Nat) (bs : List Byte) : (s.hostWrite a bs).outcomes = s.outcomes := rfl
@[simp] theorem State.hostWrite_jobs (a : Nat) (bs : List Byte) : (s.hostWrite a bs).jobs = s.jobs := rfl
@[simp] theorem State.hostWrite_nextJob (a : Nat) (bs : List Byte) : (s.hostWrite a bs).nextJob = s.nextJob := rfl
@[simp] theorem State.hostWrite_admitting (a : Nat) (bs : List Byte) : (s.hostWrite a bs).admitting = s.admitting := rfl
@[simp] theorem State.hostWrite_hellos (a : Nat) (bs : List Byte) : (s.hostWrite a bs).hellos = s.hellos := rfl
@[simp] theorem State.hostWrite_tensors (a : Nat) (bs : List Byte) : (s.hostWrite a bs).tensors = s.tensors := rfl
@[simp] theorem State.hostWrite_groups (a : Nat) (bs : List Byte) : (s.hostWrite a bs).groups = s.groups := rfl
@[simp] theorem State.hostWrite_plans (a : Nat) (bs : List Byte) : (s.hostWrite a bs).plans = s.plans := rfl
@[simp] theorem State.hostWrite_batches (a : Nat) (bs : List Byte) : (s.hostWrite a bs).batches = s.batches := rfl
@[simp] theorem State.hostWrite_progress (a : Nat) (bs : List Byte) : (s.hostWrite a bs).progress = s.progress := rfl
@[simp] theorem State.hostWrite_halted (a : Nat) (bs : List Byte) : (s.hostWrite a bs).halted = s.halted := rfl
@[simp] theorem State.hostWrite_contexts (a : Nat) (bs : List Byte) : (s.hostWrite a bs).contexts = s.contexts := rfl
@[simp] theorem State.hostWrite_allocs (a : Nat) (bs : List Byte) : (s.hostWrite a bs).allocs = s.allocs := rfl
@[simp] theorem State.hostWrite_retired (a : Nat) (bs : List Byte) : (s.hostWrite a bs).retired = s.retired := rfl
@[simp] theorem State.hostWrite_withdrawn (a : Nat) (bs : List Byte) : (s.hostWrite a bs).withdrawn = s.withdrawn := rfl
@[simp] theorem State.hostWrite_colls (a : Nat) (bs : List Byte) : (s.hostWrite a bs).colls = s.colls := rfl
@[simp] theorem State.hostWrite_ports (a : Nat) (bs : List Byte) : (s.hostWrite a bs).ports = s.ports := rfl
@[simp] theorem State.hostWrite_segments (a : Nat) (bs : List Byte) : (s.hostWrite a bs).segments = s.segments := rfl
@[simp] theorem State.hostWrite_xfers (a : Nat) (bs : List Byte) : (s.hostWrite a bs).xfers = s.xfers := rfl
@[simp] theorem State.hostWrite_nextXfer (a : Nat) (bs : List Byte) : (s.hostWrite a bs).nextXfer = s.nextXfer := rfl
@[simp] theorem State.hostWrite_xferSources (a : Nat) (bs : List Byte) : (s.hostWrite a bs).xferSources = s.xferSources := rfl
@[simp] theorem State.hostWrite_flows (a : Nat) (bs : List Byte) : (s.hostWrite a bs).flows = s.flows := rfl
@[simp] theorem State.hostWrite_fine (a : Nat) (bs : List Byte) : (s.hostWrite a bs).fine = s.fine := rfl
@[simp] theorem State.hostWrite_dieOffset (a : Nat) (bs : List Byte) : (s.hostWrite a bs).dieOffset = s.dieOffset := rfl
@[simp] theorem State.hostWrite_refGood (a : Nat) (bs : List Byte) : (s.hostWrite a bs).refGood = s.refGood := rfl
@[simp] theorem State.hostWrite_refFar (a : Nat) (bs : List Byte) : (s.hostWrite a bs).refFar = s.refFar := rfl
@[simp] theorem State.hostWrite_slew (a : Nat) (bs : List Byte) : (s.hostWrite a bs).slew = s.slew := rfl
@[simp] theorem State.hostWrite_slewTicks (a : Nat) (bs : List Byte) : (s.hostWrite a bs).slewTicks = s.slewTicks := rfl
@[simp] theorem State.hostWrite_logs (a : Nat) (bs : List Byte) : (s.hostWrite a bs).logs = s.logs := rfl
@[simp] theorem State.hostWrite_logSeq (a : Nat) (bs : List Byte) : (s.hostWrite a bs).logSeq = s.logSeq := rfl
@[simp] theorem State.hostWrite_events (a : Nat) (bs : List Byte) : (s.hostWrite a bs).events = s.events := rfl
@[simp] theorem State.hostWrite_recoveries (a : Nat) (bs : List Byte) : (s.hostWrite a bs).recoveries = s.recoveries := rfl
@[simp] theorem State.hostWrite_failedLinks (a : Nat) (bs : List Byte) : (s.hostWrite a bs).failedLinks = s.failedLinks := rfl
@[simp] theorem State.hostWrite_linkHolds (a : Nat) (bs : List Byte) : (s.hostWrite a bs).linkHolds = s.linkHolds := rfl
@[simp] theorem State.hostWrite_junctionHolds (a : Nat) (bs : List Byte) : (s.hostWrite a bs).junctionHolds = s.junctionHolds := rfl
@[simp] theorem State.hostWrite_probes (a : Nat) (bs : List Byte) : (s.hostWrite a bs).probes = s.probes := rfl
@[simp] theorem State.hostWrite_mirrors (a : Nat) (bs : List Byte) : (s.hostWrite a bs).mirrors = s.mirrors := rfl
@[simp] theorem State.hostWrite_portsFailedAt (a : Nat) (bs : List Byte) : (s.hostWrite a bs).portsFailedAt = s.portsFailedAt := rfl
@[simp] theorem State.hostWrite_power (a : Nat) (bs : List Byte) : (s.hostWrite a bs).power = s.power := rfl
@[simp] theorem State.hostWrite_nvMem (a : Nat) (bs : List Byte) : (s.hostWrite a bs).nvMem = s.nvMem := rfl
@[simp] theorem State.hostWrite_nvQueue (a : Nat) (bs : List Byte) : (s.hostWrite a bs).nvQueue = s.nvQueue := rfl
@[simp] theorem State.hostWrite_boot (a : Nat) (bs : List Byte) : (s.hostWrite a bs).boot = s.boot := rfl
@[simp] theorem State.hostWrite_keys (a : Nat) (bs : List Byte) : (s.hostWrite a bs).keys = s.keys := rfl
@[simp] theorem State.hostWrite_jtag (a : Nat) (bs : List Byte) : (s.hostWrite a bs).jtag = s.jtag := rfl
@[simp] theorem State.hostWrite_pcie (a : Nat) (bs : List Byte) : (s.hostWrite a bs).pcie = s.pcie := rfl
@[simp] theorem State.hostWrite_smbus (a : Nat) (bs : List Byte) : (s.hostWrite a bs).smbus = s.smbus := rfl
@[simp] theorem State.hostWrite_alertLow (a : Nat) (bs : List Byte) : (s.hostWrite a bs).alertLow = s.alertLow := rfl
@[simp] theorem State.hostWrite_thermTripLow (a : Nat) (bs : List Byte) : (s.hostWrite a bs).thermTripLow = s.thermTripLow := rfl
@[simp] theorem State.hostWrite_mfgOpen (a : Nat) (bs : List Byte) : (s.hostWrite a bs).mfgOpen = s.mfgOpen := rfl
@[simp] theorem State.hostWrite_keyInit (a : Nat) (bs : List Byte) : (s.hostWrite a bs).keyInit = s.keyInit := rfl
@[simp] theorem State.hostWrite_fresh (a : Nat) (bs : List Byte) : (s.hostWrite a bs).fresh = s.fresh := rfl
@[simp] theorem State.hostWrite_outbox (a : Nat) (bs : List Byte) : (s.hostWrite a bs).outbox = s.outbox := rfl
@[simp] theorem State.hostWrite_pending (a : Nat) (bs : List Byte) : (s.hostWrite a bs).pending = s.pending := rfl

/-! ### `State.modGallery` -/

@[simp] theorem State.modGallery_regs (g : Nat) (f : GalleryMem → GalleryMem) : (s.modGallery g f).regs = s.regs := rfl
@[simp] theorem State.modGallery_mem (g : Nat) (f : GalleryMem → GalleryMem) : (s.modGallery g f).mem = s.mem := rfl
@[simp] theorem State.modGallery_poison (g : Nat) (f : GalleryMem → GalleryMem) : (s.modGallery g f).poison = s.poison := rfl
@[simp] theorem State.modGallery_soft (g : Nat) (f : GalleryMem → GalleryMem) : (s.modGallery g f).soft = s.soft := rfl
@[simp] theorem State.modGallery_hostMem (g : Nat) (f : GalleryMem → GalleryMem) : (s.modGallery g f).hostMem = s.hostMem := rfl
@[simp] theorem State.modGallery_chambers (g : Nat) (f : GalleryMem → GalleryMem) : (s.modGallery g f).chambers = s.chambers := rfl
@[simp] theorem State.modGallery_gpow (g : Nat) (f : GalleryMem → GalleryMem) : (s.modGallery g f).gpow = s.gpow := rfl
@[simp] theorem State.modGallery_caches (g : Nat) (f : GalleryMem → GalleryMem) : (s.modGallery g f).caches = s.caches := rfl
@[simp] theorem State.modGallery_sharers (g : Nat) (f : GalleryMem → GalleryMem) : (s.modGallery g f).sharers = s.sharers := rfl
@[simp] theorem State.modGallery_lost (g : Nat) (f : GalleryMem → GalleryMem) : (s.modGallery g f).lost = s.lost := rfl
@[simp] theorem State.modGallery_queues (g : Nat) (f : GalleryMem → GalleryMem) : (s.modGallery g f).queues = s.queues := rfl
@[simp] theorem State.modGallery_fetchRR (g : Nat) (f : GalleryMem → GalleryMem) : (s.modGallery g f).fetchRR = s.fetchRR := rfl
@[simp] theorem State.modGallery_outstanding (g : Nat) (f : GalleryMem → GalleryMem) : (s.modGallery g f).outstanding = s.outstanding := rfl
@[simp] theorem State.modGallery_outcomes (g : Nat) (f : GalleryMem → GalleryMem) : (s.modGallery g f).outcomes = s.outcomes := rfl
@[simp] theorem State.modGallery_jobs (g : Nat) (f : GalleryMem → GalleryMem) : (s.modGallery g f).jobs = s.jobs := rfl
@[simp] theorem State.modGallery_nextJob (g : Nat) (f : GalleryMem → GalleryMem) : (s.modGallery g f).nextJob = s.nextJob := rfl
@[simp] theorem State.modGallery_admitting (g : Nat) (f : GalleryMem → GalleryMem) : (s.modGallery g f).admitting = s.admitting := rfl
@[simp] theorem State.modGallery_hellos (g : Nat) (f : GalleryMem → GalleryMem) : (s.modGallery g f).hellos = s.hellos := rfl
@[simp] theorem State.modGallery_tensors (g : Nat) (f : GalleryMem → GalleryMem) : (s.modGallery g f).tensors = s.tensors := rfl
@[simp] theorem State.modGallery_groups (g : Nat) (f : GalleryMem → GalleryMem) : (s.modGallery g f).groups = s.groups := rfl
@[simp] theorem State.modGallery_plans (g : Nat) (f : GalleryMem → GalleryMem) : (s.modGallery g f).plans = s.plans := rfl
@[simp] theorem State.modGallery_batches (g : Nat) (f : GalleryMem → GalleryMem) : (s.modGallery g f).batches = s.batches := rfl
@[simp] theorem State.modGallery_progress (g : Nat) (f : GalleryMem → GalleryMem) : (s.modGallery g f).progress = s.progress := rfl
@[simp] theorem State.modGallery_halted (g : Nat) (f : GalleryMem → GalleryMem) : (s.modGallery g f).halted = s.halted := rfl
@[simp] theorem State.modGallery_contexts (g : Nat) (f : GalleryMem → GalleryMem) : (s.modGallery g f).contexts = s.contexts := rfl
@[simp] theorem State.modGallery_allocs (g : Nat) (f : GalleryMem → GalleryMem) : (s.modGallery g f).allocs = s.allocs := rfl
@[simp] theorem State.modGallery_retired (g : Nat) (f : GalleryMem → GalleryMem) : (s.modGallery g f).retired = s.retired := rfl
@[simp] theorem State.modGallery_withdrawn (g : Nat) (f : GalleryMem → GalleryMem) : (s.modGallery g f).withdrawn = s.withdrawn := rfl
@[simp] theorem State.modGallery_colls (g : Nat) (f : GalleryMem → GalleryMem) : (s.modGallery g f).colls = s.colls := rfl
@[simp] theorem State.modGallery_ports (g : Nat) (f : GalleryMem → GalleryMem) : (s.modGallery g f).ports = s.ports := rfl
@[simp] theorem State.modGallery_segments (g : Nat) (f : GalleryMem → GalleryMem) : (s.modGallery g f).segments = s.segments := rfl
@[simp] theorem State.modGallery_xfers (g : Nat) (f : GalleryMem → GalleryMem) : (s.modGallery g f).xfers = s.xfers := rfl
@[simp] theorem State.modGallery_nextXfer (g : Nat) (f : GalleryMem → GalleryMem) : (s.modGallery g f).nextXfer = s.nextXfer := rfl
@[simp] theorem State.modGallery_xferSources (g : Nat) (f : GalleryMem → GalleryMem) : (s.modGallery g f).xferSources = s.xferSources := rfl
@[simp] theorem State.modGallery_flows (g : Nat) (f : GalleryMem → GalleryMem) : (s.modGallery g f).flows = s.flows := rfl
@[simp] theorem State.modGallery_fine (g : Nat) (f : GalleryMem → GalleryMem) : (s.modGallery g f).fine = s.fine := rfl
@[simp] theorem State.modGallery_dieOffset (g : Nat) (f : GalleryMem → GalleryMem) : (s.modGallery g f).dieOffset = s.dieOffset := rfl
@[simp] theorem State.modGallery_refGood (g : Nat) (f : GalleryMem → GalleryMem) : (s.modGallery g f).refGood = s.refGood := rfl
@[simp] theorem State.modGallery_refFar (g : Nat) (f : GalleryMem → GalleryMem) : (s.modGallery g f).refFar = s.refFar := rfl
@[simp] theorem State.modGallery_slew (g : Nat) (f : GalleryMem → GalleryMem) : (s.modGallery g f).slew = s.slew := rfl
@[simp] theorem State.modGallery_slewTicks (g : Nat) (f : GalleryMem → GalleryMem) : (s.modGallery g f).slewTicks = s.slewTicks := rfl
@[simp] theorem State.modGallery_logs (g : Nat) (f : GalleryMem → GalleryMem) : (s.modGallery g f).logs = s.logs := rfl
@[simp] theorem State.modGallery_logSeq (g : Nat) (f : GalleryMem → GalleryMem) : (s.modGallery g f).logSeq = s.logSeq := rfl
@[simp] theorem State.modGallery_events (g : Nat) (f : GalleryMem → GalleryMem) : (s.modGallery g f).events = s.events := rfl
@[simp] theorem State.modGallery_recoveries (g : Nat) (f : GalleryMem → GalleryMem) : (s.modGallery g f).recoveries = s.recoveries := rfl
@[simp] theorem State.modGallery_failedLinks (g : Nat) (f : GalleryMem → GalleryMem) : (s.modGallery g f).failedLinks = s.failedLinks := rfl
@[simp] theorem State.modGallery_linkHolds (g : Nat) (f : GalleryMem → GalleryMem) : (s.modGallery g f).linkHolds = s.linkHolds := rfl
@[simp] theorem State.modGallery_junctionHolds (g : Nat) (f : GalleryMem → GalleryMem) : (s.modGallery g f).junctionHolds = s.junctionHolds := rfl
@[simp] theorem State.modGallery_probes (g : Nat) (f : GalleryMem → GalleryMem) : (s.modGallery g f).probes = s.probes := rfl
@[simp] theorem State.modGallery_mirrors (g : Nat) (f : GalleryMem → GalleryMem) : (s.modGallery g f).mirrors = s.mirrors := rfl
@[simp] theorem State.modGallery_portsFailedAt (g : Nat) (f : GalleryMem → GalleryMem) : (s.modGallery g f).portsFailedAt = s.portsFailedAt := rfl
@[simp] theorem State.modGallery_power (g : Nat) (f : GalleryMem → GalleryMem) : (s.modGallery g f).power = s.power := rfl
@[simp] theorem State.modGallery_nvMem (g : Nat) (f : GalleryMem → GalleryMem) : (s.modGallery g f).nvMem = s.nvMem := rfl
@[simp] theorem State.modGallery_nvQueue (g : Nat) (f : GalleryMem → GalleryMem) : (s.modGallery g f).nvQueue = s.nvQueue := rfl
@[simp] theorem State.modGallery_boot (g : Nat) (f : GalleryMem → GalleryMem) : (s.modGallery g f).boot = s.boot := rfl
@[simp] theorem State.modGallery_keys (g : Nat) (f : GalleryMem → GalleryMem) : (s.modGallery g f).keys = s.keys := rfl
@[simp] theorem State.modGallery_jtag (g : Nat) (f : GalleryMem → GalleryMem) : (s.modGallery g f).jtag = s.jtag := rfl
@[simp] theorem State.modGallery_pcie (g : Nat) (f : GalleryMem → GalleryMem) : (s.modGallery g f).pcie = s.pcie := rfl
@[simp] theorem State.modGallery_smbus (g : Nat) (f : GalleryMem → GalleryMem) : (s.modGallery g f).smbus = s.smbus := rfl
@[simp] theorem State.modGallery_alertLow (g : Nat) (f : GalleryMem → GalleryMem) : (s.modGallery g f).alertLow = s.alertLow := rfl
@[simp] theorem State.modGallery_thermTripLow (g : Nat) (f : GalleryMem → GalleryMem) : (s.modGallery g f).thermTripLow = s.thermTripLow := rfl
@[simp] theorem State.modGallery_mfgOpen (g : Nat) (f : GalleryMem → GalleryMem) : (s.modGallery g f).mfgOpen = s.mfgOpen := rfl
@[simp] theorem State.modGallery_keyInit (g : Nat) (f : GalleryMem → GalleryMem) : (s.modGallery g f).keyInit = s.keyInit := rfl
@[simp] theorem State.modGallery_fresh (g : Nat) (f : GalleryMem → GalleryMem) : (s.modGallery g f).fresh = s.fresh := rfl
@[simp] theorem State.modGallery_outbox (g : Nat) (f : GalleryMem → GalleryMem) : (s.modGallery g f).outbox = s.outbox := rfl
@[simp] theorem State.modGallery_pending (g : Nat) (f : GalleryMem → GalleryMem) : (s.modGallery g f).pending = s.pending := rfl

/-! ### `State.setCache` -/

@[simp] theorem State.setCache_regs (g : Nat) (x : GalleryCache) : (s.setCache g x).regs = s.regs := rfl
@[simp] theorem State.setCache_mem (g : Nat) (x : GalleryCache) : (s.setCache g x).mem = s.mem := rfl
@[simp] theorem State.setCache_poison (g : Nat) (x : GalleryCache) : (s.setCache g x).poison = s.poison := rfl
@[simp] theorem State.setCache_soft (g : Nat) (x : GalleryCache) : (s.setCache g x).soft = s.soft := rfl
@[simp] theorem State.setCache_hostMem (g : Nat) (x : GalleryCache) : (s.setCache g x).hostMem = s.hostMem := rfl
@[simp] theorem State.setCache_chambers (g : Nat) (x : GalleryCache) : (s.setCache g x).chambers = s.chambers := rfl
@[simp] theorem State.setCache_gmem (g : Nat) (x : GalleryCache) : (s.setCache g x).gmem = s.gmem := rfl
@[simp] theorem State.setCache_gpow (g : Nat) (x : GalleryCache) : (s.setCache g x).gpow = s.gpow := rfl
@[simp] theorem State.setCache_sharers (g : Nat) (x : GalleryCache) : (s.setCache g x).sharers = s.sharers := rfl
@[simp] theorem State.setCache_lost (g : Nat) (x : GalleryCache) : (s.setCache g x).lost = s.lost := rfl
@[simp] theorem State.setCache_queues (g : Nat) (x : GalleryCache) : (s.setCache g x).queues = s.queues := rfl
@[simp] theorem State.setCache_fetchRR (g : Nat) (x : GalleryCache) : (s.setCache g x).fetchRR = s.fetchRR := rfl
@[simp] theorem State.setCache_outstanding (g : Nat) (x : GalleryCache) : (s.setCache g x).outstanding = s.outstanding := rfl
@[simp] theorem State.setCache_outcomes (g : Nat) (x : GalleryCache) : (s.setCache g x).outcomes = s.outcomes := rfl
@[simp] theorem State.setCache_jobs (g : Nat) (x : GalleryCache) : (s.setCache g x).jobs = s.jobs := rfl
@[simp] theorem State.setCache_nextJob (g : Nat) (x : GalleryCache) : (s.setCache g x).nextJob = s.nextJob := rfl
@[simp] theorem State.setCache_admitting (g : Nat) (x : GalleryCache) : (s.setCache g x).admitting = s.admitting := rfl
@[simp] theorem State.setCache_hellos (g : Nat) (x : GalleryCache) : (s.setCache g x).hellos = s.hellos := rfl
@[simp] theorem State.setCache_tensors (g : Nat) (x : GalleryCache) : (s.setCache g x).tensors = s.tensors := rfl
@[simp] theorem State.setCache_groups (g : Nat) (x : GalleryCache) : (s.setCache g x).groups = s.groups := rfl
@[simp] theorem State.setCache_plans (g : Nat) (x : GalleryCache) : (s.setCache g x).plans = s.plans := rfl
@[simp] theorem State.setCache_batches (g : Nat) (x : GalleryCache) : (s.setCache g x).batches = s.batches := rfl
@[simp] theorem State.setCache_progress (g : Nat) (x : GalleryCache) : (s.setCache g x).progress = s.progress := rfl
@[simp] theorem State.setCache_halted (g : Nat) (x : GalleryCache) : (s.setCache g x).halted = s.halted := rfl
@[simp] theorem State.setCache_contexts (g : Nat) (x : GalleryCache) : (s.setCache g x).contexts = s.contexts := rfl
@[simp] theorem State.setCache_allocs (g : Nat) (x : GalleryCache) : (s.setCache g x).allocs = s.allocs := rfl
@[simp] theorem State.setCache_retired (g : Nat) (x : GalleryCache) : (s.setCache g x).retired = s.retired := rfl
@[simp] theorem State.setCache_withdrawn (g : Nat) (x : GalleryCache) : (s.setCache g x).withdrawn = s.withdrawn := rfl
@[simp] theorem State.setCache_colls (g : Nat) (x : GalleryCache) : (s.setCache g x).colls = s.colls := rfl
@[simp] theorem State.setCache_ports (g : Nat) (x : GalleryCache) : (s.setCache g x).ports = s.ports := rfl
@[simp] theorem State.setCache_segments (g : Nat) (x : GalleryCache) : (s.setCache g x).segments = s.segments := rfl
@[simp] theorem State.setCache_xfers (g : Nat) (x : GalleryCache) : (s.setCache g x).xfers = s.xfers := rfl
@[simp] theorem State.setCache_nextXfer (g : Nat) (x : GalleryCache) : (s.setCache g x).nextXfer = s.nextXfer := rfl
@[simp] theorem State.setCache_xferSources (g : Nat) (x : GalleryCache) : (s.setCache g x).xferSources = s.xferSources := rfl
@[simp] theorem State.setCache_flows (g : Nat) (x : GalleryCache) : (s.setCache g x).flows = s.flows := rfl
@[simp] theorem State.setCache_fine (g : Nat) (x : GalleryCache) : (s.setCache g x).fine = s.fine := rfl
@[simp] theorem State.setCache_dieOffset (g : Nat) (x : GalleryCache) : (s.setCache g x).dieOffset = s.dieOffset := rfl
@[simp] theorem State.setCache_refGood (g : Nat) (x : GalleryCache) : (s.setCache g x).refGood = s.refGood := rfl
@[simp] theorem State.setCache_refFar (g : Nat) (x : GalleryCache) : (s.setCache g x).refFar = s.refFar := rfl
@[simp] theorem State.setCache_slew (g : Nat) (x : GalleryCache) : (s.setCache g x).slew = s.slew := rfl
@[simp] theorem State.setCache_slewTicks (g : Nat) (x : GalleryCache) : (s.setCache g x).slewTicks = s.slewTicks := rfl
@[simp] theorem State.setCache_logs (g : Nat) (x : GalleryCache) : (s.setCache g x).logs = s.logs := rfl
@[simp] theorem State.setCache_logSeq (g : Nat) (x : GalleryCache) : (s.setCache g x).logSeq = s.logSeq := rfl
@[simp] theorem State.setCache_events (g : Nat) (x : GalleryCache) : (s.setCache g x).events = s.events := rfl
@[simp] theorem State.setCache_recoveries (g : Nat) (x : GalleryCache) : (s.setCache g x).recoveries = s.recoveries := rfl
@[simp] theorem State.setCache_failedLinks (g : Nat) (x : GalleryCache) : (s.setCache g x).failedLinks = s.failedLinks := rfl
@[simp] theorem State.setCache_linkHolds (g : Nat) (x : GalleryCache) : (s.setCache g x).linkHolds = s.linkHolds := rfl
@[simp] theorem State.setCache_junctionHolds (g : Nat) (x : GalleryCache) : (s.setCache g x).junctionHolds = s.junctionHolds := rfl
@[simp] theorem State.setCache_probes (g : Nat) (x : GalleryCache) : (s.setCache g x).probes = s.probes := rfl
@[simp] theorem State.setCache_mirrors (g : Nat) (x : GalleryCache) : (s.setCache g x).mirrors = s.mirrors := rfl
@[simp] theorem State.setCache_portsFailedAt (g : Nat) (x : GalleryCache) : (s.setCache g x).portsFailedAt = s.portsFailedAt := rfl
@[simp] theorem State.setCache_power (g : Nat) (x : GalleryCache) : (s.setCache g x).power = s.power := rfl
@[simp] theorem State.setCache_nvMem (g : Nat) (x : GalleryCache) : (s.setCache g x).nvMem = s.nvMem := rfl
@[simp] theorem State.setCache_nvQueue (g : Nat) (x : GalleryCache) : (s.setCache g x).nvQueue = s.nvQueue := rfl
@[simp] theorem State.setCache_boot (g : Nat) (x : GalleryCache) : (s.setCache g x).boot = s.boot := rfl
@[simp] theorem State.setCache_keys (g : Nat) (x : GalleryCache) : (s.setCache g x).keys = s.keys := rfl
@[simp] theorem State.setCache_jtag (g : Nat) (x : GalleryCache) : (s.setCache g x).jtag = s.jtag := rfl
@[simp] theorem State.setCache_pcie (g : Nat) (x : GalleryCache) : (s.setCache g x).pcie = s.pcie := rfl
@[simp] theorem State.setCache_smbus (g : Nat) (x : GalleryCache) : (s.setCache g x).smbus = s.smbus := rfl
@[simp] theorem State.setCache_alertLow (g : Nat) (x : GalleryCache) : (s.setCache g x).alertLow = s.alertLow := rfl
@[simp] theorem State.setCache_thermTripLow (g : Nat) (x : GalleryCache) : (s.setCache g x).thermTripLow = s.thermTripLow := rfl
@[simp] theorem State.setCache_mfgOpen (g : Nat) (x : GalleryCache) : (s.setCache g x).mfgOpen = s.mfgOpen := rfl
@[simp] theorem State.setCache_keyInit (g : Nat) (x : GalleryCache) : (s.setCache g x).keyInit = s.keyInit := rfl
@[simp] theorem State.setCache_fresh (g : Nat) (x : GalleryCache) : (s.setCache g x).fresh = s.fresh := rfl
@[simp] theorem State.setCache_outbox (g : Nat) (x : GalleryCache) : (s.setCache g x).outbox = s.outbox := rfl
@[simp] theorem State.setCache_pending (g : Nat) (x : GalleryCache) : (s.setCache g x).pending = s.pending := rfl

/-! ### `State.setSharer` -/

@[simp] theorem State.setSharer_regs (k : Nat) (x : SharerFilter) : (s.setSharer k x).regs = s.regs := rfl
@[simp] theorem State.setSharer_mem (k : Nat) (x : SharerFilter) : (s.setSharer k x).mem = s.mem := rfl
@[simp] theorem State.setSharer_poison (k : Nat) (x : SharerFilter) : (s.setSharer k x).poison = s.poison := rfl
@[simp] theorem State.setSharer_soft (k : Nat) (x : SharerFilter) : (s.setSharer k x).soft = s.soft := rfl
@[simp] theorem State.setSharer_hostMem (k : Nat) (x : SharerFilter) : (s.setSharer k x).hostMem = s.hostMem := rfl
@[simp] theorem State.setSharer_chambers (k : Nat) (x : SharerFilter) : (s.setSharer k x).chambers = s.chambers := rfl
@[simp] theorem State.setSharer_gmem (k : Nat) (x : SharerFilter) : (s.setSharer k x).gmem = s.gmem := rfl
@[simp] theorem State.setSharer_gpow (k : Nat) (x : SharerFilter) : (s.setSharer k x).gpow = s.gpow := rfl
@[simp] theorem State.setSharer_caches (k : Nat) (x : SharerFilter) : (s.setSharer k x).caches = s.caches := rfl
@[simp] theorem State.setSharer_lost (k : Nat) (x : SharerFilter) : (s.setSharer k x).lost = s.lost := rfl
@[simp] theorem State.setSharer_queues (k : Nat) (x : SharerFilter) : (s.setSharer k x).queues = s.queues := rfl
@[simp] theorem State.setSharer_fetchRR (k : Nat) (x : SharerFilter) : (s.setSharer k x).fetchRR = s.fetchRR := rfl
@[simp] theorem State.setSharer_outstanding (k : Nat) (x : SharerFilter) : (s.setSharer k x).outstanding = s.outstanding := rfl
@[simp] theorem State.setSharer_outcomes (k : Nat) (x : SharerFilter) : (s.setSharer k x).outcomes = s.outcomes := rfl
@[simp] theorem State.setSharer_jobs (k : Nat) (x : SharerFilter) : (s.setSharer k x).jobs = s.jobs := rfl
@[simp] theorem State.setSharer_nextJob (k : Nat) (x : SharerFilter) : (s.setSharer k x).nextJob = s.nextJob := rfl
@[simp] theorem State.setSharer_admitting (k : Nat) (x : SharerFilter) : (s.setSharer k x).admitting = s.admitting := rfl
@[simp] theorem State.setSharer_hellos (k : Nat) (x : SharerFilter) : (s.setSharer k x).hellos = s.hellos := rfl
@[simp] theorem State.setSharer_tensors (k : Nat) (x : SharerFilter) : (s.setSharer k x).tensors = s.tensors := rfl
@[simp] theorem State.setSharer_groups (k : Nat) (x : SharerFilter) : (s.setSharer k x).groups = s.groups := rfl
@[simp] theorem State.setSharer_plans (k : Nat) (x : SharerFilter) : (s.setSharer k x).plans = s.plans := rfl
@[simp] theorem State.setSharer_batches (k : Nat) (x : SharerFilter) : (s.setSharer k x).batches = s.batches := rfl
@[simp] theorem State.setSharer_progress (k : Nat) (x : SharerFilter) : (s.setSharer k x).progress = s.progress := rfl
@[simp] theorem State.setSharer_halted (k : Nat) (x : SharerFilter) : (s.setSharer k x).halted = s.halted := rfl
@[simp] theorem State.setSharer_contexts (k : Nat) (x : SharerFilter) : (s.setSharer k x).contexts = s.contexts := rfl
@[simp] theorem State.setSharer_allocs (k : Nat) (x : SharerFilter) : (s.setSharer k x).allocs = s.allocs := rfl
@[simp] theorem State.setSharer_retired (k : Nat) (x : SharerFilter) : (s.setSharer k x).retired = s.retired := rfl
@[simp] theorem State.setSharer_withdrawn (k : Nat) (x : SharerFilter) : (s.setSharer k x).withdrawn = s.withdrawn := rfl
@[simp] theorem State.setSharer_colls (k : Nat) (x : SharerFilter) : (s.setSharer k x).colls = s.colls := rfl
@[simp] theorem State.setSharer_ports (k : Nat) (x : SharerFilter) : (s.setSharer k x).ports = s.ports := rfl
@[simp] theorem State.setSharer_segments (k : Nat) (x : SharerFilter) : (s.setSharer k x).segments = s.segments := rfl
@[simp] theorem State.setSharer_xfers (k : Nat) (x : SharerFilter) : (s.setSharer k x).xfers = s.xfers := rfl
@[simp] theorem State.setSharer_nextXfer (k : Nat) (x : SharerFilter) : (s.setSharer k x).nextXfer = s.nextXfer := rfl
@[simp] theorem State.setSharer_xferSources (k : Nat) (x : SharerFilter) : (s.setSharer k x).xferSources = s.xferSources := rfl
@[simp] theorem State.setSharer_flows (k : Nat) (x : SharerFilter) : (s.setSharer k x).flows = s.flows := rfl
@[simp] theorem State.setSharer_fine (k : Nat) (x : SharerFilter) : (s.setSharer k x).fine = s.fine := rfl
@[simp] theorem State.setSharer_dieOffset (k : Nat) (x : SharerFilter) : (s.setSharer k x).dieOffset = s.dieOffset := rfl
@[simp] theorem State.setSharer_refGood (k : Nat) (x : SharerFilter) : (s.setSharer k x).refGood = s.refGood := rfl
@[simp] theorem State.setSharer_refFar (k : Nat) (x : SharerFilter) : (s.setSharer k x).refFar = s.refFar := rfl
@[simp] theorem State.setSharer_slew (k : Nat) (x : SharerFilter) : (s.setSharer k x).slew = s.slew := rfl
@[simp] theorem State.setSharer_slewTicks (k : Nat) (x : SharerFilter) : (s.setSharer k x).slewTicks = s.slewTicks := rfl
@[simp] theorem State.setSharer_logs (k : Nat) (x : SharerFilter) : (s.setSharer k x).logs = s.logs := rfl
@[simp] theorem State.setSharer_logSeq (k : Nat) (x : SharerFilter) : (s.setSharer k x).logSeq = s.logSeq := rfl
@[simp] theorem State.setSharer_events (k : Nat) (x : SharerFilter) : (s.setSharer k x).events = s.events := rfl
@[simp] theorem State.setSharer_recoveries (k : Nat) (x : SharerFilter) : (s.setSharer k x).recoveries = s.recoveries := rfl
@[simp] theorem State.setSharer_failedLinks (k : Nat) (x : SharerFilter) : (s.setSharer k x).failedLinks = s.failedLinks := rfl
@[simp] theorem State.setSharer_linkHolds (k : Nat) (x : SharerFilter) : (s.setSharer k x).linkHolds = s.linkHolds := rfl
@[simp] theorem State.setSharer_junctionHolds (k : Nat) (x : SharerFilter) : (s.setSharer k x).junctionHolds = s.junctionHolds := rfl
@[simp] theorem State.setSharer_probes (k : Nat) (x : SharerFilter) : (s.setSharer k x).probes = s.probes := rfl
@[simp] theorem State.setSharer_mirrors (k : Nat) (x : SharerFilter) : (s.setSharer k x).mirrors = s.mirrors := rfl
@[simp] theorem State.setSharer_portsFailedAt (k : Nat) (x : SharerFilter) : (s.setSharer k x).portsFailedAt = s.portsFailedAt := rfl
@[simp] theorem State.setSharer_power (k : Nat) (x : SharerFilter) : (s.setSharer k x).power = s.power := rfl
@[simp] theorem State.setSharer_nvMem (k : Nat) (x : SharerFilter) : (s.setSharer k x).nvMem = s.nvMem := rfl
@[simp] theorem State.setSharer_nvQueue (k : Nat) (x : SharerFilter) : (s.setSharer k x).nvQueue = s.nvQueue := rfl
@[simp] theorem State.setSharer_boot (k : Nat) (x : SharerFilter) : (s.setSharer k x).boot = s.boot := rfl
@[simp] theorem State.setSharer_keys (k : Nat) (x : SharerFilter) : (s.setSharer k x).keys = s.keys := rfl
@[simp] theorem State.setSharer_jtag (k : Nat) (x : SharerFilter) : (s.setSharer k x).jtag = s.jtag := rfl
@[simp] theorem State.setSharer_pcie (k : Nat) (x : SharerFilter) : (s.setSharer k x).pcie = s.pcie := rfl
@[simp] theorem State.setSharer_smbus (k : Nat) (x : SharerFilter) : (s.setSharer k x).smbus = s.smbus := rfl
@[simp] theorem State.setSharer_alertLow (k : Nat) (x : SharerFilter) : (s.setSharer k x).alertLow = s.alertLow := rfl
@[simp] theorem State.setSharer_thermTripLow (k : Nat) (x : SharerFilter) : (s.setSharer k x).thermTripLow = s.thermTripLow := rfl
@[simp] theorem State.setSharer_mfgOpen (k : Nat) (x : SharerFilter) : (s.setSharer k x).mfgOpen = s.mfgOpen := rfl
@[simp] theorem State.setSharer_keyInit (k : Nat) (x : SharerFilter) : (s.setSharer k x).keyInit = s.keyInit := rfl
@[simp] theorem State.setSharer_fresh (k : Nat) (x : SharerFilter) : (s.setSharer k x).fresh = s.fresh := rfl
@[simp] theorem State.setSharer_outbox (k : Nat) (x : SharerFilter) : (s.setSharer k x).outbox = s.outbox := rfl
@[simp] theorem State.setSharer_pending (k : Nat) (x : SharerFilter) : (s.setSharer k x).pending = s.pending := rfl

/-! ### `State.modGalPower` -/

@[simp] theorem State.modGalPower_regs (g : Nat) (f : GalleryPower → GalleryPower) : (s.modGalPower g f).regs = s.regs := rfl
@[simp] theorem State.modGalPower_mem (g : Nat) (f : GalleryPower → GalleryPower) : (s.modGalPower g f).mem = s.mem := rfl
@[simp] theorem State.modGalPower_poison (g : Nat) (f : GalleryPower → GalleryPower) : (s.modGalPower g f).poison = s.poison := rfl
@[simp] theorem State.modGalPower_soft (g : Nat) (f : GalleryPower → GalleryPower) : (s.modGalPower g f).soft = s.soft := rfl
@[simp] theorem State.modGalPower_hostMem (g : Nat) (f : GalleryPower → GalleryPower) : (s.modGalPower g f).hostMem = s.hostMem := rfl
@[simp] theorem State.modGalPower_chambers (g : Nat) (f : GalleryPower → GalleryPower) : (s.modGalPower g f).chambers = s.chambers := rfl
@[simp] theorem State.modGalPower_gmem (g : Nat) (f : GalleryPower → GalleryPower) : (s.modGalPower g f).gmem = s.gmem := rfl
@[simp] theorem State.modGalPower_caches (g : Nat) (f : GalleryPower → GalleryPower) : (s.modGalPower g f).caches = s.caches := rfl
@[simp] theorem State.modGalPower_sharers (g : Nat) (f : GalleryPower → GalleryPower) : (s.modGalPower g f).sharers = s.sharers := rfl
@[simp] theorem State.modGalPower_lost (g : Nat) (f : GalleryPower → GalleryPower) : (s.modGalPower g f).lost = s.lost := rfl
@[simp] theorem State.modGalPower_queues (g : Nat) (f : GalleryPower → GalleryPower) : (s.modGalPower g f).queues = s.queues := rfl
@[simp] theorem State.modGalPower_fetchRR (g : Nat) (f : GalleryPower → GalleryPower) : (s.modGalPower g f).fetchRR = s.fetchRR := rfl
@[simp] theorem State.modGalPower_outstanding (g : Nat) (f : GalleryPower → GalleryPower) : (s.modGalPower g f).outstanding = s.outstanding := rfl
@[simp] theorem State.modGalPower_outcomes (g : Nat) (f : GalleryPower → GalleryPower) : (s.modGalPower g f).outcomes = s.outcomes := rfl
@[simp] theorem State.modGalPower_jobs (g : Nat) (f : GalleryPower → GalleryPower) : (s.modGalPower g f).jobs = s.jobs := rfl
@[simp] theorem State.modGalPower_nextJob (g : Nat) (f : GalleryPower → GalleryPower) : (s.modGalPower g f).nextJob = s.nextJob := rfl
@[simp] theorem State.modGalPower_admitting (g : Nat) (f : GalleryPower → GalleryPower) : (s.modGalPower g f).admitting = s.admitting := rfl
@[simp] theorem State.modGalPower_hellos (g : Nat) (f : GalleryPower → GalleryPower) : (s.modGalPower g f).hellos = s.hellos := rfl
@[simp] theorem State.modGalPower_tensors (g : Nat) (f : GalleryPower → GalleryPower) : (s.modGalPower g f).tensors = s.tensors := rfl
@[simp] theorem State.modGalPower_groups (g : Nat) (f : GalleryPower → GalleryPower) : (s.modGalPower g f).groups = s.groups := rfl
@[simp] theorem State.modGalPower_plans (g : Nat) (f : GalleryPower → GalleryPower) : (s.modGalPower g f).plans = s.plans := rfl
@[simp] theorem State.modGalPower_batches (g : Nat) (f : GalleryPower → GalleryPower) : (s.modGalPower g f).batches = s.batches := rfl
@[simp] theorem State.modGalPower_progress (g : Nat) (f : GalleryPower → GalleryPower) : (s.modGalPower g f).progress = s.progress := rfl
@[simp] theorem State.modGalPower_halted (g : Nat) (f : GalleryPower → GalleryPower) : (s.modGalPower g f).halted = s.halted := rfl
@[simp] theorem State.modGalPower_contexts (g : Nat) (f : GalleryPower → GalleryPower) : (s.modGalPower g f).contexts = s.contexts := rfl
@[simp] theorem State.modGalPower_allocs (g : Nat) (f : GalleryPower → GalleryPower) : (s.modGalPower g f).allocs = s.allocs := rfl
@[simp] theorem State.modGalPower_retired (g : Nat) (f : GalleryPower → GalleryPower) : (s.modGalPower g f).retired = s.retired := rfl
@[simp] theorem State.modGalPower_withdrawn (g : Nat) (f : GalleryPower → GalleryPower) : (s.modGalPower g f).withdrawn = s.withdrawn := rfl
@[simp] theorem State.modGalPower_colls (g : Nat) (f : GalleryPower → GalleryPower) : (s.modGalPower g f).colls = s.colls := rfl
@[simp] theorem State.modGalPower_ports (g : Nat) (f : GalleryPower → GalleryPower) : (s.modGalPower g f).ports = s.ports := rfl
@[simp] theorem State.modGalPower_segments (g : Nat) (f : GalleryPower → GalleryPower) : (s.modGalPower g f).segments = s.segments := rfl
@[simp] theorem State.modGalPower_xfers (g : Nat) (f : GalleryPower → GalleryPower) : (s.modGalPower g f).xfers = s.xfers := rfl
@[simp] theorem State.modGalPower_nextXfer (g : Nat) (f : GalleryPower → GalleryPower) : (s.modGalPower g f).nextXfer = s.nextXfer := rfl
@[simp] theorem State.modGalPower_xferSources (g : Nat) (f : GalleryPower → GalleryPower) : (s.modGalPower g f).xferSources = s.xferSources := rfl
@[simp] theorem State.modGalPower_flows (g : Nat) (f : GalleryPower → GalleryPower) : (s.modGalPower g f).flows = s.flows := rfl
@[simp] theorem State.modGalPower_fine (g : Nat) (f : GalleryPower → GalleryPower) : (s.modGalPower g f).fine = s.fine := rfl
@[simp] theorem State.modGalPower_dieOffset (g : Nat) (f : GalleryPower → GalleryPower) : (s.modGalPower g f).dieOffset = s.dieOffset := rfl
@[simp] theorem State.modGalPower_refGood (g : Nat) (f : GalleryPower → GalleryPower) : (s.modGalPower g f).refGood = s.refGood := rfl
@[simp] theorem State.modGalPower_refFar (g : Nat) (f : GalleryPower → GalleryPower) : (s.modGalPower g f).refFar = s.refFar := rfl
@[simp] theorem State.modGalPower_slew (g : Nat) (f : GalleryPower → GalleryPower) : (s.modGalPower g f).slew = s.slew := rfl
@[simp] theorem State.modGalPower_slewTicks (g : Nat) (f : GalleryPower → GalleryPower) : (s.modGalPower g f).slewTicks = s.slewTicks := rfl
@[simp] theorem State.modGalPower_logs (g : Nat) (f : GalleryPower → GalleryPower) : (s.modGalPower g f).logs = s.logs := rfl
@[simp] theorem State.modGalPower_logSeq (g : Nat) (f : GalleryPower → GalleryPower) : (s.modGalPower g f).logSeq = s.logSeq := rfl
@[simp] theorem State.modGalPower_events (g : Nat) (f : GalleryPower → GalleryPower) : (s.modGalPower g f).events = s.events := rfl
@[simp] theorem State.modGalPower_recoveries (g : Nat) (f : GalleryPower → GalleryPower) : (s.modGalPower g f).recoveries = s.recoveries := rfl
@[simp] theorem State.modGalPower_failedLinks (g : Nat) (f : GalleryPower → GalleryPower) : (s.modGalPower g f).failedLinks = s.failedLinks := rfl
@[simp] theorem State.modGalPower_linkHolds (g : Nat) (f : GalleryPower → GalleryPower) : (s.modGalPower g f).linkHolds = s.linkHolds := rfl
@[simp] theorem State.modGalPower_junctionHolds (g : Nat) (f : GalleryPower → GalleryPower) : (s.modGalPower g f).junctionHolds = s.junctionHolds := rfl
@[simp] theorem State.modGalPower_probes (g : Nat) (f : GalleryPower → GalleryPower) : (s.modGalPower g f).probes = s.probes := rfl
@[simp] theorem State.modGalPower_mirrors (g : Nat) (f : GalleryPower → GalleryPower) : (s.modGalPower g f).mirrors = s.mirrors := rfl
@[simp] theorem State.modGalPower_portsFailedAt (g : Nat) (f : GalleryPower → GalleryPower) : (s.modGalPower g f).portsFailedAt = s.portsFailedAt := rfl
@[simp] theorem State.modGalPower_power (g : Nat) (f : GalleryPower → GalleryPower) : (s.modGalPower g f).power = s.power := rfl
@[simp] theorem State.modGalPower_nvMem (g : Nat) (f : GalleryPower → GalleryPower) : (s.modGalPower g f).nvMem = s.nvMem := rfl
@[simp] theorem State.modGalPower_nvQueue (g : Nat) (f : GalleryPower → GalleryPower) : (s.modGalPower g f).nvQueue = s.nvQueue := rfl
@[simp] theorem State.modGalPower_boot (g : Nat) (f : GalleryPower → GalleryPower) : (s.modGalPower g f).boot = s.boot := rfl
@[simp] theorem State.modGalPower_keys (g : Nat) (f : GalleryPower → GalleryPower) : (s.modGalPower g f).keys = s.keys := rfl
@[simp] theorem State.modGalPower_jtag (g : Nat) (f : GalleryPower → GalleryPower) : (s.modGalPower g f).jtag = s.jtag := rfl
@[simp] theorem State.modGalPower_pcie (g : Nat) (f : GalleryPower → GalleryPower) : (s.modGalPower g f).pcie = s.pcie := rfl
@[simp] theorem State.modGalPower_smbus (g : Nat) (f : GalleryPower → GalleryPower) : (s.modGalPower g f).smbus = s.smbus := rfl
@[simp] theorem State.modGalPower_alertLow (g : Nat) (f : GalleryPower → GalleryPower) : (s.modGalPower g f).alertLow = s.alertLow := rfl
@[simp] theorem State.modGalPower_thermTripLow (g : Nat) (f : GalleryPower → GalleryPower) : (s.modGalPower g f).thermTripLow = s.thermTripLow := rfl
@[simp] theorem State.modGalPower_mfgOpen (g : Nat) (f : GalleryPower → GalleryPower) : (s.modGalPower g f).mfgOpen = s.mfgOpen := rfl
@[simp] theorem State.modGalPower_keyInit (g : Nat) (f : GalleryPower → GalleryPower) : (s.modGalPower g f).keyInit = s.keyInit := rfl
@[simp] theorem State.modGalPower_fresh (g : Nat) (f : GalleryPower → GalleryPower) : (s.modGalPower g f).fresh = s.fresh := rfl
@[simp] theorem State.modGalPower_outbox (g : Nat) (f : GalleryPower → GalleryPower) : (s.modGalPower g f).outbox = s.outbox := rfl
@[simp] theorem State.modGalPower_pending (g : Nat) (f : GalleryPower → GalleryPower) : (s.modGalPower g f).pending = s.pending := rfl

/-! ### `State.modQueue` -/

@[simp] theorem State.modQueue_regs (q : Nat) (f : Queue → Queue) : (s.modQueue q f).regs = s.regs := rfl
@[simp] theorem State.modQueue_mem (q : Nat) (f : Queue → Queue) : (s.modQueue q f).mem = s.mem := rfl
@[simp] theorem State.modQueue_poison (q : Nat) (f : Queue → Queue) : (s.modQueue q f).poison = s.poison := rfl
@[simp] theorem State.modQueue_soft (q : Nat) (f : Queue → Queue) : (s.modQueue q f).soft = s.soft := rfl
@[simp] theorem State.modQueue_hostMem (q : Nat) (f : Queue → Queue) : (s.modQueue q f).hostMem = s.hostMem := rfl
@[simp] theorem State.modQueue_chambers (q : Nat) (f : Queue → Queue) : (s.modQueue q f).chambers = s.chambers := rfl
@[simp] theorem State.modQueue_gmem (q : Nat) (f : Queue → Queue) : (s.modQueue q f).gmem = s.gmem := rfl
@[simp] theorem State.modQueue_gpow (q : Nat) (f : Queue → Queue) : (s.modQueue q f).gpow = s.gpow := rfl
@[simp] theorem State.modQueue_caches (q : Nat) (f : Queue → Queue) : (s.modQueue q f).caches = s.caches := rfl
@[simp] theorem State.modQueue_sharers (q : Nat) (f : Queue → Queue) : (s.modQueue q f).sharers = s.sharers := rfl
@[simp] theorem State.modQueue_lost (q : Nat) (f : Queue → Queue) : (s.modQueue q f).lost = s.lost := rfl
@[simp] theorem State.modQueue_fetchRR (q : Nat) (f : Queue → Queue) : (s.modQueue q f).fetchRR = s.fetchRR := rfl
@[simp] theorem State.modQueue_outstanding (q : Nat) (f : Queue → Queue) : (s.modQueue q f).outstanding = s.outstanding := rfl
@[simp] theorem State.modQueue_outcomes (q : Nat) (f : Queue → Queue) : (s.modQueue q f).outcomes = s.outcomes := rfl
@[simp] theorem State.modQueue_jobs (q : Nat) (f : Queue → Queue) : (s.modQueue q f).jobs = s.jobs := rfl
@[simp] theorem State.modQueue_nextJob (q : Nat) (f : Queue → Queue) : (s.modQueue q f).nextJob = s.nextJob := rfl
@[simp] theorem State.modQueue_admitting (q : Nat) (f : Queue → Queue) : (s.modQueue q f).admitting = s.admitting := rfl
@[simp] theorem State.modQueue_hellos (q : Nat) (f : Queue → Queue) : (s.modQueue q f).hellos = s.hellos := rfl
@[simp] theorem State.modQueue_tensors (q : Nat) (f : Queue → Queue) : (s.modQueue q f).tensors = s.tensors := rfl
@[simp] theorem State.modQueue_groups (q : Nat) (f : Queue → Queue) : (s.modQueue q f).groups = s.groups := rfl
@[simp] theorem State.modQueue_plans (q : Nat) (f : Queue → Queue) : (s.modQueue q f).plans = s.plans := rfl
@[simp] theorem State.modQueue_batches (q : Nat) (f : Queue → Queue) : (s.modQueue q f).batches = s.batches := rfl
@[simp] theorem State.modQueue_progress (q : Nat) (f : Queue → Queue) : (s.modQueue q f).progress = s.progress := rfl
@[simp] theorem State.modQueue_halted (q : Nat) (f : Queue → Queue) : (s.modQueue q f).halted = s.halted := rfl
@[simp] theorem State.modQueue_contexts (q : Nat) (f : Queue → Queue) : (s.modQueue q f).contexts = s.contexts := rfl
@[simp] theorem State.modQueue_allocs (q : Nat) (f : Queue → Queue) : (s.modQueue q f).allocs = s.allocs := rfl
@[simp] theorem State.modQueue_retired (q : Nat) (f : Queue → Queue) : (s.modQueue q f).retired = s.retired := rfl
@[simp] theorem State.modQueue_withdrawn (q : Nat) (f : Queue → Queue) : (s.modQueue q f).withdrawn = s.withdrawn := rfl
@[simp] theorem State.modQueue_colls (q : Nat) (f : Queue → Queue) : (s.modQueue q f).colls = s.colls := rfl
@[simp] theorem State.modQueue_ports (q : Nat) (f : Queue → Queue) : (s.modQueue q f).ports = s.ports := rfl
@[simp] theorem State.modQueue_segments (q : Nat) (f : Queue → Queue) : (s.modQueue q f).segments = s.segments := rfl
@[simp] theorem State.modQueue_xfers (q : Nat) (f : Queue → Queue) : (s.modQueue q f).xfers = s.xfers := rfl
@[simp] theorem State.modQueue_nextXfer (q : Nat) (f : Queue → Queue) : (s.modQueue q f).nextXfer = s.nextXfer := rfl
@[simp] theorem State.modQueue_xferSources (q : Nat) (f : Queue → Queue) : (s.modQueue q f).xferSources = s.xferSources := rfl
@[simp] theorem State.modQueue_flows (q : Nat) (f : Queue → Queue) : (s.modQueue q f).flows = s.flows := rfl
@[simp] theorem State.modQueue_fine (q : Nat) (f : Queue → Queue) : (s.modQueue q f).fine = s.fine := rfl
@[simp] theorem State.modQueue_dieOffset (q : Nat) (f : Queue → Queue) : (s.modQueue q f).dieOffset = s.dieOffset := rfl
@[simp] theorem State.modQueue_refGood (q : Nat) (f : Queue → Queue) : (s.modQueue q f).refGood = s.refGood := rfl
@[simp] theorem State.modQueue_refFar (q : Nat) (f : Queue → Queue) : (s.modQueue q f).refFar = s.refFar := rfl
@[simp] theorem State.modQueue_slew (q : Nat) (f : Queue → Queue) : (s.modQueue q f).slew = s.slew := rfl
@[simp] theorem State.modQueue_slewTicks (q : Nat) (f : Queue → Queue) : (s.modQueue q f).slewTicks = s.slewTicks := rfl
@[simp] theorem State.modQueue_logs (q : Nat) (f : Queue → Queue) : (s.modQueue q f).logs = s.logs := rfl
@[simp] theorem State.modQueue_logSeq (q : Nat) (f : Queue → Queue) : (s.modQueue q f).logSeq = s.logSeq := rfl
@[simp] theorem State.modQueue_events (q : Nat) (f : Queue → Queue) : (s.modQueue q f).events = s.events := rfl
@[simp] theorem State.modQueue_recoveries (q : Nat) (f : Queue → Queue) : (s.modQueue q f).recoveries = s.recoveries := rfl
@[simp] theorem State.modQueue_failedLinks (q : Nat) (f : Queue → Queue) : (s.modQueue q f).failedLinks = s.failedLinks := rfl
@[simp] theorem State.modQueue_linkHolds (q : Nat) (f : Queue → Queue) : (s.modQueue q f).linkHolds = s.linkHolds := rfl
@[simp] theorem State.modQueue_junctionHolds (q : Nat) (f : Queue → Queue) : (s.modQueue q f).junctionHolds = s.junctionHolds := rfl
@[simp] theorem State.modQueue_probes (q : Nat) (f : Queue → Queue) : (s.modQueue q f).probes = s.probes := rfl
@[simp] theorem State.modQueue_mirrors (q : Nat) (f : Queue → Queue) : (s.modQueue q f).mirrors = s.mirrors := rfl
@[simp] theorem State.modQueue_portsFailedAt (q : Nat) (f : Queue → Queue) : (s.modQueue q f).portsFailedAt = s.portsFailedAt := rfl
@[simp] theorem State.modQueue_power (q : Nat) (f : Queue → Queue) : (s.modQueue q f).power = s.power := rfl
@[simp] theorem State.modQueue_nvMem (q : Nat) (f : Queue → Queue) : (s.modQueue q f).nvMem = s.nvMem := rfl
@[simp] theorem State.modQueue_nvQueue (q : Nat) (f : Queue → Queue) : (s.modQueue q f).nvQueue = s.nvQueue := rfl
@[simp] theorem State.modQueue_boot (q : Nat) (f : Queue → Queue) : (s.modQueue q f).boot = s.boot := rfl
@[simp] theorem State.modQueue_keys (q : Nat) (f : Queue → Queue) : (s.modQueue q f).keys = s.keys := rfl
@[simp] theorem State.modQueue_jtag (q : Nat) (f : Queue → Queue) : (s.modQueue q f).jtag = s.jtag := rfl
@[simp] theorem State.modQueue_pcie (q : Nat) (f : Queue → Queue) : (s.modQueue q f).pcie = s.pcie := rfl
@[simp] theorem State.modQueue_smbus (q : Nat) (f : Queue → Queue) : (s.modQueue q f).smbus = s.smbus := rfl
@[simp] theorem State.modQueue_alertLow (q : Nat) (f : Queue → Queue) : (s.modQueue q f).alertLow = s.alertLow := rfl
@[simp] theorem State.modQueue_thermTripLow (q : Nat) (f : Queue → Queue) : (s.modQueue q f).thermTripLow = s.thermTripLow := rfl
@[simp] theorem State.modQueue_mfgOpen (q : Nat) (f : Queue → Queue) : (s.modQueue q f).mfgOpen = s.mfgOpen := rfl
@[simp] theorem State.modQueue_keyInit (q : Nat) (f : Queue → Queue) : (s.modQueue q f).keyInit = s.keyInit := rfl
@[simp] theorem State.modQueue_fresh (q : Nat) (f : Queue → Queue) : (s.modQueue q f).fresh = s.fresh := rfl
@[simp] theorem State.modQueue_outbox (q : Nat) (f : Queue → Queue) : (s.modQueue q f).outbox = s.outbox := rfl
@[simp] theorem State.modQueue_pending (q : Nat) (f : Queue → Queue) : (s.modQueue q f).pending = s.pending := rfl

/-! ### `State.modPort` -/

@[simp] theorem State.modPort_regs (p : Nat) (f : Port → Port) : (s.modPort p f).regs = s.regs := rfl
@[simp] theorem State.modPort_mem (p : Nat) (f : Port → Port) : (s.modPort p f).mem = s.mem := rfl
@[simp] theorem State.modPort_poison (p : Nat) (f : Port → Port) : (s.modPort p f).poison = s.poison := rfl
@[simp] theorem State.modPort_soft (p : Nat) (f : Port → Port) : (s.modPort p f).soft = s.soft := rfl
@[simp] theorem State.modPort_hostMem (p : Nat) (f : Port → Port) : (s.modPort p f).hostMem = s.hostMem := rfl
@[simp] theorem State.modPort_chambers (p : Nat) (f : Port → Port) : (s.modPort p f).chambers = s.chambers := rfl
@[simp] theorem State.modPort_gmem (p : Nat) (f : Port → Port) : (s.modPort p f).gmem = s.gmem := rfl
@[simp] theorem State.modPort_gpow (p : Nat) (f : Port → Port) : (s.modPort p f).gpow = s.gpow := rfl
@[simp] theorem State.modPort_caches (p : Nat) (f : Port → Port) : (s.modPort p f).caches = s.caches := rfl
@[simp] theorem State.modPort_sharers (p : Nat) (f : Port → Port) : (s.modPort p f).sharers = s.sharers := rfl
@[simp] theorem State.modPort_lost (p : Nat) (f : Port → Port) : (s.modPort p f).lost = s.lost := rfl
@[simp] theorem State.modPort_queues (p : Nat) (f : Port → Port) : (s.modPort p f).queues = s.queues := rfl
@[simp] theorem State.modPort_fetchRR (p : Nat) (f : Port → Port) : (s.modPort p f).fetchRR = s.fetchRR := rfl
@[simp] theorem State.modPort_outstanding (p : Nat) (f : Port → Port) : (s.modPort p f).outstanding = s.outstanding := rfl
@[simp] theorem State.modPort_outcomes (p : Nat) (f : Port → Port) : (s.modPort p f).outcomes = s.outcomes := rfl
@[simp] theorem State.modPort_jobs (p : Nat) (f : Port → Port) : (s.modPort p f).jobs = s.jobs := rfl
@[simp] theorem State.modPort_nextJob (p : Nat) (f : Port → Port) : (s.modPort p f).nextJob = s.nextJob := rfl
@[simp] theorem State.modPort_admitting (p : Nat) (f : Port → Port) : (s.modPort p f).admitting = s.admitting := rfl
@[simp] theorem State.modPort_hellos (p : Nat) (f : Port → Port) : (s.modPort p f).hellos = s.hellos := rfl
@[simp] theorem State.modPort_tensors (p : Nat) (f : Port → Port) : (s.modPort p f).tensors = s.tensors := rfl
@[simp] theorem State.modPort_groups (p : Nat) (f : Port → Port) : (s.modPort p f).groups = s.groups := rfl
@[simp] theorem State.modPort_plans (p : Nat) (f : Port → Port) : (s.modPort p f).plans = s.plans := rfl
@[simp] theorem State.modPort_batches (p : Nat) (f : Port → Port) : (s.modPort p f).batches = s.batches := rfl
@[simp] theorem State.modPort_progress (p : Nat) (f : Port → Port) : (s.modPort p f).progress = s.progress := rfl
@[simp] theorem State.modPort_halted (p : Nat) (f : Port → Port) : (s.modPort p f).halted = s.halted := rfl
@[simp] theorem State.modPort_contexts (p : Nat) (f : Port → Port) : (s.modPort p f).contexts = s.contexts := rfl
@[simp] theorem State.modPort_allocs (p : Nat) (f : Port → Port) : (s.modPort p f).allocs = s.allocs := rfl
@[simp] theorem State.modPort_retired (p : Nat) (f : Port → Port) : (s.modPort p f).retired = s.retired := rfl
@[simp] theorem State.modPort_withdrawn (p : Nat) (f : Port → Port) : (s.modPort p f).withdrawn = s.withdrawn := rfl
@[simp] theorem State.modPort_colls (p : Nat) (f : Port → Port) : (s.modPort p f).colls = s.colls := rfl
@[simp] theorem State.modPort_segments (p : Nat) (f : Port → Port) : (s.modPort p f).segments = s.segments := rfl
@[simp] theorem State.modPort_xfers (p : Nat) (f : Port → Port) : (s.modPort p f).xfers = s.xfers := rfl
@[simp] theorem State.modPort_nextXfer (p : Nat) (f : Port → Port) : (s.modPort p f).nextXfer = s.nextXfer := rfl
@[simp] theorem State.modPort_xferSources (p : Nat) (f : Port → Port) : (s.modPort p f).xferSources = s.xferSources := rfl
@[simp] theorem State.modPort_flows (p : Nat) (f : Port → Port) : (s.modPort p f).flows = s.flows := rfl
@[simp] theorem State.modPort_fine (p : Nat) (f : Port → Port) : (s.modPort p f).fine = s.fine := rfl
@[simp] theorem State.modPort_dieOffset (p : Nat) (f : Port → Port) : (s.modPort p f).dieOffset = s.dieOffset := rfl
@[simp] theorem State.modPort_refGood (p : Nat) (f : Port → Port) : (s.modPort p f).refGood = s.refGood := rfl
@[simp] theorem State.modPort_refFar (p : Nat) (f : Port → Port) : (s.modPort p f).refFar = s.refFar := rfl
@[simp] theorem State.modPort_slew (p : Nat) (f : Port → Port) : (s.modPort p f).slew = s.slew := rfl
@[simp] theorem State.modPort_slewTicks (p : Nat) (f : Port → Port) : (s.modPort p f).slewTicks = s.slewTicks := rfl
@[simp] theorem State.modPort_logs (p : Nat) (f : Port → Port) : (s.modPort p f).logs = s.logs := rfl
@[simp] theorem State.modPort_logSeq (p : Nat) (f : Port → Port) : (s.modPort p f).logSeq = s.logSeq := rfl
@[simp] theorem State.modPort_events (p : Nat) (f : Port → Port) : (s.modPort p f).events = s.events := rfl
@[simp] theorem State.modPort_recoveries (p : Nat) (f : Port → Port) : (s.modPort p f).recoveries = s.recoveries := rfl
@[simp] theorem State.modPort_failedLinks (p : Nat) (f : Port → Port) : (s.modPort p f).failedLinks = s.failedLinks := rfl
@[simp] theorem State.modPort_linkHolds (p : Nat) (f : Port → Port) : (s.modPort p f).linkHolds = s.linkHolds := rfl
@[simp] theorem State.modPort_junctionHolds (p : Nat) (f : Port → Port) : (s.modPort p f).junctionHolds = s.junctionHolds := rfl
@[simp] theorem State.modPort_probes (p : Nat) (f : Port → Port) : (s.modPort p f).probes = s.probes := rfl
@[simp] theorem State.modPort_mirrors (p : Nat) (f : Port → Port) : (s.modPort p f).mirrors = s.mirrors := rfl
@[simp] theorem State.modPort_portsFailedAt (p : Nat) (f : Port → Port) : (s.modPort p f).portsFailedAt = s.portsFailedAt := rfl
@[simp] theorem State.modPort_power (p : Nat) (f : Port → Port) : (s.modPort p f).power = s.power := rfl
@[simp] theorem State.modPort_nvMem (p : Nat) (f : Port → Port) : (s.modPort p f).nvMem = s.nvMem := rfl
@[simp] theorem State.modPort_nvQueue (p : Nat) (f : Port → Port) : (s.modPort p f).nvQueue = s.nvQueue := rfl
@[simp] theorem State.modPort_boot (p : Nat) (f : Port → Port) : (s.modPort p f).boot = s.boot := rfl
@[simp] theorem State.modPort_keys (p : Nat) (f : Port → Port) : (s.modPort p f).keys = s.keys := rfl
@[simp] theorem State.modPort_jtag (p : Nat) (f : Port → Port) : (s.modPort p f).jtag = s.jtag := rfl
@[simp] theorem State.modPort_pcie (p : Nat) (f : Port → Port) : (s.modPort p f).pcie = s.pcie := rfl
@[simp] theorem State.modPort_smbus (p : Nat) (f : Port → Port) : (s.modPort p f).smbus = s.smbus := rfl
@[simp] theorem State.modPort_alertLow (p : Nat) (f : Port → Port) : (s.modPort p f).alertLow = s.alertLow := rfl
@[simp] theorem State.modPort_thermTripLow (p : Nat) (f : Port → Port) : (s.modPort p f).thermTripLow = s.thermTripLow := rfl
@[simp] theorem State.modPort_mfgOpen (p : Nat) (f : Port → Port) : (s.modPort p f).mfgOpen = s.mfgOpen := rfl
@[simp] theorem State.modPort_keyInit (p : Nat) (f : Port → Port) : (s.modPort p f).keyInit = s.keyInit := rfl
@[simp] theorem State.modPort_fresh (p : Nat) (f : Port → Port) : (s.modPort p f).fresh = s.fresh := rfl
@[simp] theorem State.modPort_outbox (p : Nat) (f : Port → Port) : (s.modPort p f).outbox = s.outbox := rfl
@[simp] theorem State.modPort_pending (p : Nat) (f : Port → Port) : (s.modPort p f).pending = s.pending := rfl

/-! ### `State.modJob` -/

@[simp] theorem State.modJob_regs (id : Nat) (f : Job → Job) : (s.modJob id f).regs = s.regs := rfl
@[simp] theorem State.modJob_mem (id : Nat) (f : Job → Job) : (s.modJob id f).mem = s.mem := rfl
@[simp] theorem State.modJob_poison (id : Nat) (f : Job → Job) : (s.modJob id f).poison = s.poison := rfl
@[simp] theorem State.modJob_soft (id : Nat) (f : Job → Job) : (s.modJob id f).soft = s.soft := rfl
@[simp] theorem State.modJob_hostMem (id : Nat) (f : Job → Job) : (s.modJob id f).hostMem = s.hostMem := rfl
@[simp] theorem State.modJob_chambers (id : Nat) (f : Job → Job) : (s.modJob id f).chambers = s.chambers := rfl
@[simp] theorem State.modJob_gmem (id : Nat) (f : Job → Job) : (s.modJob id f).gmem = s.gmem := rfl
@[simp] theorem State.modJob_gpow (id : Nat) (f : Job → Job) : (s.modJob id f).gpow = s.gpow := rfl
@[simp] theorem State.modJob_caches (id : Nat) (f : Job → Job) : (s.modJob id f).caches = s.caches := rfl
@[simp] theorem State.modJob_sharers (id : Nat) (f : Job → Job) : (s.modJob id f).sharers = s.sharers := rfl
@[simp] theorem State.modJob_lost (id : Nat) (f : Job → Job) : (s.modJob id f).lost = s.lost := rfl
@[simp] theorem State.modJob_queues (id : Nat) (f : Job → Job) : (s.modJob id f).queues = s.queues := rfl
@[simp] theorem State.modJob_fetchRR (id : Nat) (f : Job → Job) : (s.modJob id f).fetchRR = s.fetchRR := rfl
@[simp] theorem State.modJob_outstanding (id : Nat) (f : Job → Job) : (s.modJob id f).outstanding = s.outstanding := rfl
@[simp] theorem State.modJob_outcomes (id : Nat) (f : Job → Job) : (s.modJob id f).outcomes = s.outcomes := rfl
@[simp] theorem State.modJob_nextJob (id : Nat) (f : Job → Job) : (s.modJob id f).nextJob = s.nextJob := rfl
@[simp] theorem State.modJob_admitting (id : Nat) (f : Job → Job) : (s.modJob id f).admitting = s.admitting := rfl
@[simp] theorem State.modJob_hellos (id : Nat) (f : Job → Job) : (s.modJob id f).hellos = s.hellos := rfl
@[simp] theorem State.modJob_tensors (id : Nat) (f : Job → Job) : (s.modJob id f).tensors = s.tensors := rfl
@[simp] theorem State.modJob_groups (id : Nat) (f : Job → Job) : (s.modJob id f).groups = s.groups := rfl
@[simp] theorem State.modJob_plans (id : Nat) (f : Job → Job) : (s.modJob id f).plans = s.plans := rfl
@[simp] theorem State.modJob_batches (id : Nat) (f : Job → Job) : (s.modJob id f).batches = s.batches := rfl
@[simp] theorem State.modJob_progress (id : Nat) (f : Job → Job) : (s.modJob id f).progress = s.progress := rfl
@[simp] theorem State.modJob_halted (id : Nat) (f : Job → Job) : (s.modJob id f).halted = s.halted := rfl
@[simp] theorem State.modJob_contexts (id : Nat) (f : Job → Job) : (s.modJob id f).contexts = s.contexts := rfl
@[simp] theorem State.modJob_allocs (id : Nat) (f : Job → Job) : (s.modJob id f).allocs = s.allocs := rfl
@[simp] theorem State.modJob_retired (id : Nat) (f : Job → Job) : (s.modJob id f).retired = s.retired := rfl
@[simp] theorem State.modJob_withdrawn (id : Nat) (f : Job → Job) : (s.modJob id f).withdrawn = s.withdrawn := rfl
@[simp] theorem State.modJob_colls (id : Nat) (f : Job → Job) : (s.modJob id f).colls = s.colls := rfl
@[simp] theorem State.modJob_ports (id : Nat) (f : Job → Job) : (s.modJob id f).ports = s.ports := rfl
@[simp] theorem State.modJob_segments (id : Nat) (f : Job → Job) : (s.modJob id f).segments = s.segments := rfl
@[simp] theorem State.modJob_xfers (id : Nat) (f : Job → Job) : (s.modJob id f).xfers = s.xfers := rfl
@[simp] theorem State.modJob_nextXfer (id : Nat) (f : Job → Job) : (s.modJob id f).nextXfer = s.nextXfer := rfl
@[simp] theorem State.modJob_xferSources (id : Nat) (f : Job → Job) : (s.modJob id f).xferSources = s.xferSources := rfl
@[simp] theorem State.modJob_flows (id : Nat) (f : Job → Job) : (s.modJob id f).flows = s.flows := rfl
@[simp] theorem State.modJob_fine (id : Nat) (f : Job → Job) : (s.modJob id f).fine = s.fine := rfl
@[simp] theorem State.modJob_dieOffset (id : Nat) (f : Job → Job) : (s.modJob id f).dieOffset = s.dieOffset := rfl
@[simp] theorem State.modJob_refGood (id : Nat) (f : Job → Job) : (s.modJob id f).refGood = s.refGood := rfl
@[simp] theorem State.modJob_refFar (id : Nat) (f : Job → Job) : (s.modJob id f).refFar = s.refFar := rfl
@[simp] theorem State.modJob_slew (id : Nat) (f : Job → Job) : (s.modJob id f).slew = s.slew := rfl
@[simp] theorem State.modJob_slewTicks (id : Nat) (f : Job → Job) : (s.modJob id f).slewTicks = s.slewTicks := rfl
@[simp] theorem State.modJob_logs (id : Nat) (f : Job → Job) : (s.modJob id f).logs = s.logs := rfl
@[simp] theorem State.modJob_logSeq (id : Nat) (f : Job → Job) : (s.modJob id f).logSeq = s.logSeq := rfl
@[simp] theorem State.modJob_events (id : Nat) (f : Job → Job) : (s.modJob id f).events = s.events := rfl
@[simp] theorem State.modJob_recoveries (id : Nat) (f : Job → Job) : (s.modJob id f).recoveries = s.recoveries := rfl
@[simp] theorem State.modJob_failedLinks (id : Nat) (f : Job → Job) : (s.modJob id f).failedLinks = s.failedLinks := rfl
@[simp] theorem State.modJob_linkHolds (id : Nat) (f : Job → Job) : (s.modJob id f).linkHolds = s.linkHolds := rfl
@[simp] theorem State.modJob_junctionHolds (id : Nat) (f : Job → Job) : (s.modJob id f).junctionHolds = s.junctionHolds := rfl
@[simp] theorem State.modJob_probes (id : Nat) (f : Job → Job) : (s.modJob id f).probes = s.probes := rfl
@[simp] theorem State.modJob_mirrors (id : Nat) (f : Job → Job) : (s.modJob id f).mirrors = s.mirrors := rfl
@[simp] theorem State.modJob_portsFailedAt (id : Nat) (f : Job → Job) : (s.modJob id f).portsFailedAt = s.portsFailedAt := rfl
@[simp] theorem State.modJob_power (id : Nat) (f : Job → Job) : (s.modJob id f).power = s.power := rfl
@[simp] theorem State.modJob_nvMem (id : Nat) (f : Job → Job) : (s.modJob id f).nvMem = s.nvMem := rfl
@[simp] theorem State.modJob_nvQueue (id : Nat) (f : Job → Job) : (s.modJob id f).nvQueue = s.nvQueue := rfl
@[simp] theorem State.modJob_boot (id : Nat) (f : Job → Job) : (s.modJob id f).boot = s.boot := rfl
@[simp] theorem State.modJob_keys (id : Nat) (f : Job → Job) : (s.modJob id f).keys = s.keys := rfl
@[simp] theorem State.modJob_jtag (id : Nat) (f : Job → Job) : (s.modJob id f).jtag = s.jtag := rfl
@[simp] theorem State.modJob_pcie (id : Nat) (f : Job → Job) : (s.modJob id f).pcie = s.pcie := rfl
@[simp] theorem State.modJob_smbus (id : Nat) (f : Job → Job) : (s.modJob id f).smbus = s.smbus := rfl
@[simp] theorem State.modJob_alertLow (id : Nat) (f : Job → Job) : (s.modJob id f).alertLow = s.alertLow := rfl
@[simp] theorem State.modJob_thermTripLow (id : Nat) (f : Job → Job) : (s.modJob id f).thermTripLow = s.thermTripLow := rfl
@[simp] theorem State.modJob_mfgOpen (id : Nat) (f : Job → Job) : (s.modJob id f).mfgOpen = s.mfgOpen := rfl
@[simp] theorem State.modJob_keyInit (id : Nat) (f : Job → Job) : (s.modJob id f).keyInit = s.keyInit := rfl
@[simp] theorem State.modJob_fresh (id : Nat) (f : Job → Job) : (s.modJob id f).fresh = s.fresh := rfl
@[simp] theorem State.modJob_outbox (id : Nat) (f : Job → Job) : (s.modJob id f).outbox = s.outbox := rfl
@[simp] theorem State.modJob_pending (id : Nat) (f : Job → Job) : (s.modJob id f).pending = s.pending := rfl

/-! ### `State.send` -/

@[simp] theorem State.send_regs (m : Msg) : (s.send m).regs = s.regs := rfl
@[simp] theorem State.send_mem (m : Msg) : (s.send m).mem = s.mem := rfl
@[simp] theorem State.send_poison (m : Msg) : (s.send m).poison = s.poison := rfl
@[simp] theorem State.send_soft (m : Msg) : (s.send m).soft = s.soft := rfl
@[simp] theorem State.send_hostMem (m : Msg) : (s.send m).hostMem = s.hostMem := rfl
@[simp] theorem State.send_chambers (m : Msg) : (s.send m).chambers = s.chambers := rfl
@[simp] theorem State.send_gmem (m : Msg) : (s.send m).gmem = s.gmem := rfl
@[simp] theorem State.send_gpow (m : Msg) : (s.send m).gpow = s.gpow := rfl
@[simp] theorem State.send_caches (m : Msg) : (s.send m).caches = s.caches := rfl
@[simp] theorem State.send_sharers (m : Msg) : (s.send m).sharers = s.sharers := rfl
@[simp] theorem State.send_lost (m : Msg) : (s.send m).lost = s.lost := rfl
@[simp] theorem State.send_queues (m : Msg) : (s.send m).queues = s.queues := rfl
@[simp] theorem State.send_fetchRR (m : Msg) : (s.send m).fetchRR = s.fetchRR := rfl
@[simp] theorem State.send_outstanding (m : Msg) : (s.send m).outstanding = s.outstanding := rfl
@[simp] theorem State.send_outcomes (m : Msg) : (s.send m).outcomes = s.outcomes := rfl
@[simp] theorem State.send_jobs (m : Msg) : (s.send m).jobs = s.jobs := rfl
@[simp] theorem State.send_nextJob (m : Msg) : (s.send m).nextJob = s.nextJob := rfl
@[simp] theorem State.send_admitting (m : Msg) : (s.send m).admitting = s.admitting := rfl
@[simp] theorem State.send_hellos (m : Msg) : (s.send m).hellos = s.hellos := rfl
@[simp] theorem State.send_tensors (m : Msg) : (s.send m).tensors = s.tensors := rfl
@[simp] theorem State.send_groups (m : Msg) : (s.send m).groups = s.groups := rfl
@[simp] theorem State.send_plans (m : Msg) : (s.send m).plans = s.plans := rfl
@[simp] theorem State.send_batches (m : Msg) : (s.send m).batches = s.batches := rfl
@[simp] theorem State.send_progress (m : Msg) : (s.send m).progress = s.progress := rfl
@[simp] theorem State.send_halted (m : Msg) : (s.send m).halted = s.halted := rfl
@[simp] theorem State.send_contexts (m : Msg) : (s.send m).contexts = s.contexts := rfl
@[simp] theorem State.send_allocs (m : Msg) : (s.send m).allocs = s.allocs := rfl
@[simp] theorem State.send_retired (m : Msg) : (s.send m).retired = s.retired := rfl
@[simp] theorem State.send_withdrawn (m : Msg) : (s.send m).withdrawn = s.withdrawn := rfl
@[simp] theorem State.send_colls (m : Msg) : (s.send m).colls = s.colls := rfl
@[simp] theorem State.send_ports (m : Msg) : (s.send m).ports = s.ports := rfl
@[simp] theorem State.send_segments (m : Msg) : (s.send m).segments = s.segments := rfl
@[simp] theorem State.send_xfers (m : Msg) : (s.send m).xfers = s.xfers := rfl
@[simp] theorem State.send_nextXfer (m : Msg) : (s.send m).nextXfer = s.nextXfer := rfl
@[simp] theorem State.send_xferSources (m : Msg) : (s.send m).xferSources = s.xferSources := rfl
@[simp] theorem State.send_flows (m : Msg) : (s.send m).flows = s.flows := rfl
@[simp] theorem State.send_fine (m : Msg) : (s.send m).fine = s.fine := rfl
@[simp] theorem State.send_dieOffset (m : Msg) : (s.send m).dieOffset = s.dieOffset := rfl
@[simp] theorem State.send_refGood (m : Msg) : (s.send m).refGood = s.refGood := rfl
@[simp] theorem State.send_refFar (m : Msg) : (s.send m).refFar = s.refFar := rfl
@[simp] theorem State.send_slew (m : Msg) : (s.send m).slew = s.slew := rfl
@[simp] theorem State.send_slewTicks (m : Msg) : (s.send m).slewTicks = s.slewTicks := rfl
@[simp] theorem State.send_logs (m : Msg) : (s.send m).logs = s.logs := rfl
@[simp] theorem State.send_logSeq (m : Msg) : (s.send m).logSeq = s.logSeq := rfl
@[simp] theorem State.send_events (m : Msg) : (s.send m).events = s.events := rfl
@[simp] theorem State.send_recoveries (m : Msg) : (s.send m).recoveries = s.recoveries := rfl
@[simp] theorem State.send_failedLinks (m : Msg) : (s.send m).failedLinks = s.failedLinks := rfl
@[simp] theorem State.send_linkHolds (m : Msg) : (s.send m).linkHolds = s.linkHolds := rfl
@[simp] theorem State.send_junctionHolds (m : Msg) : (s.send m).junctionHolds = s.junctionHolds := rfl
@[simp] theorem State.send_probes (m : Msg) : (s.send m).probes = s.probes := rfl
@[simp] theorem State.send_mirrors (m : Msg) : (s.send m).mirrors = s.mirrors := rfl
@[simp] theorem State.send_portsFailedAt (m : Msg) : (s.send m).portsFailedAt = s.portsFailedAt := rfl
@[simp] theorem State.send_power (m : Msg) : (s.send m).power = s.power := rfl
@[simp] theorem State.send_nvMem (m : Msg) : (s.send m).nvMem = s.nvMem := rfl
@[simp] theorem State.send_nvQueue (m : Msg) : (s.send m).nvQueue = s.nvQueue := rfl
@[simp] theorem State.send_boot (m : Msg) : (s.send m).boot = s.boot := rfl
@[simp] theorem State.send_keys (m : Msg) : (s.send m).keys = s.keys := rfl
@[simp] theorem State.send_jtag (m : Msg) : (s.send m).jtag = s.jtag := rfl
@[simp] theorem State.send_pcie (m : Msg) : (s.send m).pcie = s.pcie := rfl
@[simp] theorem State.send_smbus (m : Msg) : (s.send m).smbus = s.smbus := rfl
@[simp] theorem State.send_alertLow (m : Msg) : (s.send m).alertLow = s.alertLow := rfl
@[simp] theorem State.send_thermTripLow (m : Msg) : (s.send m).thermTripLow = s.thermTripLow := rfl
@[simp] theorem State.send_mfgOpen (m : Msg) : (s.send m).mfgOpen = s.mfgOpen := rfl
@[simp] theorem State.send_keyInit (m : Msg) : (s.send m).keyInit = s.keyInit := rfl
@[simp] theorem State.send_fresh (m : Msg) : (s.send m).fresh = s.fresh := rfl
@[simp] theorem State.send_pending (m : Msg) : (s.send m).pending = s.pending := rfl

/-! ### `State.raise` -/

@[simp] theorem State.raise_regs (cls unit kind : Nat) (info : List Nat) : (s.raise cls unit kind info).regs = s.regs := rfl
@[simp] theorem State.raise_mem (cls unit kind : Nat) (info : List Nat) : (s.raise cls unit kind info).mem = s.mem := rfl
@[simp] theorem State.raise_poison (cls unit kind : Nat) (info : List Nat) : (s.raise cls unit kind info).poison = s.poison := rfl
@[simp] theorem State.raise_soft (cls unit kind : Nat) (info : List Nat) : (s.raise cls unit kind info).soft = s.soft := rfl
@[simp] theorem State.raise_hostMem (cls unit kind : Nat) (info : List Nat) : (s.raise cls unit kind info).hostMem = s.hostMem := rfl
@[simp] theorem State.raise_chambers (cls unit kind : Nat) (info : List Nat) : (s.raise cls unit kind info).chambers = s.chambers := rfl
@[simp] theorem State.raise_gmem (cls unit kind : Nat) (info : List Nat) : (s.raise cls unit kind info).gmem = s.gmem := rfl
@[simp] theorem State.raise_gpow (cls unit kind : Nat) (info : List Nat) : (s.raise cls unit kind info).gpow = s.gpow := rfl
@[simp] theorem State.raise_caches (cls unit kind : Nat) (info : List Nat) : (s.raise cls unit kind info).caches = s.caches := rfl
@[simp] theorem State.raise_sharers (cls unit kind : Nat) (info : List Nat) : (s.raise cls unit kind info).sharers = s.sharers := rfl
@[simp] theorem State.raise_lost (cls unit kind : Nat) (info : List Nat) : (s.raise cls unit kind info).lost = s.lost := rfl
@[simp] theorem State.raise_queues (cls unit kind : Nat) (info : List Nat) : (s.raise cls unit kind info).queues = s.queues := rfl
@[simp] theorem State.raise_fetchRR (cls unit kind : Nat) (info : List Nat) : (s.raise cls unit kind info).fetchRR = s.fetchRR := rfl
@[simp] theorem State.raise_outstanding (cls unit kind : Nat) (info : List Nat) : (s.raise cls unit kind info).outstanding = s.outstanding := rfl
@[simp] theorem State.raise_outcomes (cls unit kind : Nat) (info : List Nat) : (s.raise cls unit kind info).outcomes = s.outcomes := rfl
@[simp] theorem State.raise_jobs (cls unit kind : Nat) (info : List Nat) : (s.raise cls unit kind info).jobs = s.jobs := rfl
@[simp] theorem State.raise_nextJob (cls unit kind : Nat) (info : List Nat) : (s.raise cls unit kind info).nextJob = s.nextJob := rfl
@[simp] theorem State.raise_admitting (cls unit kind : Nat) (info : List Nat) : (s.raise cls unit kind info).admitting = s.admitting := rfl
@[simp] theorem State.raise_hellos (cls unit kind : Nat) (info : List Nat) : (s.raise cls unit kind info).hellos = s.hellos := rfl
@[simp] theorem State.raise_tensors (cls unit kind : Nat) (info : List Nat) : (s.raise cls unit kind info).tensors = s.tensors := rfl
@[simp] theorem State.raise_groups (cls unit kind : Nat) (info : List Nat) : (s.raise cls unit kind info).groups = s.groups := rfl
@[simp] theorem State.raise_plans (cls unit kind : Nat) (info : List Nat) : (s.raise cls unit kind info).plans = s.plans := rfl
@[simp] theorem State.raise_batches (cls unit kind : Nat) (info : List Nat) : (s.raise cls unit kind info).batches = s.batches := rfl
@[simp] theorem State.raise_progress (cls unit kind : Nat) (info : List Nat) : (s.raise cls unit kind info).progress = s.progress := rfl
@[simp] theorem State.raise_halted (cls unit kind : Nat) (info : List Nat) : (s.raise cls unit kind info).halted = s.halted := rfl
@[simp] theorem State.raise_contexts (cls unit kind : Nat) (info : List Nat) : (s.raise cls unit kind info).contexts = s.contexts := rfl
@[simp] theorem State.raise_allocs (cls unit kind : Nat) (info : List Nat) : (s.raise cls unit kind info).allocs = s.allocs := rfl
@[simp] theorem State.raise_retired (cls unit kind : Nat) (info : List Nat) : (s.raise cls unit kind info).retired = s.retired := rfl
@[simp] theorem State.raise_withdrawn (cls unit kind : Nat) (info : List Nat) : (s.raise cls unit kind info).withdrawn = s.withdrawn := rfl
@[simp] theorem State.raise_colls (cls unit kind : Nat) (info : List Nat) : (s.raise cls unit kind info).colls = s.colls := rfl
@[simp] theorem State.raise_ports (cls unit kind : Nat) (info : List Nat) : (s.raise cls unit kind info).ports = s.ports := rfl
@[simp] theorem State.raise_segments (cls unit kind : Nat) (info : List Nat) : (s.raise cls unit kind info).segments = s.segments := rfl
@[simp] theorem State.raise_xfers (cls unit kind : Nat) (info : List Nat) : (s.raise cls unit kind info).xfers = s.xfers := rfl
@[simp] theorem State.raise_nextXfer (cls unit kind : Nat) (info : List Nat) : (s.raise cls unit kind info).nextXfer = s.nextXfer := rfl
@[simp] theorem State.raise_xferSources (cls unit kind : Nat) (info : List Nat) : (s.raise cls unit kind info).xferSources = s.xferSources := rfl
@[simp] theorem State.raise_flows (cls unit kind : Nat) (info : List Nat) : (s.raise cls unit kind info).flows = s.flows := rfl
@[simp] theorem State.raise_fine (cls unit kind : Nat) (info : List Nat) : (s.raise cls unit kind info).fine = s.fine := rfl
@[simp] theorem State.raise_dieOffset (cls unit kind : Nat) (info : List Nat) : (s.raise cls unit kind info).dieOffset = s.dieOffset := rfl
@[simp] theorem State.raise_refGood (cls unit kind : Nat) (info : List Nat) : (s.raise cls unit kind info).refGood = s.refGood := rfl
@[simp] theorem State.raise_refFar (cls unit kind : Nat) (info : List Nat) : (s.raise cls unit kind info).refFar = s.refFar := rfl
@[simp] theorem State.raise_slew (cls unit kind : Nat) (info : List Nat) : (s.raise cls unit kind info).slew = s.slew := rfl
@[simp] theorem State.raise_slewTicks (cls unit kind : Nat) (info : List Nat) : (s.raise cls unit kind info).slewTicks = s.slewTicks := rfl
@[simp] theorem State.raise_logs (cls unit kind : Nat) (info : List Nat) : (s.raise cls unit kind info).logs = s.logs := rfl
@[simp] theorem State.raise_logSeq (cls unit kind : Nat) (info : List Nat) : (s.raise cls unit kind info).logSeq = s.logSeq := rfl
@[simp] theorem State.raise_recoveries (cls unit kind : Nat) (info : List Nat) : (s.raise cls unit kind info).recoveries = s.recoveries := rfl
@[simp] theorem State.raise_failedLinks (cls unit kind : Nat) (info : List Nat) : (s.raise cls unit kind info).failedLinks = s.failedLinks := rfl
@[simp] theorem State.raise_linkHolds (cls unit kind : Nat) (info : List Nat) : (s.raise cls unit kind info).linkHolds = s.linkHolds := rfl
@[simp] theorem State.raise_junctionHolds (cls unit kind : Nat) (info : List Nat) : (s.raise cls unit kind info).junctionHolds = s.junctionHolds := rfl
@[simp] theorem State.raise_probes (cls unit kind : Nat) (info : List Nat) : (s.raise cls unit kind info).probes = s.probes := rfl
@[simp] theorem State.raise_mirrors (cls unit kind : Nat) (info : List Nat) : (s.raise cls unit kind info).mirrors = s.mirrors := rfl
@[simp] theorem State.raise_portsFailedAt (cls unit kind : Nat) (info : List Nat) : (s.raise cls unit kind info).portsFailedAt = s.portsFailedAt := rfl
@[simp] theorem State.raise_power (cls unit kind : Nat) (info : List Nat) : (s.raise cls unit kind info).power = s.power := rfl
@[simp] theorem State.raise_nvMem (cls unit kind : Nat) (info : List Nat) : (s.raise cls unit kind info).nvMem = s.nvMem := rfl
@[simp] theorem State.raise_nvQueue (cls unit kind : Nat) (info : List Nat) : (s.raise cls unit kind info).nvQueue = s.nvQueue := rfl
@[simp] theorem State.raise_boot (cls unit kind : Nat) (info : List Nat) : (s.raise cls unit kind info).boot = s.boot := rfl
@[simp] theorem State.raise_keys (cls unit kind : Nat) (info : List Nat) : (s.raise cls unit kind info).keys = s.keys := rfl
@[simp] theorem State.raise_jtag (cls unit kind : Nat) (info : List Nat) : (s.raise cls unit kind info).jtag = s.jtag := rfl
@[simp] theorem State.raise_pcie (cls unit kind : Nat) (info : List Nat) : (s.raise cls unit kind info).pcie = s.pcie := rfl
@[simp] theorem State.raise_smbus (cls unit kind : Nat) (info : List Nat) : (s.raise cls unit kind info).smbus = s.smbus := rfl
@[simp] theorem State.raise_alertLow (cls unit kind : Nat) (info : List Nat) : (s.raise cls unit kind info).alertLow = s.alertLow := rfl
@[simp] theorem State.raise_thermTripLow (cls unit kind : Nat) (info : List Nat) : (s.raise cls unit kind info).thermTripLow = s.thermTripLow := rfl
@[simp] theorem State.raise_mfgOpen (cls unit kind : Nat) (info : List Nat) : (s.raise cls unit kind info).mfgOpen = s.mfgOpen := rfl
@[simp] theorem State.raise_keyInit (cls unit kind : Nat) (info : List Nat) : (s.raise cls unit kind info).keyInit = s.keyInit := rfl
@[simp] theorem State.raise_fresh (cls unit kind : Nat) (info : List Nat) : (s.raise cls unit kind info).fresh = s.fresh := rfl
@[simp] theorem State.raise_outbox (cls unit kind : Nat) (info : List Nat) : (s.raise cls unit kind info).outbox = s.outbox := rfl
@[simp] theorem State.raise_pending (cls unit kind : Nat) (info : List Nat) : (s.raise cls unit kind info).pending = s.pending := rfl

/-! ### Reads -/

@[simp] theorem State.byte_setReg (f : Field) (u i v : Nat) (a' : Nat) : (s.setReg f u i v).byte a' = s.byte a' := rfl
@[simp] theorem State.chamber_setReg (f : Field) (u i v : Nat) (c' : Nat) : (s.setReg f u i v).chamber c' = s.chamber c' := rfl
@[simp] theorem State.strand_setReg (f : Field) (u i v : Nat) (c' i' : Nat) : (s.setReg f u i v).strand c' i' = s.strand c' i' := rfl
@[simp] theorem State.gallery_setReg (f : Field) (u i v : Nat) (g' : Nat) : (s.setReg f u i v).gallery g' = s.gallery g' := rfl
@[simp] theorem State.cache_setReg (f : Field) (u i v : Nat) (g' : Nat) : (s.setReg f u i v).cache g' = s.cache g' := rfl
@[simp] theorem State.sharer_setReg (f : Field) (u i v : Nat) (k' : Nat) : (s.setReg f u i v).sharer k' = s.sharer k' := rfl
@[simp] theorem State.galPower_setReg (f : Field) (u i v : Nat) (g' : Nat) : (s.setReg f u i v).galPower g' = s.galPower g' := rfl
@[simp] theorem State.queue_setReg (f : Field) (u i v : Nat) (q' : Nat) : (s.setReg f u i v).queue q' = s.queue q' := rfl
@[simp] theorem State.port_setReg (f : Field) (u i v : Nat) (p' : Nat) : (s.setReg f u i v).port p' = s.port p' := rfl
@[simp] theorem State.jobOf_setReg (f : Field) (u i v : Nat) (id' : Nat) : (s.setReg f u i v).job? id' = s.job? id' := rfl
@[simp] theorem State.isOut_setReg (f : Field) (u i v : Nat) (h' : Cmd) : (s.setReg f u i v).isOut h' = s.isOut h' := rfl
@[simp] theorem State.reg_setChamber (c : Nat) (x : Chamber) (f' : Field) (u' i' : Nat) : (s.setChamber c x).reg f' u' i' = s.reg f' u' i' := rfl
@[simp] theorem State.now_setChamber (c : Nat) (x : Chamber)  : (s.setChamber c x).now  = s.now  := rfl
@[simp] theorem State.byte_setChamber (c : Nat) (x : Chamber) (a' : Nat) : (s.setChamber c x).byte a' = s.byte a' := rfl
@[simp] theorem State.bytes_setChamber (c : Nat) (x : Chamber) (a' n' : Nat) : (s.setChamber c x).bytes a' n' = s.bytes a' n' := rfl
@[simp] theorem State.num_setChamber (c : Nat) (x : Chamber) (a' n' : Nat) : (s.setChamber c x).num a' n' = s.num a' n' := rfl
@[simp] theorem State.gallery_setChamber (c : Nat) (x : Chamber) (g' : Nat) : (s.setChamber c x).gallery g' = s.gallery g' := rfl
@[simp] theorem State.cache_setChamber (c : Nat) (x : Chamber) (g' : Nat) : (s.setChamber c x).cache g' = s.cache g' := rfl
@[simp] theorem State.sharer_setChamber (c : Nat) (x : Chamber) (k' : Nat) : (s.setChamber c x).sharer k' = s.sharer k' := rfl
@[simp] theorem State.galPower_setChamber (c : Nat) (x : Chamber) (g' : Nat) : (s.setChamber c x).galPower g' = s.galPower g' := rfl
@[simp] theorem State.queue_setChamber (c : Nat) (x : Chamber) (q' : Nat) : (s.setChamber c x).queue q' = s.queue q' := rfl
@[simp] theorem State.port_setChamber (c : Nat) (x : Chamber) (p' : Nat) : (s.setChamber c x).port p' = s.port p' := rfl
@[simp] theorem State.jobOf_setChamber (c : Nat) (x : Chamber) (id' : Nat) : (s.setChamber c x).job? id' = s.job? id' := rfl
@[simp] theorem State.isOut_setChamber (c : Nat) (x : Chamber) (h' : Cmd) : (s.setChamber c x).isOut h' = s.isOut h' := rfl
@[simp] theorem State.reg_modChamber (c : Nat) (f : Chamber → Chamber) (f' : Field) (u' i' : Nat) : (s.modChamber c f).reg f' u' i' = s.reg f' u' i' := rfl
@[simp] theorem State.now_modChamber (c : Nat) (f : Chamber → Chamber)  : (s.modChamber c f).now  = s.now  := rfl
@[simp] theorem State.byte_modChamber (c : Nat) (f : Chamber → Chamber) (a' : Nat) : (s.modChamber c f).byte a' = s.byte a' := rfl
@[simp] theorem State.bytes_modChamber (c : Nat) (f : Chamber → Chamber) (a' n' : Nat) : (s.modChamber c f).bytes a' n' = s.bytes a' n' := rfl
@[simp] theorem State.num_modChamber (c : Nat) (f : Chamber → Chamber) (a' n' : Nat) : (s.modChamber c f).num a' n' = s.num a' n' := rfl
@[simp] theorem State.gallery_modChamber (c : Nat) (f : Chamber → Chamber) (g' : Nat) : (s.modChamber c f).gallery g' = s.gallery g' := rfl
@[simp] theorem State.cache_modChamber (c : Nat) (f : Chamber → Chamber) (g' : Nat) : (s.modChamber c f).cache g' = s.cache g' := rfl
@[simp] theorem State.sharer_modChamber (c : Nat) (f : Chamber → Chamber) (k' : Nat) : (s.modChamber c f).sharer k' = s.sharer k' := rfl
@[simp] theorem State.galPower_modChamber (c : Nat) (f : Chamber → Chamber) (g' : Nat) : (s.modChamber c f).galPower g' = s.galPower g' := rfl
@[simp] theorem State.queue_modChamber (c : Nat) (f : Chamber → Chamber) (q' : Nat) : (s.modChamber c f).queue q' = s.queue q' := rfl
@[simp] theorem State.port_modChamber (c : Nat) (f : Chamber → Chamber) (p' : Nat) : (s.modChamber c f).port p' = s.port p' := rfl
@[simp] theorem State.jobOf_modChamber (c : Nat) (f : Chamber → Chamber) (id' : Nat) : (s.modChamber c f).job? id' = s.job? id' := rfl
@[simp] theorem State.isOut_modChamber (c : Nat) (f : Chamber → Chamber) (h' : Cmd) : (s.modChamber c f).isOut h' = s.isOut h' := rfl
@[simp] theorem State.reg_modStrand (c i : Nat) (f : Strand → Strand) (f' : Field) (u' i' : Nat) : (s.modStrand c i f).reg f' u' i' = s.reg f' u' i' := rfl
@[simp] theorem State.now_modStrand (c i : Nat) (f : Strand → Strand)  : (s.modStrand c i f).now  = s.now  := rfl
@[simp] theorem State.byte_modStrand (c i : Nat) (f : Strand → Strand) (a' : Nat) : (s.modStrand c i f).byte a' = s.byte a' := rfl
@[simp] theorem State.bytes_modStrand (c i : Nat) (f : Strand → Strand) (a' n' : Nat) : (s.modStrand c i f).bytes a' n' = s.bytes a' n' := rfl
@[simp] theorem State.num_modStrand (c i : Nat) (f : Strand → Strand) (a' n' : Nat) : (s.modStrand c i f).num a' n' = s.num a' n' := rfl
@[simp] theorem State.gallery_modStrand (c i : Nat) (f : Strand → Strand) (g' : Nat) : (s.modStrand c i f).gallery g' = s.gallery g' := rfl
@[simp] theorem State.cache_modStrand (c i : Nat) (f : Strand → Strand) (g' : Nat) : (s.modStrand c i f).cache g' = s.cache g' := rfl
@[simp] theorem State.sharer_modStrand (c i : Nat) (f : Strand → Strand) (k' : Nat) : (s.modStrand c i f).sharer k' = s.sharer k' := rfl
@[simp] theorem State.galPower_modStrand (c i : Nat) (f : Strand → Strand) (g' : Nat) : (s.modStrand c i f).galPower g' = s.galPower g' := rfl
@[simp] theorem State.queue_modStrand (c i : Nat) (f : Strand → Strand) (q' : Nat) : (s.modStrand c i f).queue q' = s.queue q' := rfl
@[simp] theorem State.port_modStrand (c i : Nat) (f : Strand → Strand) (p' : Nat) : (s.modStrand c i f).port p' = s.port p' := rfl
@[simp] theorem State.jobOf_modStrand (c i : Nat) (f : Strand → Strand) (id' : Nat) : (s.modStrand c i f).job? id' = s.job? id' := rfl
@[simp] theorem State.isOut_modStrand (c i : Nat) (f : Strand → Strand) (h' : Cmd) : (s.modStrand c i f).isOut h' = s.isOut h' := rfl
@[simp] theorem State.reg_modBank (c b : Nat) (f : BankData → BankData) (f' : Field) (u' i' : Nat) : (s.modBank c b f).reg f' u' i' = s.reg f' u' i' := rfl
@[simp] theorem State.now_modBank (c b : Nat) (f : BankData → BankData)  : (s.modBank c b f).now  = s.now  := rfl
@[simp] theorem State.byte_modBank (c b : Nat) (f : BankData → BankData) (a' : Nat) : (s.modBank c b f).byte a' = s.byte a' := rfl
@[simp] theorem State.bytes_modBank (c b : Nat) (f : BankData → BankData) (a' n' : Nat) : (s.modBank c b f).bytes a' n' = s.bytes a' n' := rfl
@[simp] theorem State.num_modBank (c b : Nat) (f : BankData → BankData) (a' n' : Nat) : (s.modBank c b f).num a' n' = s.num a' n' := rfl
@[simp] theorem State.gallery_modBank (c b : Nat) (f : BankData → BankData) (g' : Nat) : (s.modBank c b f).gallery g' = s.gallery g' := rfl
@[simp] theorem State.cache_modBank (c b : Nat) (f : BankData → BankData) (g' : Nat) : (s.modBank c b f).cache g' = s.cache g' := rfl
@[simp] theorem State.sharer_modBank (c b : Nat) (f : BankData → BankData) (k' : Nat) : (s.modBank c b f).sharer k' = s.sharer k' := rfl
@[simp] theorem State.galPower_modBank (c b : Nat) (f : BankData → BankData) (g' : Nat) : (s.modBank c b f).galPower g' = s.galPower g' := rfl
@[simp] theorem State.queue_modBank (c b : Nat) (f : BankData → BankData) (q' : Nat) : (s.modBank c b f).queue q' = s.queue q' := rfl
@[simp] theorem State.port_modBank (c b : Nat) (f : BankData → BankData) (p' : Nat) : (s.modBank c b f).port p' = s.port p' := rfl
@[simp] theorem State.jobOf_modBank (c b : Nat) (f : BankData → BankData) (id' : Nat) : (s.modBank c b f).job? id' = s.job? id' := rfl
@[simp] theorem State.isOut_modBank (c b : Nat) (f : BankData → BankData) (h' : Cmd) : (s.modBank c b f).isOut h' = s.isOut h' := rfl
@[simp] theorem State.reg_write (a : Nat) (bs : List Byte) (f' : Field) (u' i' : Nat) : (s.write a bs).reg f' u' i' = s.reg f' u' i' := rfl
@[simp] theorem State.now_write (a : Nat) (bs : List Byte)  : (s.write a bs).now  = s.now  := rfl
@[simp] theorem State.chamber_write (a : Nat) (bs : List Byte) (c' : Nat) : (s.write a bs).chamber c' = s.chamber c' := rfl
@[simp] theorem State.strand_write (a : Nat) (bs : List Byte) (c' i' : Nat) : (s.write a bs).strand c' i' = s.strand c' i' := rfl
@[simp] theorem State.gallery_write (a : Nat) (bs : List Byte) (g' : Nat) : (s.write a bs).gallery g' = s.gallery g' := rfl
@[simp] theorem State.cache_write (a : Nat) (bs : List Byte) (g' : Nat) : (s.write a bs).cache g' = s.cache g' := rfl
@[simp] theorem State.sharer_write (a : Nat) (bs : List Byte) (k' : Nat) : (s.write a bs).sharer k' = s.sharer k' := rfl
@[simp] theorem State.galPower_write (a : Nat) (bs : List Byte) (g' : Nat) : (s.write a bs).galPower g' = s.galPower g' := rfl
@[simp] theorem State.queue_write (a : Nat) (bs : List Byte) (q' : Nat) : (s.write a bs).queue q' = s.queue q' := rfl
@[simp] theorem State.port_write (a : Nat) (bs : List Byte) (p' : Nat) : (s.write a bs).port p' = s.port p' := rfl
@[simp] theorem State.jobOf_write (a : Nat) (bs : List Byte) (id' : Nat) : (s.write a bs).job? id' = s.job? id' := rfl
@[simp] theorem State.isOut_write (a : Nat) (bs : List Byte) (h' : Cmd) : (s.write a bs).isOut h' = s.isOut h' := rfl
@[simp] theorem State.reg_markPoison (a n : Nat) (f' : Field) (u' i' : Nat) : (s.markPoison a n).reg f' u' i' = s.reg f' u' i' := rfl
@[simp] theorem State.now_markPoison (a n : Nat)  : (s.markPoison a n).now  = s.now  := rfl
@[simp] theorem State.byte_markPoison (a n : Nat) (a' : Nat) : (s.markPoison a n).byte a' = s.byte a' := rfl
@[simp] theorem State.bytes_markPoison (a n : Nat) (a' n' : Nat) : (s.markPoison a n).bytes a' n' = s.bytes a' n' := rfl
@[simp] theorem State.num_markPoison (a n : Nat) (a' n' : Nat) : (s.markPoison a n).num a' n' = s.num a' n' := rfl
@[simp] theorem State.chamber_markPoison (a n : Nat) (c' : Nat) : (s.markPoison a n).chamber c' = s.chamber c' := rfl
@[simp] theorem State.strand_markPoison (a n : Nat) (c' i' : Nat) : (s.markPoison a n).strand c' i' = s.strand c' i' := rfl
@[simp] theorem State.gallery_markPoison (a n : Nat) (g' : Nat) : (s.markPoison a n).gallery g' = s.gallery g' := rfl
@[simp] theorem State.cache_markPoison (a n : Nat) (g' : Nat) : (s.markPoison a n).cache g' = s.cache g' := rfl
@[simp] theorem State.sharer_markPoison (a n : Nat) (k' : Nat) : (s.markPoison a n).sharer k' = s.sharer k' := rfl
@[simp] theorem State.galPower_markPoison (a n : Nat) (g' : Nat) : (s.markPoison a n).galPower g' = s.galPower g' := rfl
@[simp] theorem State.queue_markPoison (a n : Nat) (q' : Nat) : (s.markPoison a n).queue q' = s.queue q' := rfl
@[simp] theorem State.port_markPoison (a n : Nat) (p' : Nat) : (s.markPoison a n).port p' = s.port p' := rfl
@[simp] theorem State.jobOf_markPoison (a n : Nat) (id' : Nat) : (s.markPoison a n).job? id' = s.job? id' := rfl
@[simp] theorem State.isOut_markPoison (a n : Nat) (h' : Cmd) : (s.markPoison a n).isOut h' = s.isOut h' := rfl
@[simp] theorem State.reg_hostWrite (a : Nat) (bs : List Byte) (f' : Field) (u' i' : Nat) : (s.hostWrite a bs).reg f' u' i' = s.reg f' u' i' := rfl
@[simp] theorem State.now_hostWrite (a : Nat) (bs : List Byte)  : (s.hostWrite a bs).now  = s.now  := rfl
@[simp] theorem State.byte_hostWrite (a : Nat) (bs : List Byte) (a' : Nat) : (s.hostWrite a bs).byte a' = s.byte a' := rfl
@[simp] theorem State.bytes_hostWrite (a : Nat) (bs : List Byte) (a' n' : Nat) : (s.hostWrite a bs).bytes a' n' = s.bytes a' n' := rfl
@[simp] theorem State.num_hostWrite (a : Nat) (bs : List Byte) (a' n' : Nat) : (s.hostWrite a bs).num a' n' = s.num a' n' := rfl
@[simp] theorem State.chamber_hostWrite (a : Nat) (bs : List Byte) (c' : Nat) : (s.hostWrite a bs).chamber c' = s.chamber c' := rfl
@[simp] theorem State.strand_hostWrite (a : Nat) (bs : List Byte) (c' i' : Nat) : (s.hostWrite a bs).strand c' i' = s.strand c' i' := rfl
@[simp] theorem State.gallery_hostWrite (a : Nat) (bs : List Byte) (g' : Nat) : (s.hostWrite a bs).gallery g' = s.gallery g' := rfl
@[simp] theorem State.cache_hostWrite (a : Nat) (bs : List Byte) (g' : Nat) : (s.hostWrite a bs).cache g' = s.cache g' := rfl
@[simp] theorem State.sharer_hostWrite (a : Nat) (bs : List Byte) (k' : Nat) : (s.hostWrite a bs).sharer k' = s.sharer k' := rfl
@[simp] theorem State.galPower_hostWrite (a : Nat) (bs : List Byte) (g' : Nat) : (s.hostWrite a bs).galPower g' = s.galPower g' := rfl
@[simp] theorem State.queue_hostWrite (a : Nat) (bs : List Byte) (q' : Nat) : (s.hostWrite a bs).queue q' = s.queue q' := rfl
@[simp] theorem State.port_hostWrite (a : Nat) (bs : List Byte) (p' : Nat) : (s.hostWrite a bs).port p' = s.port p' := rfl
@[simp] theorem State.jobOf_hostWrite (a : Nat) (bs : List Byte) (id' : Nat) : (s.hostWrite a bs).job? id' = s.job? id' := rfl
@[simp] theorem State.isOut_hostWrite (a : Nat) (bs : List Byte) (h' : Cmd) : (s.hostWrite a bs).isOut h' = s.isOut h' := rfl
@[simp] theorem State.reg_modGallery (g : Nat) (f : GalleryMem → GalleryMem) (f' : Field) (u' i' : Nat) : (s.modGallery g f).reg f' u' i' = s.reg f' u' i' := rfl
@[simp] theorem State.now_modGallery (g : Nat) (f : GalleryMem → GalleryMem)  : (s.modGallery g f).now  = s.now  := rfl
@[simp] theorem State.byte_modGallery (g : Nat) (f : GalleryMem → GalleryMem) (a' : Nat) : (s.modGallery g f).byte a' = s.byte a' := rfl
@[simp] theorem State.bytes_modGallery (g : Nat) (f : GalleryMem → GalleryMem) (a' n' : Nat) : (s.modGallery g f).bytes a' n' = s.bytes a' n' := rfl
@[simp] theorem State.num_modGallery (g : Nat) (f : GalleryMem → GalleryMem) (a' n' : Nat) : (s.modGallery g f).num a' n' = s.num a' n' := rfl
@[simp] theorem State.chamber_modGallery (g : Nat) (f : GalleryMem → GalleryMem) (c' : Nat) : (s.modGallery g f).chamber c' = s.chamber c' := rfl
@[simp] theorem State.strand_modGallery (g : Nat) (f : GalleryMem → GalleryMem) (c' i' : Nat) : (s.modGallery g f).strand c' i' = s.strand c' i' := rfl
@[simp] theorem State.cache_modGallery (g : Nat) (f : GalleryMem → GalleryMem) (g' : Nat) : (s.modGallery g f).cache g' = s.cache g' := rfl
@[simp] theorem State.sharer_modGallery (g : Nat) (f : GalleryMem → GalleryMem) (k' : Nat) : (s.modGallery g f).sharer k' = s.sharer k' := rfl
@[simp] theorem State.galPower_modGallery (g : Nat) (f : GalleryMem → GalleryMem) (g' : Nat) : (s.modGallery g f).galPower g' = s.galPower g' := rfl
@[simp] theorem State.queue_modGallery (g : Nat) (f : GalleryMem → GalleryMem) (q' : Nat) : (s.modGallery g f).queue q' = s.queue q' := rfl
@[simp] theorem State.port_modGallery (g : Nat) (f : GalleryMem → GalleryMem) (p' : Nat) : (s.modGallery g f).port p' = s.port p' := rfl
@[simp] theorem State.jobOf_modGallery (g : Nat) (f : GalleryMem → GalleryMem) (id' : Nat) : (s.modGallery g f).job? id' = s.job? id' := rfl
@[simp] theorem State.isOut_modGallery (g : Nat) (f : GalleryMem → GalleryMem) (h' : Cmd) : (s.modGallery g f).isOut h' = s.isOut h' := rfl
@[simp] theorem State.reg_setCache (g : Nat) (x : GalleryCache) (f' : Field) (u' i' : Nat) : (s.setCache g x).reg f' u' i' = s.reg f' u' i' := rfl
@[simp] theorem State.now_setCache (g : Nat) (x : GalleryCache)  : (s.setCache g x).now  = s.now  := rfl
@[simp] theorem State.byte_setCache (g : Nat) (x : GalleryCache) (a' : Nat) : (s.setCache g x).byte a' = s.byte a' := rfl
@[simp] theorem State.bytes_setCache (g : Nat) (x : GalleryCache) (a' n' : Nat) : (s.setCache g x).bytes a' n' = s.bytes a' n' := rfl
@[simp] theorem State.num_setCache (g : Nat) (x : GalleryCache) (a' n' : Nat) : (s.setCache g x).num a' n' = s.num a' n' := rfl
@[simp] theorem State.chamber_setCache (g : Nat) (x : GalleryCache) (c' : Nat) : (s.setCache g x).chamber c' = s.chamber c' := rfl
@[simp] theorem State.strand_setCache (g : Nat) (x : GalleryCache) (c' i' : Nat) : (s.setCache g x).strand c' i' = s.strand c' i' := rfl
@[simp] theorem State.gallery_setCache (g : Nat) (x : GalleryCache) (g' : Nat) : (s.setCache g x).gallery g' = s.gallery g' := rfl
@[simp] theorem State.sharer_setCache (g : Nat) (x : GalleryCache) (k' : Nat) : (s.setCache g x).sharer k' = s.sharer k' := rfl
@[simp] theorem State.galPower_setCache (g : Nat) (x : GalleryCache) (g' : Nat) : (s.setCache g x).galPower g' = s.galPower g' := rfl
@[simp] theorem State.queue_setCache (g : Nat) (x : GalleryCache) (q' : Nat) : (s.setCache g x).queue q' = s.queue q' := rfl
@[simp] theorem State.port_setCache (g : Nat) (x : GalleryCache) (p' : Nat) : (s.setCache g x).port p' = s.port p' := rfl
@[simp] theorem State.jobOf_setCache (g : Nat) (x : GalleryCache) (id' : Nat) : (s.setCache g x).job? id' = s.job? id' := rfl
@[simp] theorem State.isOut_setCache (g : Nat) (x : GalleryCache) (h' : Cmd) : (s.setCache g x).isOut h' = s.isOut h' := rfl
@[simp] theorem State.reg_setSharer (k : Nat) (x : SharerFilter) (f' : Field) (u' i' : Nat) : (s.setSharer k x).reg f' u' i' = s.reg f' u' i' := rfl
@[simp] theorem State.now_setSharer (k : Nat) (x : SharerFilter)  : (s.setSharer k x).now  = s.now  := rfl
@[simp] theorem State.byte_setSharer (k : Nat) (x : SharerFilter) (a' : Nat) : (s.setSharer k x).byte a' = s.byte a' := rfl
@[simp] theorem State.bytes_setSharer (k : Nat) (x : SharerFilter) (a' n' : Nat) : (s.setSharer k x).bytes a' n' = s.bytes a' n' := rfl
@[simp] theorem State.num_setSharer (k : Nat) (x : SharerFilter) (a' n' : Nat) : (s.setSharer k x).num a' n' = s.num a' n' := rfl
@[simp] theorem State.chamber_setSharer (k : Nat) (x : SharerFilter) (c' : Nat) : (s.setSharer k x).chamber c' = s.chamber c' := rfl
@[simp] theorem State.strand_setSharer (k : Nat) (x : SharerFilter) (c' i' : Nat) : (s.setSharer k x).strand c' i' = s.strand c' i' := rfl
@[simp] theorem State.gallery_setSharer (k : Nat) (x : SharerFilter) (g' : Nat) : (s.setSharer k x).gallery g' = s.gallery g' := rfl
@[simp] theorem State.cache_setSharer (k : Nat) (x : SharerFilter) (g' : Nat) : (s.setSharer k x).cache g' = s.cache g' := rfl
@[simp] theorem State.galPower_setSharer (k : Nat) (x : SharerFilter) (g' : Nat) : (s.setSharer k x).galPower g' = s.galPower g' := rfl
@[simp] theorem State.queue_setSharer (k : Nat) (x : SharerFilter) (q' : Nat) : (s.setSharer k x).queue q' = s.queue q' := rfl
@[simp] theorem State.port_setSharer (k : Nat) (x : SharerFilter) (p' : Nat) : (s.setSharer k x).port p' = s.port p' := rfl
@[simp] theorem State.jobOf_setSharer (k : Nat) (x : SharerFilter) (id' : Nat) : (s.setSharer k x).job? id' = s.job? id' := rfl
@[simp] theorem State.isOut_setSharer (k : Nat) (x : SharerFilter) (h' : Cmd) : (s.setSharer k x).isOut h' = s.isOut h' := rfl
@[simp] theorem State.reg_modGalPower (g : Nat) (f : GalleryPower → GalleryPower) (f' : Field) (u' i' : Nat) : (s.modGalPower g f).reg f' u' i' = s.reg f' u' i' := rfl
@[simp] theorem State.now_modGalPower (g : Nat) (f : GalleryPower → GalleryPower)  : (s.modGalPower g f).now  = s.now  := rfl
@[simp] theorem State.byte_modGalPower (g : Nat) (f : GalleryPower → GalleryPower) (a' : Nat) : (s.modGalPower g f).byte a' = s.byte a' := rfl
@[simp] theorem State.bytes_modGalPower (g : Nat) (f : GalleryPower → GalleryPower) (a' n' : Nat) : (s.modGalPower g f).bytes a' n' = s.bytes a' n' := rfl
@[simp] theorem State.num_modGalPower (g : Nat) (f : GalleryPower → GalleryPower) (a' n' : Nat) : (s.modGalPower g f).num a' n' = s.num a' n' := rfl
@[simp] theorem State.chamber_modGalPower (g : Nat) (f : GalleryPower → GalleryPower) (c' : Nat) : (s.modGalPower g f).chamber c' = s.chamber c' := rfl
@[simp] theorem State.strand_modGalPower (g : Nat) (f : GalleryPower → GalleryPower) (c' i' : Nat) : (s.modGalPower g f).strand c' i' = s.strand c' i' := rfl
@[simp] theorem State.gallery_modGalPower (g : Nat) (f : GalleryPower → GalleryPower) (g' : Nat) : (s.modGalPower g f).gallery g' = s.gallery g' := rfl
@[simp] theorem State.cache_modGalPower (g : Nat) (f : GalleryPower → GalleryPower) (g' : Nat) : (s.modGalPower g f).cache g' = s.cache g' := rfl
@[simp] theorem State.sharer_modGalPower (g : Nat) (f : GalleryPower → GalleryPower) (k' : Nat) : (s.modGalPower g f).sharer k' = s.sharer k' := rfl
@[simp] theorem State.queue_modGalPower (g : Nat) (f : GalleryPower → GalleryPower) (q' : Nat) : (s.modGalPower g f).queue q' = s.queue q' := rfl
@[simp] theorem State.port_modGalPower (g : Nat) (f : GalleryPower → GalleryPower) (p' : Nat) : (s.modGalPower g f).port p' = s.port p' := rfl
@[simp] theorem State.jobOf_modGalPower (g : Nat) (f : GalleryPower → GalleryPower) (id' : Nat) : (s.modGalPower g f).job? id' = s.job? id' := rfl
@[simp] theorem State.isOut_modGalPower (g : Nat) (f : GalleryPower → GalleryPower) (h' : Cmd) : (s.modGalPower g f).isOut h' = s.isOut h' := rfl
@[simp] theorem State.reg_modQueue (q : Nat) (f : Queue → Queue) (f' : Field) (u' i' : Nat) : (s.modQueue q f).reg f' u' i' = s.reg f' u' i' := rfl
@[simp] theorem State.now_modQueue (q : Nat) (f : Queue → Queue)  : (s.modQueue q f).now  = s.now  := rfl
@[simp] theorem State.byte_modQueue (q : Nat) (f : Queue → Queue) (a' : Nat) : (s.modQueue q f).byte a' = s.byte a' := rfl
@[simp] theorem State.bytes_modQueue (q : Nat) (f : Queue → Queue) (a' n' : Nat) : (s.modQueue q f).bytes a' n' = s.bytes a' n' := rfl
@[simp] theorem State.num_modQueue (q : Nat) (f : Queue → Queue) (a' n' : Nat) : (s.modQueue q f).num a' n' = s.num a' n' := rfl
@[simp] theorem State.chamber_modQueue (q : Nat) (f : Queue → Queue) (c' : Nat) : (s.modQueue q f).chamber c' = s.chamber c' := rfl
@[simp] theorem State.strand_modQueue (q : Nat) (f : Queue → Queue) (c' i' : Nat) : (s.modQueue q f).strand c' i' = s.strand c' i' := rfl
@[simp] theorem State.gallery_modQueue (q : Nat) (f : Queue → Queue) (g' : Nat) : (s.modQueue q f).gallery g' = s.gallery g' := rfl
@[simp] theorem State.cache_modQueue (q : Nat) (f : Queue → Queue) (g' : Nat) : (s.modQueue q f).cache g' = s.cache g' := rfl
@[simp] theorem State.sharer_modQueue (q : Nat) (f : Queue → Queue) (k' : Nat) : (s.modQueue q f).sharer k' = s.sharer k' := rfl
@[simp] theorem State.galPower_modQueue (q : Nat) (f : Queue → Queue) (g' : Nat) : (s.modQueue q f).galPower g' = s.galPower g' := rfl
@[simp] theorem State.port_modQueue (q : Nat) (f : Queue → Queue) (p' : Nat) : (s.modQueue q f).port p' = s.port p' := rfl
@[simp] theorem State.jobOf_modQueue (q : Nat) (f : Queue → Queue) (id' : Nat) : (s.modQueue q f).job? id' = s.job? id' := rfl
@[simp] theorem State.isOut_modQueue (q : Nat) (f : Queue → Queue) (h' : Cmd) : (s.modQueue q f).isOut h' = s.isOut h' := rfl
@[simp] theorem State.reg_modPort (p : Nat) (f : Port → Port) (f' : Field) (u' i' : Nat) : (s.modPort p f).reg f' u' i' = s.reg f' u' i' := rfl
@[simp] theorem State.now_modPort (p : Nat) (f : Port → Port)  : (s.modPort p f).now  = s.now  := rfl
@[simp] theorem State.byte_modPort (p : Nat) (f : Port → Port) (a' : Nat) : (s.modPort p f).byte a' = s.byte a' := rfl
@[simp] theorem State.bytes_modPort (p : Nat) (f : Port → Port) (a' n' : Nat) : (s.modPort p f).bytes a' n' = s.bytes a' n' := rfl
@[simp] theorem State.num_modPort (p : Nat) (f : Port → Port) (a' n' : Nat) : (s.modPort p f).num a' n' = s.num a' n' := rfl
@[simp] theorem State.chamber_modPort (p : Nat) (f : Port → Port) (c' : Nat) : (s.modPort p f).chamber c' = s.chamber c' := rfl
@[simp] theorem State.strand_modPort (p : Nat) (f : Port → Port) (c' i' : Nat) : (s.modPort p f).strand c' i' = s.strand c' i' := rfl
@[simp] theorem State.gallery_modPort (p : Nat) (f : Port → Port) (g' : Nat) : (s.modPort p f).gallery g' = s.gallery g' := rfl
@[simp] theorem State.cache_modPort (p : Nat) (f : Port → Port) (g' : Nat) : (s.modPort p f).cache g' = s.cache g' := rfl
@[simp] theorem State.sharer_modPort (p : Nat) (f : Port → Port) (k' : Nat) : (s.modPort p f).sharer k' = s.sharer k' := rfl
@[simp] theorem State.galPower_modPort (p : Nat) (f : Port → Port) (g' : Nat) : (s.modPort p f).galPower g' = s.galPower g' := rfl
@[simp] theorem State.queue_modPort (p : Nat) (f : Port → Port) (q' : Nat) : (s.modPort p f).queue q' = s.queue q' := rfl
@[simp] theorem State.jobOf_modPort (p : Nat) (f : Port → Port) (id' : Nat) : (s.modPort p f).job? id' = s.job? id' := rfl
@[simp] theorem State.isOut_modPort (p : Nat) (f : Port → Port) (h' : Cmd) : (s.modPort p f).isOut h' = s.isOut h' := rfl
@[simp] theorem State.reg_modJob (id : Nat) (f : Job → Job) (f' : Field) (u' i' : Nat) : (s.modJob id f).reg f' u' i' = s.reg f' u' i' := rfl
@[simp] theorem State.now_modJob (id : Nat) (f : Job → Job)  : (s.modJob id f).now  = s.now  := rfl
@[simp] theorem State.byte_modJob (id : Nat) (f : Job → Job) (a' : Nat) : (s.modJob id f).byte a' = s.byte a' := rfl
@[simp] theorem State.bytes_modJob (id : Nat) (f : Job → Job) (a' n' : Nat) : (s.modJob id f).bytes a' n' = s.bytes a' n' := rfl
@[simp] theorem State.num_modJob (id : Nat) (f : Job → Job) (a' n' : Nat) : (s.modJob id f).num a' n' = s.num a' n' := rfl
@[simp] theorem State.chamber_modJob (id : Nat) (f : Job → Job) (c' : Nat) : (s.modJob id f).chamber c' = s.chamber c' := rfl
@[simp] theorem State.strand_modJob (id : Nat) (f : Job → Job) (c' i' : Nat) : (s.modJob id f).strand c' i' = s.strand c' i' := rfl
@[simp] theorem State.gallery_modJob (id : Nat) (f : Job → Job) (g' : Nat) : (s.modJob id f).gallery g' = s.gallery g' := rfl
@[simp] theorem State.cache_modJob (id : Nat) (f : Job → Job) (g' : Nat) : (s.modJob id f).cache g' = s.cache g' := rfl
@[simp] theorem State.sharer_modJob (id : Nat) (f : Job → Job) (k' : Nat) : (s.modJob id f).sharer k' = s.sharer k' := rfl
@[simp] theorem State.galPower_modJob (id : Nat) (f : Job → Job) (g' : Nat) : (s.modJob id f).galPower g' = s.galPower g' := rfl
@[simp] theorem State.queue_modJob (id : Nat) (f : Job → Job) (q' : Nat) : (s.modJob id f).queue q' = s.queue q' := rfl
@[simp] theorem State.port_modJob (id : Nat) (f : Job → Job) (p' : Nat) : (s.modJob id f).port p' = s.port p' := rfl
@[simp] theorem State.isOut_modJob (id : Nat) (f : Job → Job) (h' : Cmd) : (s.modJob id f).isOut h' = s.isOut h' := rfl
@[simp] theorem State.reg_send (m : Msg) (f' : Field) (u' i' : Nat) : (s.send m).reg f' u' i' = s.reg f' u' i' := rfl
@[simp] theorem State.now_send (m : Msg)  : (s.send m).now  = s.now  := rfl
@[simp] theorem State.byte_send (m : Msg) (a' : Nat) : (s.send m).byte a' = s.byte a' := rfl
@[simp] theorem State.bytes_send (m : Msg) (a' n' : Nat) : (s.send m).bytes a' n' = s.bytes a' n' := rfl
@[simp] theorem State.num_send (m : Msg) (a' n' : Nat) : (s.send m).num a' n' = s.num a' n' := rfl
@[simp] theorem State.chamber_send (m : Msg) (c' : Nat) : (s.send m).chamber c' = s.chamber c' := rfl
@[simp] theorem State.strand_send (m : Msg) (c' i' : Nat) : (s.send m).strand c' i' = s.strand c' i' := rfl
@[simp] theorem State.gallery_send (m : Msg) (g' : Nat) : (s.send m).gallery g' = s.gallery g' := rfl
@[simp] theorem State.cache_send (m : Msg) (g' : Nat) : (s.send m).cache g' = s.cache g' := rfl
@[simp] theorem State.sharer_send (m : Msg) (k' : Nat) : (s.send m).sharer k' = s.sharer k' := rfl
@[simp] theorem State.galPower_send (m : Msg) (g' : Nat) : (s.send m).galPower g' = s.galPower g' := rfl
@[simp] theorem State.queue_send (m : Msg) (q' : Nat) : (s.send m).queue q' = s.queue q' := rfl
@[simp] theorem State.port_send (m : Msg) (p' : Nat) : (s.send m).port p' = s.port p' := rfl
@[simp] theorem State.jobOf_send (m : Msg) (id' : Nat) : (s.send m).job? id' = s.job? id' := rfl
@[simp] theorem State.isOut_send (m : Msg) (h' : Cmd) : (s.send m).isOut h' = s.isOut h' := rfl
@[simp] theorem State.reg_raise (cls unit kind : Nat) (info : List Nat) (f' : Field) (u' i' : Nat) : (s.raise cls unit kind info).reg f' u' i' = s.reg f' u' i' := rfl
@[simp] theorem State.now_raise (cls unit kind : Nat) (info : List Nat)  : (s.raise cls unit kind info).now  = s.now  := rfl
@[simp] theorem State.byte_raise (cls unit kind : Nat) (info : List Nat) (a' : Nat) : (s.raise cls unit kind info).byte a' = s.byte a' := rfl
@[simp] theorem State.bytes_raise (cls unit kind : Nat) (info : List Nat) (a' n' : Nat) : (s.raise cls unit kind info).bytes a' n' = s.bytes a' n' := rfl
@[simp] theorem State.num_raise (cls unit kind : Nat) (info : List Nat) (a' n' : Nat) : (s.raise cls unit kind info).num a' n' = s.num a' n' := rfl
@[simp] theorem State.chamber_raise (cls unit kind : Nat) (info : List Nat) (c' : Nat) : (s.raise cls unit kind info).chamber c' = s.chamber c' := rfl
@[simp] theorem State.strand_raise (cls unit kind : Nat) (info : List Nat) (c' i' : Nat) : (s.raise cls unit kind info).strand c' i' = s.strand c' i' := rfl
@[simp] theorem State.gallery_raise (cls unit kind : Nat) (info : List Nat) (g' : Nat) : (s.raise cls unit kind info).gallery g' = s.gallery g' := rfl
@[simp] theorem State.cache_raise (cls unit kind : Nat) (info : List Nat) (g' : Nat) : (s.raise cls unit kind info).cache g' = s.cache g' := rfl
@[simp] theorem State.sharer_raise (cls unit kind : Nat) (info : List Nat) (k' : Nat) : (s.raise cls unit kind info).sharer k' = s.sharer k' := rfl
@[simp] theorem State.galPower_raise (cls unit kind : Nat) (info : List Nat) (g' : Nat) : (s.raise cls unit kind info).galPower g' = s.galPower g' := rfl
@[simp] theorem State.queue_raise (cls unit kind : Nat) (info : List Nat) (q' : Nat) : (s.raise cls unit kind info).queue q' = s.queue q' := rfl
@[simp] theorem State.port_raise (cls unit kind : Nat) (info : List Nat) (p' : Nat) : (s.raise cls unit kind info).port p' = s.port p' := rfl
@[simp] theorem State.jobOf_raise (cls unit kind : Nat) (info : List Nat) (id' : Nat) : (s.raise cls unit kind info).job? id' = s.job? id' := rfl
@[simp] theorem State.isOut_raise (cls unit kind : Nat) (info : List Nat) (h' : Cmd) : (s.raise cls unit kind info).isOut h' = s.isOut h' := rfl

end Sys2Proof.Machine
end

