-- ==== Sys2Proof/Laws/Table.lean ====
section
/-!
SUPPORT. The laws of sparse tables: what a read finds after a write, and that a write keeps the canonical form.
-/
namespace Sys2Proof.Machine

variable {V : Type}

@[simp] theorem tget_nil (d : V) (x : Nat) : tget d [] x = d := rfl

@[simp] theorem tget_cons (d : V) (k : Nat) (v : V) (t : Tbl V) (x : Nat) :
    tget d ((k, v) :: t) x = if x = k then v else tget d t x := rfl

theorem tget_tdel_same (d : V) (t : Tbl V) (x : Nat) : tget d (tdel t x) x = d := by
  induction t with
  | nil => rfl
  | cons e t ih =>
    obtain ⟨k, v⟩ := e
    unfold tdel at *
    by_cases h : k = x
    · simp [h, ih]
    · simp [h, ih, Ne.symm h]

theorem tget_tdel_ne (d : V) (t : Tbl V) {x y : Nat} (h : y ≠ x) : tget d (tdel t x) y = tget d t y := by
  induction t with
  | nil => rfl
  | cons e t ih =>
    obtain ⟨k, v⟩ := e
    unfold tdel at *
    by_cases hk : k = x
    · have : y ≠ k := hk ▸ h
      simp [hk, ih, h]
    · simp [hk, ih]

/-- A read of the key that a write set gives the value written. -/
@[simp] theorem tget_tset_same [DecidableEq V] (d : V) (t : Tbl V) (x : Nat) (v : V) : tget d (tset d t x v) x = v := by
  induction t with
  | nil => by_cases h : v = d <;> simp [tset, h]
  | cons e t ih =>
    obtain ⟨k, w⟩ := e
    unfold tset
    split
    · by_cases hv : v = d
      · simp only [hv, if_true]; exact tget_tdel_same d _ x
      · simp [hv]
    · split
      · by_cases hv : v = d
        · simp only [hv, if_true]; exact tget_tdel_same d _ x
        · simp [*]
      · simp [*]

/-- A write leaves every other key as it was. -/
theorem tget_tset_ne [DecidableEq V] (d : V) (t : Tbl V) {x y : Nat} (v : V) (h : y ≠ x) :
    tget d (tset d t x v) y = tget d t y := by
  induction t with
  | nil => by_cases hv : v = d <;> simp [tset, hv, h]
  | cons e t ih =>
    obtain ⟨k, w⟩ := e
    unfold tset
    split
    · by_cases hv : v = d
      · simp only [hv, if_true]; exact tget_tdel_ne d _ h
      · simp [hv, h]
    · split
      · subst_vars
        by_cases hv : v = d
        · simp only [hv, if_true, tget_tdel_ne d _ h, tget_cons, h, if_false]
        · simp [hv, h]
      · simp [ih]

/-- A read with a default of its own: the other keys are as they were. -/
theorem tget_tset_ne_default [DecidableEq V] (d e : V) (t : Tbl V) {x y : Nat} (v : V) (h : y ≠ x) :
    tget e (tset d t x v) y = tget e t y := by
  induction t with
  | nil => by_cases hv : v = d <;> simp [tset, hv, h]
  | cons p t ih =>
    obtain ⟨k, w⟩ := p
    unfold tset
    split
    · by_cases hv : v = d
      · simp only [hv, if_true]; exact tget_tdel_ne e _ h
      · simp [hv, h]
    · split
      · subst_vars
        by_cases hv : v = d
        · simp only [hv, if_true, tget_tdel_ne e _ h, tget_cons, h, if_false]
        · simp [hv, h]
      · simp [ih]

theorem tget_tset [DecidableEq V] (d : V) (t : Tbl V) (x y : Nat) (v : V) :
    tget d (tset d t x v) y = if y = x then v else tget d t y := by
  by_cases h : y = x
  · simp [h]
  · simp [h, tget_tset_ne d t v h]

/-! ### The canonical form -/

theorem tabove_filter [DecidableEq V] (d : V) (p : Nat × V → Bool) (t : Tbl V) :
    ∀ lo, tabove d lo t = true → tabove d lo (t.filter p) = true := by
  induction t with
  | nil => intro lo h; exact h
  | cons e t ih =>
    obtain ⟨k, v⟩ := e
    intro lo h
    simp only [tabove, Bool.and_eq_true] at h
    have weaken : ∀ (t : Tbl V), tabove d (some k) t = true → tabove d lo t = true := by
      intro t ht
      cases t with
      | nil => rfl
      | cons e' t' =>
        obtain ⟨k', v'⟩ := e'
        simp only [tabove, Bool.and_eq_true, decide_eq_true_eq] at ht ⊢
        refine ⟨⟨?_, ht.1.2⟩, ht.2⟩
        cases lo with
        | none => rfl
        | some l =>
          have h1 := h.1.1
          simp only [decide_eq_true_eq] at h1 ⊢
          omega
    by_cases hp : p (k, v) = true
    · simp only [List.filter_cons, hp, if_true, tabove, Bool.and_eq_true]
      exact ⟨h.1, ih _ h.2⟩
    · simp only [List.filter_cons, hp]
      exact weaken _ (ih _ h.2)

/-- A filter of a canonical table is canonical. -/
theorem twf_filter [DecidableEq V] {d : V} {t : Tbl V} (p : Nat × V → Bool) (h : twf d t = true) :
    twf d (t.filter p) = true := tabove_filter d p t none h

theorem tabove_tset [DecidableEq V] (d : V) (t : Tbl V) (x : Nat) (v : V) :
    ∀ lo, (match lo with | none => True | some l => l < x) → tabove d lo t = true → tabove d lo (tset d t x v) = true := by
  induction t with
  | nil =>
    intro lo hl _
    by_cases hv : v = d
    · simp [tset, hv, tabove]
    · cases lo <;> simp_all [tset, tabove]
  | cons e t ih =>
    obtain ⟨k, w⟩ := e
    intro lo hl h
    unfold tset
    split
    · by_cases hv : v = d
      · simp only [hv, if_true]
        exact tabove_filter d _ _ lo h
      · simp only [hv, if_false]
        simp only [tabove, Bool.and_eq_true, decide_eq_true_eq] at h ⊢
        refine ⟨⟨?_, hv⟩, ⟨by assumption, h.1.2⟩, h.2⟩
        cases lo with
        | none => rfl
        | some l => exact decide_eq_true hl
    · split
      · rename_i _ hx
        subst hx
        by_cases hv : v = d
        · have h2 : tabove d lo ((x, w) :: t) = true := h
          have h3 := tabove_filter d (fun e => !(e.1 == x)) _ lo h2
          simp only [hv, if_true]
          simpa [tdel] using h3
        · simp only [tabove, Bool.and_eq_true] at h
          simp only [hv, if_false, tabove, Bool.and_eq_true]
          exact ⟨⟨h.1.1, decide_eq_true hv⟩, h.2⟩
      · simp only [tabove, Bool.and_eq_true] at h ⊢
        exact ⟨h.1, ih (some k) (by omega) h.2⟩

/-- A write keeps the canonical form. -/
theorem twf_tset [DecidableEq V] {d : V} {t : Tbl V} (x : Nat) (v : V) (h : twf d t = true) :
    twf d (tset d t x v) = true := tabove_tset d t x v none trivial h

end Sys2Proof.Machine
end

