-- ==== Sys2Proof/Laws/Ops.lean ====
section
/-!
SUPPORT. What the shared operations do, once each: register reads after a write, units after an update, memory after a
write, and the parts of the state that an operation leaves alone.
-/
namespace Sys2Proof.Machine

variable (s : State)

/-! ### Registers -/

theorem Field.ctorIdx_inj {f g : Field} (h : f.ctorIdx = g.ctorIdx) : f = g := by
  rw [← Field.ofNat_ctorIdx f, ← Field.ofNat_ctorIdx g, h]

/-- A register after a write: the written copy has the value cut to its width, every other keeps its own. -/
theorem State.reg_setReg (f : Field) (u i v : Nat) (g : Field) (w j : Nat) :
    (s.setReg f u i v).reg g w j =
      if g = f ∧ w = u ∧ j = i then v % 2 ^ (fieldInfo f).width else s.reg g w j := by
  unfold State.reg State.setReg regsPut
  by_cases hf : g = f
  · subst hf
    by_cases hu : w = u
    · subst hu
      by_cases hi : j = i
      · subst hi; simp
      · simp only [hi, and_false, if_false, tget_tset_same]
        rw [tget_tset_ne_default]
        exact hi
    · simp [hu, tget_tset_ne]
  · have : g.ctorIdx ≠ f.ctorIdx := fun h => hf (Field.ctorIdx_inj h)
    simp [hf, tget_tset_ne, this]

@[simp] theorem State.reg_setReg_same (f : Field) (u i v : Nat) :
    (s.setReg f u i v).reg f u i = v % 2 ^ (fieldInfo f).width := by simp [State.reg_setReg]

theorem State.reg_setReg_field {f g : Field} (u i v w j : Nat) (h : g ≠ f) : (s.setReg f u i v).reg g w j = s.reg g w j := by
  simp [State.reg_setReg, h]

theorem State.reg_setReg_unit (f g : Field) {u w : Nat} (i v j : Nat) (h : w ≠ u) : (s.setReg f u i v).reg g w j = s.reg g w j := by
  simp [State.reg_setReg, h]

theorem State.reg_setReg_copy (f g : Field) (u w : Nat) {i j : Nat} (v : Nat) (h : j ≠ i) :
    (s.setReg f u i v).reg g w j = s.reg g w j := by simp [State.reg_setReg, h]

theorem State.put_eq (f : Field) (u v : Nat) : s.put f u v = s.setReg f u 0 v := rfl
theorem State.flag_eq (f : Field) (u : Nat) : s.flag f u = s.setReg f u 0 1 := rfl
theorem State.bump_eq (f : Field) (u n i : Nat) : s.bump f u n i = s.setReg f u i (s.reg f u i + n) := rfl
theorem State.bumpSat_eq (f : Field) (u n : Nat) :
    s.bumpSat f u n = s.setReg f u 0 (min (s.reg f u + n) (2 ^ (fieldInfo f).width - 1)) := rfl

/-! ### Units -/

@[simp] theorem State.chamber_setChamber_same (c : Nat) (x : Chamber) : (s.setChamber c x).chamber c = x := by
  simp [State.chamber, State.setChamber]

theorem State.chamber_setChamber_ne {c d : Nat} (x : Chamber) (h : d ≠ c) : (s.setChamber c x).chamber d = s.chamber d := by
  simp [State.chamber, State.setChamber, tget_tset_ne, h]

@[simp] theorem State.chamber_modChamber_same (c : Nat) (f : Chamber → Chamber) : (s.modChamber c f).chamber c = f (s.chamber c) := by
  simp [State.modChamber]

theorem State.chamber_modChamber_ne {c d : Nat} (f : Chamber → Chamber) (h : d ≠ c) : (s.modChamber c f).chamber d = s.chamber d := by
  simp [State.modChamber, State.chamber_setChamber_ne, h]

theorem State.chamber_modChamber (c d : Nat) (f : Chamber → Chamber) :
    (s.modChamber c f).chamber d = if d = c then f (s.chamber c) else s.chamber d := by
  by_cases h : d = c
  · subst h; simp
  · simp [h, State.chamber_modChamber_ne]

@[simp] theorem Chamber.strand_setStrand_same (x : Chamber) (i : Nat) (t : Strand) : (x.setStrand i t).strand i = t := by
  simp [Chamber.strand, Chamber.setStrand]

theorem Chamber.strand_setStrand_ne (x : Chamber) {i j : Nat} (t : Strand) (h : j ≠ i) : (x.setStrand i t).strand j = x.strand j := by
  simp [Chamber.strand, Chamber.setStrand, tget_tset_ne, h]

@[simp] theorem Chamber.vreg_setStrand (x : Chamber) (i : Nat) (t : Strand) (r : Nat) : (x.setStrand i t).vreg r = x.vreg r := rfl
@[simp] theorem Chamber.bank_setStrand (x : Chamber) (i : Nat) (t : Strand) (b : Nat) : (x.setStrand i t).bank b = x.bank b := rfl
@[simp] theorem Chamber.strand_setVreg (x : Chamber) (r : Nat) (v : List Acc44) (i : Nat) : (x.setVreg r v).strand i = x.strand i := rfl
@[simp] theorem Chamber.bank_setVreg (x : Chamber) (r : Nat) (v : List Acc44) (b : Nat) : (x.setVreg r v).bank b = x.bank b := rfl

@[simp] theorem Chamber.vreg_setVreg_same (x : Chamber) (r : Nat) (v : List Acc44) : (x.setVreg r v).vreg r = v := by
  simp [Chamber.vreg, Chamber.setVreg]

theorem Chamber.vreg_setVreg_ne (x : Chamber) {r k : Nat} (v : List Acc44) (h : k ≠ r) : (x.setVreg r v).vreg k = x.vreg k := by
  simp [Chamber.vreg, Chamber.setVreg, tget_tset_ne, h]

@[simp] theorem State.strand_modStrand_same (c i : Nat) (f : Strand → Strand) : (s.modStrand c i f).strand c i = f (s.strand c i) := by
  simp [State.strand, State.modStrand]

theorem State.strand_modStrand_ne {c d i j : Nat} (f : Strand → Strand) (h : ¬ (d = c ∧ j = i)) :
    (s.modStrand c i f).strand d j = s.strand d j := by
  by_cases hd : d = c
  · subst hd
    have hj : j ≠ i := fun e => h ⟨rfl, e⟩
    simp [State.strand, State.modStrand, Chamber.strand_setStrand_ne, hj]
  · simp [State.strand, State.modStrand, State.chamber_modChamber_ne, hd]

@[simp] theorem State.gallery_modGallery_same (g : Nat) (f : GalleryMem → GalleryMem) : (s.modGallery g f).gallery g = f (s.gallery g) := by
  simp [State.gallery, State.modGallery]

theorem State.gallery_modGallery_ne {g k : Nat} (f : GalleryMem → GalleryMem) (h : k ≠ g) : (s.modGallery g f).gallery k = s.gallery k := by
  simp [State.gallery, State.modGallery, tget_tset_ne, h]

@[simp] theorem State.galPower_modGalPower_same (g : Nat) (f : GalleryPower → GalleryPower) :
    (s.modGalPower g f).galPower g = f (s.galPower g) := by simp [State.galPower, State.modGalPower]

theorem State.galPower_modGalPower_ne {g k : Nat} (f : GalleryPower → GalleryPower) (h : k ≠ g) :
    (s.modGalPower g f).galPower k = s.galPower k := by simp [State.galPower, State.modGalPower, tget_tset_ne, h]

@[simp] theorem State.queue_modQueue_same (q : Nat) (f : Queue → Queue) : (s.modQueue q f).queue q = f (s.queue q) := by
  simp [State.queue, State.modQueue]

theorem State.queue_modQueue_ne {q k : Nat} (f : Queue → Queue) (h : k ≠ q) : (s.modQueue q f).queue k = s.queue k := by
  simp [State.queue, State.modQueue, tget_tset_ne, h]

@[simp] theorem State.port_modPort_same (p : Nat) (f : Port → Port) : (s.modPort p f).port p = f (s.port p) := by
  simp [State.port, State.modPort]

theorem State.port_modPort_ne {p k : Nat} (f : Port → Port) (h : k ≠ p) : (s.modPort p f).port k = s.port k := by
  simp [State.port, State.modPort, tget_tset_ne, h]

/-! ### Memory -/

theorem tget_memPut (m : Tbl Byte) (a : Nat) (bs : List Byte) (x : Nat) :
    tget 0 (memPut m a bs) x = if a ≤ x ∧ x < a + bs.length then bs.getD (x - a) 0 else tget 0 m x := by
  induction bs generalizing m a with
  | nil =>
    simp only [memPut, List.length_nil, Nat.add_zero]
    rw [if_neg (by omega)]
  | cons b bs ih =>
    simp only [memPut, ih, tget_tset, List.length_cons]
    by_cases h1 : x = a
    · subst h1
      rw [if_neg (by omega), if_pos rfl, if_pos (by omega)]
      simp
    · by_cases h2 : a + 1 ≤ x ∧ x < a + 1 + bs.length
      · obtain ⟨k, hk⟩ : ∃ k, x - a = k + 1 := ⟨x - a - 1, by omega⟩
        have h4 : x - (a + 1) = k := by omega
        rw [if_pos h2, if_pos (by omega), hk, h4]
        rfl
      · rw [if_neg h2, if_neg h1, if_neg (by omega)]

/-- A byte of memory after a write: the written one inside the range, the old one outside. -/
theorem State.byte_write (a : Nat) (bs : List Byte) (x : Nat) :
    (s.write a bs).byte x = if a ≤ x ∧ x < a + bs.length then bs.getD (x - a) 0 else s.byte x :=
  tget_memPut s.mem a bs x

theorem twf_memPut {m : Tbl Byte} (h : twf 0 m = true) (a : Nat) (bs : List Byte) : twf 0 (memPut m a bs) = true := by
  induction bs generalizing m a with
  | nil => exact h
  | cons b bs ih => exact ih (twf_tset a b h) (a + 1)

theorem twf_poisonMark {p : Tbl Bool} (h : twf false p = true) (g n : Nat) : twf false (poisonMark p g n) = true := by
  induction n generalizing p g with
  | zero => exact h
  | succ n ih => exact ih (twf_tset g true h) (g + 1)

/-- Only the Gallery caches and the sharer filters differ. -/
def cachesOnly (s t : State) : Prop := t = { s with caches := t.caches, sharers := t.sharers }

theorem cachesOnly.of {s t : State} (h : t = { s with caches := t.caches, sharers := t.sharers }) : cachesOnly s t := h

theorem cachesOnly.trans {s t u : State} (h : cachesOnly s t) (k : cachesOnly t u) : cachesOnly s u := by
  unfold cachesOnly at *
  exact k.trans (congrArg (fun x : State => { x with caches := u.caches, sharers := u.sharers }) h)

theorem cachesOnly_foldl {A : Type} (k : State → A → State) (hk : ∀ s a, cachesOnly s (k s a)) (l : List A) (s : State) :
    cachesOnly s (l.foldl k s) := by
  induction l generalizing s with
  | nil => rfl
  | cons a l ih => exact (hk s a).trans (ih _)

/-- What a write does to the copies of a line. -/
theorem State.invalidate_spec (who : Option Nat) (line : Nat) : cachesOnly s (s.invalidate who line) := by
  unfold State.invalidate
  simp only
  split
  · rfl
  · exact (cachesOnly_foldl _ (fun _ _ => .of rfl) _ s).trans (.of rfl)

/-- Only the marks and the lost lines that they stand for differ. -/
def marksOnly (s t : State) : Prop := t = { s with poison := t.poison, lost := t.lost }

theorem marksOnly.of {s t : State} (h : t = { s with poison := t.poison, lost := t.lost }) : marksOnly s t := h

theorem marksOnly.trans {s t u : State} (h : marksOnly s t) (k : marksOnly t u) : marksOnly s u := by
  unfold marksOnly at *
  exact k.trans (congrArg (fun x : State => { x with poison := u.poison, lost := u.lost }) h)

theorem marksOnly_foldl {A : Type} (k : State → A → State) (hk : ∀ s a, marksOnly s (k s a)) (l : List A) (s : State) :
    marksOnly s (l.foldl k s) := by
  induction l generalizing s with
  | nil => rfl
  | cons a l ih => exact (hk s a).trans (ih _)

/-- What becomes known of the lost lines of a range. -/
theorem State.showLost_spec (a n : Nat) : marksOnly s (s.showLost a n) := by
  unfold State.showLost
  split
  · rfl
  · refine marksOnly_foldl _ (fun s i => ?_) _ s
    unfold State.showBlock
    split
    · rfl
    · exact (marksOnly_foldl _ (fun _ _ => .of rfl) _ s).trans (.of rfl)

/-- A store: memory, marks, transfer sources, what stands of lost lines, cached copies, and the stack's counters; the register space
takes nothing. -/
theorem State.store_spec (a : Nat) (bs : List Byte) (who : Option Nat) (cls : Nat) :
    (∃ r m p x l cs sh, s.store a bs who cls =
      { s with regs := r, mem := m, poison := p, xferSources := x, lost := l, caches := cs, sharers := sh }) ∧
      (∀ f u i, f ≠ .hbmWriteBytes → f ≠ .hbmRmwWrites → f ≠ .glClassIssued → (s.store a bs who cls).reg f u i = s.reg f u i) ∧
      (s.store a bs who cls).mem = bif regionOf a == some .registers then s.mem else memPut s.mem a bs := by
  have key : ∀ (s1 : State), marksOnly s s1 → ∀ r, ∀ t : State, cachesOnly { s1.write a bs with regs := r } t →
      regionOf a ≠ some .registers → (∀ f u i, f ≠ .hbmWriteBytes → f ≠ .hbmRmwWrites → f ≠ .glClassIssued →
        ({ s1.write a bs with regs := r } : State).reg f u i = s.reg f u i) →
      (∃ r m p x l cs sh, t = { s with regs := r, mem := m, poison := p, xferSources := x, lost := l, caches := cs, sharers := sh }) ∧
        (∀ f u i, f ≠ .hbmWriteBytes → f ≠ .hbmRmwWrites → f ≠ .glClassIssued → t.reg f u i = s.reg f u i) ∧
        t.mem = bif regionOf a == some .registers then s.mem else memPut s.mem a bs := by
    intro s1 h1 r t ht hr hf
    refine ⟨⟨r, memPut s.mem a bs, poisonClear s1.poison a bs.length, sourcesLeft s1.xferSources a bs.length, s1.lost, t.caches, t.sharers, ?_⟩, ?_, ?_⟩
    · rw [ht, h1]; rfl
    · intro f u i a1 a2 a3
      rw [ht]; exact hf f u i a1 a2 a3
    · have : (regionOf a == some .registers) = false := by simpa using hr
      rw [this, ht, h1]; rfl
  have hm := s.showLost_spec a bs.length
  unfold State.store
  split
  · rename_i h
    exact ⟨⟨s.regs, s.mem, s.poison, s.xferSources, s.lost, s.caches, s.sharers, rfl⟩, fun _ _ _ _ _ _ => rfl, by simp [h]⟩
  · rename_i h
    have hr : regionOf a ≠ some .registers := by rw [h]; simp
    simp only
    split
    · refine key _ hm (s.showLost a bs.length).regs ((s.showLost a bs.length).write a bs) (.of rfl) hr (fun f u i _ _ _ => ?_)
      show (s.showLost a bs.length).reg f u i = s.reg f u i
      rw [hm]; rfl
    · generalize hs : s.showLost a bs.length = s1 at hm ⊢
      generalize hb : ((s1.write a bs).bump .hbmWriteBytes (a / hbmWindow) bs.length) = s2
      have e2 : s2 = { s1.write a bs with regs := s2.regs } := by rw [← hb]; rfl
      have g2 : ∀ f u i, f ≠ .hbmWriteBytes → s2.reg f u i = s.reg f u i := by
        intro f u i h1
        rw [← hb, State.bump_eq, State.reg_setReg, if_neg (fun x => h1 x.1)]
        show s1.reg f u i = s.reg f u i
        rw [hm]; rfl
      have rest : ∀ s3 : State, s3 = { s1.write a bs with regs := s3.regs } →
          (∀ f u i, f ≠ .hbmWriteBytes → f ≠ .hbmRmwWrites → s3.reg f u i = s.reg f u i) →
          ∀ t : State, t = (if (s3.request (a / hbmWindow) cls (linesIn a bs.length).length).sharers.isEmpty then
              s3.request (a / hbmWindow) cls (linesIn a bs.length).length
            else (linesIn a bs.length).foldl (fun s l => s.invalidate who (l / 256)) (s3.request (a / hbmWindow) cls (linesIn a bs.length).length)) →
          (∃ r m p x l cs sh, t = { s with regs := r, mem := m, poison := p, xferSources := x, lost := l, caches := cs, sharers := sh }) ∧
          (∀ f u i, f ≠ .hbmWriteBytes → f ≠ .hbmRmwWrites → f ≠ .glClassIssued → t.reg f u i = s.reg f u i) ∧
          t.mem = bif regionOf a == some .registers then s.mem else memPut s.mem a bs := by
        intro s3 e3 g3 t ht
        subst ht
        generalize hq : s3.request (a / hbmWindow) cls (linesIn a bs.length).length = s4
        have e4 : s4 = { s1.write a bs with regs := s4.regs } := by
          rw [← hq]; unfold State.request; rw [State.bump_eq]
          exact congrArg (fun x : State => { x with regs := (s3.setReg .glClassIssued (a / hbmWindow) cls
            (s3.reg .glClassIssued (a / hbmWindow) cls + (linesIn a bs.length).length)).regs }) e3
        have g4 : ∀ f u i, f ≠ .hbmWriteBytes → f ≠ .hbmRmwWrites → f ≠ .glClassIssued → s4.reg f u i = s.reg f u i := by
          intro f u i a1 a2 a3
          rw [← hq]; unfold State.request
          rw [State.bump_eq, State.reg_setReg, if_neg (fun x => a3 x.1)]
          exact g3 f u i a1 a2
        have g5 : ∀ f u i, f ≠ .hbmWriteBytes → f ≠ .hbmRmwWrites → f ≠ .glClassIssued →
            ({ s1.write a bs with regs := s4.regs } : State).reg f u i = s.reg f u i := by
          intro f u i a1 a2 a3
          have := g4 f u i a1 a2 a3
          rw [e4] at this; exact this
        split
        · exact key s1 hm s4.regs s4 (by rw [← e4]; exact .of rfl) hr g5
        · refine key s1 hm s4.regs _ ?_ hr g5
          rw [← e4]
          exact cachesOnly_foldl _ (fun s l => s.invalidate_spec who (l / 256)) _ s4
      have br : ∀ (P : Prop) [Decidable P] (n : Nat), ∀ s3, s3 = (if P then s2 else s2.bump .hbmRmwWrites (a / hbmWindow) n) →
          s3 = { s1.write a bs with regs := s3.regs } ∧
            ∀ f u i, f ≠ .hbmWriteBytes → f ≠ .hbmRmwWrites → s3.reg f u i = s.reg f u i := by
        intro P _ n s3 h3
        by_cases hP : P
        · rw [if_pos hP] at h3
          subst h3
          exact ⟨e2, fun f u i h1 _ => g2 f u i h1⟩
        · rw [if_neg hP] at h3
          subst h3
          refine ⟨congrArg (fun x : State => { x with regs := (s2.bump .hbmRmwWrites (a / hbmWindow) n).regs }) e2, ?_⟩
          intro f u i h1 h2
          rw [State.bump_eq, State.reg_setReg, if_neg (fun x => h2 x.1)]
          exact g2 f u i h1
      exact rest _ (br _ _ _ rfl).1 (br _ _ _ rfl).2 _ rfl
  · rename_i h1 h2
    exact key s (.of rfl) s.regs (s.write a bs) (.of rfl) h1 (fun _ _ _ _ _ _ => rfl)

/-- Memory after a store. -/
theorem State.store_mem (a : Nat) (bs : List Byte) (who : Option Nat) (cls : Nat) :
    (s.store a bs who cls).mem = bif regionOf a == some .registers then s.mem else memPut s.mem a bs := (s.store_spec a bs who cls).2.2

/-- A byte of memory after a store outside the register space. -/
theorem State.byte_store (a : Nat) (bs : List Byte) (who : Option Nat) (cls : Nat) (x : Nat) (h : regionOf a ≠ some .registers) :
    (s.store a bs who cls).byte x = if a ≤ x ∧ x < a + bs.length then bs.getD (x - a) 0 else s.byte x := by
  have : (regionOf a == some .registers) = false := by simpa using h
  unfold State.byte; rw [State.store_mem, this]; exact tget_memPut s.mem a bs x

/-! ### The log and replies -/

/-- A log entry changes the rings, their numbers and the two counters of R328. -/
theorem State.log_spec (cls idx kind : Nat) (payload : List Byte) (cause : Option Nat) :
    ∃ r l q, s.log cls idx kind payload cause = { s with regs := r, logs := l, logSeq := q } ∧
      ∀ f u i, f ≠ .modLogEntries → f ≠ .modLogLost → (s.log cls idx kind payload cause).reg f u i = s.reg f u i := by
  unfold State.log
  simp only
  repeat' split
  all_goals exact ⟨_, _, _, rfl, fun f u i h1 h2 => by
    simp only [State.bump_eq, State.reg_setReg, h1, h2, false_and, if_false]; try rfl⟩

/-- A reply changes its queue and the log. -/
theorem State.reply_spec (o : Outstanding) (d : Done) :
    ∃ r l q qs, s.reply o d = { s with regs := r, logs := l, logSeq := q, queues := qs } ∧
      (∀ f u i, f ≠ .modLogEntries → f ≠ .modLogLost → (s.reply o d).reg f u i = s.reg f u i) := by
  unfold State.reply
  simp only
  generalize hm : s.modQueue _ _ = s1
  obtain ⟨r, l, q, h, hr⟩ := s1.log_spec 3 0 0x0003 (cmdPayload o.cmd d.status (d.job.getD o.jobId)) none
  refine ⟨r, l, q, s1.queues, ?_, ?_⟩
  · rw [h, ← hm]; rfl
  · intro f u i h1 h2
    rw [hr f u i h1 h2, ← hm]; rfl

/-- A completion changes the outcome and what is outstanding, the reply's queue, and the log. -/
theorem State.complete_spec (h : Cmd) (d : Done) :
    ∃ r l q qs, s.complete h d =
        { s with regs := r, logs := l, logSeq := q, queues := qs
                 outstanding := s.outstanding.filter (fun x => !(x.cmd == h))
                 outcomes := ⟨h, d.status⟩ :: (s.outcomes.filter (fun x => !(x.cmd == h))) } ∧
      (∀ f u i, f ≠ .modLogEntries → f ≠ .modLogLost → (s.complete h d).reg f u i = s.reg f u i) := by
  unfold State.complete
  simp only
  generalize hm : ({ s with outstanding := _, outcomes := _ } : State) = s1
  obtain ⟨r, l, q, qs, e, hr⟩ := s1.reply_spec (s.entry h) d
  refine ⟨r, l, q, qs, ?_, ?_⟩
  · rw [e, ← hm]
  · intro f u i h1 h2
    rw [hr f u i h1 h2, ← hm]; rfl

end Sys2Proof.Machine
end

