-- ==== Sys2Proof/Laws/Wf.lean ====
section
/-!
SUPPORT. Canonical memories: every operation that writes memory, host memory, poison marks or registers keeps the form that
`State.wf` says, and the memories of the state after reset have it.
-/
namespace Sys2Proof.Machine

variable {s t : State}

theorem Memory.wf_reset : Memory.wf State.reset.mem = true ∧ Memory.wf State.reset.hostMem = true := ⟨rfl, rfl⟩

/-- A state with the memories, marks and registers of a well-formed one is well formed. -/
theorem State.wf_of_eq (h : s.wf) (hm : t.mem = s.mem) (hh : t.hostMem = s.hostMem) (hp : t.poison = s.poison)
    (hr : t.regs = s.regs) : t.wf :=
  ⟨hm ▸ h.mem, hh ▸ h.hostMem, hp ▸ h.poison, fun f u i => by
    have := h.regs f u i; unfold State.reg at this ⊢; rw [hr]; exact this⟩

/-- Any change beside memories, marks and registers keeps the form. -/
theorem State.wf_update (h : s.wf) (ht : { t with mem := s.mem, hostMem := s.hostMem, poison := s.poison, regs := s.regs } = t) :
    t.wf := State.wf_of_eq h (by rw [← ht]) (by rw [← ht]) (by rw [← ht]) (by rw [← ht])

theorem State.wf_setReg (h : s.wf) (f : Field) (u i v : Nat) : (s.setReg f u i v).wf :=
  ⟨h.mem, h.hostMem, h.poison, fun g w j => by
    rw [State.reg_setReg]; split
    · rename_i e; rw [e.1]; exact Nat.mod_lt _ (Nat.two_pow_pos _)
    · exact h.regs g w j⟩

theorem State.wf_put (h : s.wf) (f : Field) (u v : Nat) : (s.put f u v).wf := State.wf_setReg h f u 0 v
theorem State.wf_flag (h : s.wf) (f : Field) (u : Nat) : (s.flag f u).wf := State.wf_setReg h f u 0 1
theorem State.wf_bump (h : s.wf) (f : Field) (u n i : Nat) : (s.bump f u n i).wf := State.wf_setReg h f u i _

/-- A write keeps the canonical form of memory and of the marks. -/
theorem State.wf_write (h : s.wf) (a : Nat) (bs : List Byte) : (s.write a bs).wf :=
  ⟨twf_memPut h.mem a bs, h.hostMem, twf_filter _ h.poison, fun f u i => h.regs f u i⟩

theorem State.wf_markPoison (h : s.wf) (a n : Nat) : (s.markPoison a n).wf :=
  ⟨h.mem, h.hostMem, twf_poisonMark h.poison _ _, fun f u i => h.regs f u i⟩

/-- Marks that go leave the others in order. -/
theorem State.wf_filterPoison (h : s.wf) (p : Nat × Bool → Bool) : { s with poison := s.poison.filter p }.wf :=
  ⟨h.mem, h.hostMem, twf_filter p h.poison, fun f u i => h.regs f u i⟩

theorem State.wf_hostWrite (h : s.wf) (a : Nat) (bs : List Byte) : (s.hostWrite a bs).wf :=
  ⟨h.mem, twf_memPut h.hostMem a bs, h.poison, fun f u i => h.regs f u i⟩

/-- A run of operations that each keep the form keeps it. -/
theorem State.wf_foldl {A : Type} (k : State → A → State) (hk : ∀ s a, s.wf → (k s a).wf) (l : List A) (h : s.wf) :
    (l.foldl k s).wf := by
  induction l generalizing s with
  | nil => exact h
  | cons a l ih => exact ih (hk s a h)

theorem State.wf_showLost (h : s.wf) (a n : Nat) : (s.showLost a n).wf := by
  unfold State.showLost
  split
  · exact h
  · refine State.wf_foldl _ (fun s i h => ?_) _ h
    unfold State.showBlock
    split
    · exact h
    · exact State.wf_of_eq (State.wf_foldl _ (fun s a h => State.wf_markPoison h a 256) _ h) rfl rfl rfl rfl

/-- What touches the cached copies alone keeps the form. -/
theorem State.wf_cachesOnly (h : s.wf) (k : cachesOnly s t) : t.wf := by
  unfold cachesOnly at k
  exact State.wf_of_eq h (by rw [k]) (by rw [k]) (by rw [k]) (by rw [k])

theorem State.wf_store (h : s.wf) (a : Nat) (bs : List Byte) (who : Option Nat) (cls : Nat) : (s.store a bs who cls).wf := by
  unfold State.store
  split
  · exact h
  · have hw := State.wf_write (State.wf_showLost h a bs.length) a bs
    simp only
    split
    · exact hw
    · have br : ∀ (P : Prop) [Decidable P] (n : Nat), (if P then (((s.showLost a bs.length).write a bs).bump .hbmWriteBytes
          (a / hbmWindow) bs.length) else (((s.showLost a bs.length).write a bs).bump .hbmWriteBytes (a / hbmWindow) bs.length).bump
            .hbmRmwWrites (a / hbmWindow) n).wf := by
        intro P _ n
        by_cases hP : P
        · rw [if_pos hP]; exact State.wf_bump hw _ _ _ _
        · rw [if_neg hP]; exact State.wf_bump (State.wf_bump hw _ _ _ _) _ _ _ _
      have rest : ∀ s3 : State, s3.wf → (if (s3.request (a / hbmWindow) cls (linesIn a bs.length).length).sharers.isEmpty then
            s3.request (a / hbmWindow) cls (linesIn a bs.length).length
          else (linesIn a bs.length).foldl (fun s l => s.invalidate who (l / 256))
            (s3.request (a / hbmWindow) cls (linesIn a bs.length).length)).wf := by
        intro s3 h3
        split
        · exact State.wf_bump h3 _ _ _ _
        · exact State.wf_cachesOnly (State.wf_bump h3 .glClassIssued (a / hbmWindow) (linesIn a bs.length).length cls)
            (cachesOnly_foldl _ (fun s l => s.invalidate_spec who (l / 256)) _ _)
      exact rest _ (br _ _)
  · exact State.wf_write h a bs

theorem State.wf_log (h : s.wf) (cls idx kind : Nat) (payload : List Byte) (cause : Option Nat) :
    (s.log cls idx kind payload cause).wf := by
  unfold State.log
  simp only
  repeat' split
  all_goals first
    | exact h
    | (apply State.wf_bump; exact State.wf_of_eq h rfl rfl rfl rfl)
    | (apply State.wf_bump; apply State.wf_bump; exact State.wf_of_eq h rfl rfl rfl rfl)

end Sys2Proof.Machine
end

