-- ==== Sys2Proof/Laws/Words.lean ====
section
/-!
SUPPORT. What the issue of a word does, once: the scheduler leaves a strand that has the Chamber alone, and passing a
word moves the strand's `PC`, `ISSUED` and `STATE` and its place among the strands, and nothing else.
-/
namespace Sys2Proof.Machine

variable {s : State} {c i : Nat}

/-- A strand that may issue a word of its program has no word of a NEST to issue. -/
theorem emit_of_mayIssue (h : s.mayIssue c i none = true) : (s.strand c i).emit = [] := by
  unfold State.mayIssue at h
  split at h
  · assumption
  · simp at h

theorem live_of_mayIssue {e : Option EWord} (h : s.mayIssue c i e = true) : s.strandLive c i = true := by
  unfold State.mayIssue at h
  simp only [Bool.and_eq_true] at h
  exact h.1.2

/-- While a strand has the Chamber, the scheduler changes nothing. -/
theorem settle_of_mayIssue {e : Option EWord} (hi : i < 4) (h : s.mayIssue c i e = true) : s.settle c = s := by
  unfold State.mayIssue at h
  simp only [Bool.and_eq_true, beq_iff_eq] at h
  unfold State.settle
  rw [if_neg]; omega

theorem state_of_live (h : s.strandLive c i = true) : s.reg .chState c i = psReady ∨ s.reg .chState c i = psRunning := by
  unfold State.strandLive at h
  simp only [Bool.and_eq_true, Bool.or_eq_true, beq_iff_eq] at h
  exact h.2

/-- The Chamber after its strand i has passed a word. -/
def passedChamber (x : Chamber) (i : Nat) : Chamber :=
  { x with issues := x.issues + 1
           strands := tset {} x.strands i { x.strand i with lastIssue := x.issues + 1 } }

theorem State.noteIssue_spec (s : State) (c i : Nat) (hs : s.reg .chState c i = psReady ∨ s.reg .chState c i = psRunning) :
    ∃ r ch, s.noteIssue c i true = { s with regs := r, chambers := ch } ∧
      (∀ d, tget {} ch d = if d = c then passedChamber (s.chamber c) i else s.chamber d) ∧
      ∀ f u k, (s.noteIssue c i true).reg f u k =
        if f = .chIssued ∧ u = c ∧ k = i then (s.reg .chIssued c i + 1) % 2 ^ 64
        else if f = .chState ∧ u = c ∧ k = i then psRunning
        else s.reg f u k := by
  have w1 : (fieldInfo .chIssued).width = 64 := rfl
  have w3 : (fieldInfo .chState).width = 3 := rfl
  unfold State.noteIssue
  simp only [if_true]
  generalize hm : s.modChamber c (fun x => { x with issues := x.issues + 1 }) = s2
  have hc2 : s2.chamber c = { s.chamber c with issues := (s.chamber c).issues + 1 } := by rw [← hm]; simp
  generalize hk : s2.modStrand c i (fun t => { t with lastIssue := (s2.chamber c).issues }) = s3
  have r3 : ∀ f u k, s3.reg f u k = s.reg f u k := by intro f u k; rw [← hk, ← hm]; rfl
  have c3 : ∀ d, s3.chamber d = if d = c then passedChamber (s.chamber c) i else s.chamber d := by
    intro d; rw [← hk]
    unfold State.modStrand
    rw [State.chamber_modChamber, hc2]
    split
    · rfl
    · rename_i hd; rw [← hm, State.chamber_modChamber_ne _ _ hd]
  have e3 : s3 = { s with chambers := s3.chambers } := by rw [← hk, ← hm]; rfl
  split
  · refine ⟨((s3.setReg .chState c i psRunning).bump .chIssued c 1 i).regs, s3.chambers, ?_, c3, ?_⟩
    · have : ∀ r, { s3 with regs := r } = { s with chambers := s3.chambers, regs := r } := by intro r; rw [e3]
      exact this _
    · intro f u k
      simp only [State.bump_eq, State.reg_setReg, w1, w3, r3]
      split
      · simp
      · rfl
  · rename_i h
    rw [r3] at h
    have h4 : s.reg .chState c i = psRunning := hs.resolve_left h
    refine ⟨(s3.bump .chIssued c 1 i).regs, s3.chambers, ?_, c3, ?_⟩
    · have : ∀ r, { s3 with regs := r } = { s with chambers := s3.chambers, regs := r } := by intro r; rw [e3]
      exact this _
    · intro f u k
      simp only [State.bump_eq, State.reg_setReg, w1, r3]
      split
      · simp
      · split
        · rename_i h5; obtain ⟨rfl, rfl, rfl⟩ := h5; exact h4
        · rfl

/-- What passing a word of the program does, whole (R97, R98, R106). -/
theorem State.passWord_spec (s : State) (he : (s.strand c i).emit = [])
    (hs : s.reg .chState c i = psReady ∨ s.reg .chState c i = psRunning) :
    ∃ r ch, s.passWord c i true = { s with regs := r, chambers := ch } ∧
      (∀ d, tget {} ch d = if d = c then passedChamber (s.chamber c) i else s.chamber d) ∧
      ∀ f u k, (s.passWord c i true).reg f u k =
        if f = .chIssued ∧ u = c ∧ k = i then (s.reg .chIssued c i + 1) % 2 ^ 64
        else if f = .chState ∧ u = c ∧ k = i then psRunning
        else if f = .chPc ∧ u = c ∧ k = i then (s.reg .chPc c i + 1) % 2 ^ 16
        else s.reg f u k := by
  have w2 : (fieldInfo .chPc).width = 16 := rfl
  unfold State.passWord
  simp only [he]
  generalize hp : s.setReg .chPc c i (s.reg .chPc c i + 1) = s1
  have r1 : ∀ f u k, s1.reg f u k = if f = .chPc ∧ u = c ∧ k = i then (s.reg .chPc c i + 1) % 2 ^ 16 else s.reg f u k := by
    intro f u k; rw [← hp, State.reg_setReg, w2]
  have h1 : s1.reg .chState c i = psReady ∨ s1.reg .chState c i = psRunning := by rw [r1, if_neg (by simp)]; exact hs
  have c1 : ∀ d, s1.chamber d = s.chamber d := by intro d; rw [← hp]; rfl
  obtain ⟨r, ch, e, hc, hr⟩ := s1.noteIssue_spec c i h1
  have em : ((s1.noteIssue c i true).strand c i).emit = [] := by
    rw [e]
    unfold State.strand State.chamber
    simp only [hc, if_true, passedChamber, Chamber.strand, tget_tset_same]
    exact c1 c ▸ he
  unfold State.nestStop
  simp only [em]
  refine ⟨r, ch, ?_, ?_, ?_⟩
  · rw [e, ← hp]; rfl
  · intro d; rw [hc, c1, c1]
  · intro f u k
    rw [hr]
    simp only [r1]
    split
    · simp
    · rfl

/-- The same of a state that a word has made, told in the vocabulary of frames. -/
theorem State.passWord_passed (s : State) (he : (s.strand c i).emit = [])
    (hs : s.reg .chState c i = psReady ∨ s.reg .chState c i = psRunning) :
    Machine.passed c i s (s.passWord c i true) ∧ sameRegs (issueReg c i) s (s.passWord c i true) ∧
      outsideSame s (s.passWord c i true) ∧ chamberFrame c i s (s.passWord c i true) ∧
      (∀ r, ((s.passWord c i true).chamber c).vreg r = (s.chamber c).vreg r) ∧
      (s.passWord c i true).strand c i = { s.strand c i with lastIssue := (s.chamber c).issues + 1 } := by
  obtain ⟨r, ch, e, hc, hr⟩ := s.passWord_spec he hs
  have hk : ∀ d, (s.passWord c i true).chamber d = if d = c then passedChamber (s.chamber c) i else s.chamber d := by
    intro d; rw [e]; exact hc d
  have hcc := hk c
  rw [if_pos rfl] at hcc
  refine ⟨⟨?_, ?_, ?_⟩, ?_, ?_, ⟨?_, ?_, ?_, ?_, ?_, ?_⟩, ?_, ?_⟩
  · rw [hr]; simp
  · rw [hr]; simp
  · rw [hr]; simp
  · intro f u k hn
    rw [hr]
    unfold issueReg at hn
    rw [if_neg (fun h => hn ⟨h.2.1, h.2.2, .inr (.inl h.1)⟩), if_neg (fun h => hn ⟨h.2.1, h.2.2, .inr (.inr h.1)⟩),
      if_neg (fun h => hn ⟨h.2.1, h.2.2, .inl h.1⟩)]
  · unfold outsideSame; rw [e]
  · intro d hd; rw [hk, if_neg hd]
  · intro j hj
    unfold State.strand; rw [hcc]
    simp [passedChamber, Chamber.strand, tget_tset_ne, hj]
  · rw [hcc]; rfl
  · rw [hcc]; rfl
  · rw [hcc]; rfl
  · rw [hcc]; exact ⟨rfl, rfl⟩
  · intro r; rw [hcc]; rfl
  · unfold State.strand; rw [hcc]; simp [passedChamber, Chamber.strand]

theorem outsideSame.trans {s s1 t : State} (h1 : outsideSame s s1) (h2 : outsideSame s1 t) : outsideSame s t := by
  unfold outsideSame at *
  exact (congrArg (fun x : State => { x with regs := s.regs, chambers := s.chambers }) h2).trans h1

/-! ### Numeric flags (R62) -/

theorem flagFold_spec (mask c : Nat) (bs : List Nat) (hb : ∀ b ∈ bs, b < 8) (s : State) :
    ∃ r, bs.foldl (fun s b => if bit mask b then s.put (numFlagFields.getD b .chNanOut) c 1 else s) s = { s with regs := r } ∧
      ∀ f u k, ¬ (u = c ∧ k = 0 ∧ f ∈ numFlagFields) →
        (bs.foldl (fun s b => if bit mask b then s.put (numFlagFields.getD b .chNanOut) c 1 else s) s).reg f u k = s.reg f u k := by
  induction bs generalizing s with
  | nil => exact ⟨s.regs, rfl, fun _ _ _ _ => rfl⟩
  | cons b bs ih =>
    have h8 : b < 8 := hb b (by simp)
    have ih' := ih (fun x hx => hb x (by simp [hx]))
    simp only [List.foldl_cons]
    by_cases hm : bit mask b
    · simp only [hm, if_true]
      obtain ⟨r, e, hr⟩ := ih' (s.put (numFlagFields.getD b .chNanOut) c 1)
      refine ⟨r, by rw [e]; rfl, fun f u k hn => ?_⟩
      rw [hr f u k hn, State.put_eq, State.reg_setReg, if_neg]
      rintro ⟨rfl, rfl, rfl⟩
      refine hn ⟨rfl, rfl, ?_⟩
      have : b < numFlagFields.length := h8
      rw [List.getD_eq_getElem?_getD, List.getElem?_eq_getElem this]
      exact List.getElem_mem this
    · simp only [hm]
      exact ih' s

/-- Recording numeric flags changes the registers that record them, and nothing else. -/
theorem State.numFlags_spec (s : State) (c i mask : Nat) :
    ∃ r, s.numFlags c i mask = { s with regs := r } ∧ sameRegs (flagReg c i) s (s.numFlags c i mask) := by
  unfold State.numFlags
  simp only
  split
  · exact ⟨s.regs, rfl, fun _ _ _ _ => rfl⟩
  · obtain ⟨r, e, hr⟩ := flagFold_spec mask c (List.range 8) (by simp) s
    generalize List.foldl _ s (List.range 8) = s1 at e hr ⊢
    subst e
    refine ⟨_, rfl, fun f u k hn => ?_⟩
    unfold flagReg at hn
    rw [State.reg_setReg, if_neg, hr]
    · rintro ⟨h1, h2, h3⟩; exact hn ⟨h1, .inl ⟨h2, h3⟩⟩
    · rintro ⟨rfl, rfl, rfl⟩; exact hn ⟨rfl, .inr ⟨rfl, rfl⟩⟩

/-- A word whose work is `s1` from `s` and that then passes, as a frame: what the work left alone stays. -/
theorem wordFrame_of {s s1 : State} {fs : List Field} (h : issues c i s) (ho : outsideSame s s1) (hf : chamberFrame c i s s1)
    (he : (s1.strand c i).emit = [])
    (hr : sameRegs (fun f u k => flagReg c i f u k ∨ (u = c ∧ k = 0 ∧ f ∈ fs)) s s1)
    (hp : s1.reg .chPc c i = s.reg .chPc c i) (hi : s1.reg .chIssued c i = s.reg .chIssued c i)
    (hs : s1.reg .chState c i = s.reg .chState c i) : wordFrame c i fs s (s1.passWord c i true) := by
  have live := state_of_live (live_of_mayIssue h.2)
  obtain ⟨p, r, o, f, v, k⟩ := s1.passWord_passed he (hs ▸ live)
  refine ⟨⟨?_, ?_, p.2.2⟩, ?_, ⟨?_, ?_, ?_, ?_, ?_, ?_⟩, ?_⟩
  · rw [p.1, hp]
  · rw [p.2.1, hi]
  · exact ho.trans o
  · intro d hd; rw [f.others d hd, hf.others d hd]
  · intro j hj; rw [f.strands j hj, hf.strands j hj]
  · rw [f.banks, hf.banks]
  · rw [f.store, hf.store]
  · rw [f.ring, hf.ring]
  · rw [f.tables.1, f.tables.2]; exact hf.tables
  · intro g u k hn
    rw [r g u k (fun x => hn (.inl x)), hr g u k (fun x => hn (.inr x))]

end Sys2Proof.Machine
end

