-- ==== Sys2Proof/Tests/Slice0.lean ====
section
/-!
SUPPORT. Small tests: one command on a small state each, and for each statement a state and operands that meet what it assumes.
Expected values are read from the spec's rules.
-/
namespace Sys2Proof.Tests
open Sys2Proof Sys2Proof.Machine

set_option Elab.async false

/-- A property of the next state that a meaning answers. -/
def after (o : Out) (p : State → Bool) : Bool := match o with | .next t => p t | _ => false

/-- The meaning answers exactly this state. -/
def stays (o : Out) (s : State) : Bool := after o (fun t => t == s)

def G : Nat := galleryBase
def h5 : Cmd := ⟨1, 5⟩

/-! ### Well-formed commands -/

/-- One ill-formed command for each check of an operand. -/
theorem test_wf_refuses :
    ([Instr.identify ⟨64, 0⟩ 0, .identify ⟨0, 2 ^ 32⟩ 0, .identify ⟨0, 0⟩ (2 ^ 64), .stageBind h5 (2 ^ 16) 0 0 0, .memWrite h5 0 (List.replicate 985 0),
      .ptUpdate h5 0 0 0 [], .sweep 256 0 { pair := 0, bank := 0, init := true, last := false, kBlock := 0, outTag := 0 } {},
      .sweep 0 0 { pair := 0, bank := 2, init := true, last := false, kBlock := 0, outTag := 0 } {}, .programNop 0 4, .vop 0 0 64 0 0 0 false 0,
      .vop 0 0 0 32 0 0 false 0, .bind 0 0 256 0 0 0, .go 256 0, .slotCommit 32, .stop .complex (.die 8) true, .retrain 6, .sqTail 64 0,
      .registerWrite .complex .chLen 0 16 0, .registerWrite .complex .glCacheSteps 32 0 0, .mode 0 2, .dieTimeExchange 8 0,
      .slotTableSet h5 0 [], .svlImgLoad (List.replicate 1 0)].map Instr.wf).dropLast.all (· == false) = true := by decide +kernel

theorem test_wf_takes : (Instr.programNop 255 3).wf && (Instr.sqTail 63 (2 ^ 32 - 1)).wf && (Instr.nop ⟨63, 2 ^ 32 - 1⟩).wf &&
    (Instr.registerWrite .complex .chLen 255 15 1).wf = true := by decide +kernel

/-! ### States to start from -/

/-- After reset with the first Chamber, its Gallery and its die released. -/
def s0 : State := ((State.reset.put .chComplexHold 0 0).put .glComplexHold 0 0).put .dieComplexHold 0 0

/-- Strand 0 of Chamber 0 is RUNNING and has the Chamber. -/
def run0 : State := (s0.put .chState 0 psRunning).put .chCurStrand 0 0

/-- A descriptor of one FP32 element in the Gallery's memory at `G` (R96), in entry 1 of the strand's table at `G + 0x1000`. -/
def desc1 : List Byte :=
  bytesLE 4 (fmtFP32 + 1 * 2 ^ 8) ++ bytesLE 4 0x3F800000 ++ bytesLE 8 G ++ bytesLE 8 4 ++ bytesLE 4 1 ++ bytesLE 4 1 ++
    bytesLE 8 0xFF ++ List.replicate 24 0

/-- Entry 0 of the counter table at `G + 0x2000` names the counter at `G + 0x3000` with COUNT 7. -/
def run1 : State :=
  ((((run0.modStrand 0 0 (fun t => { t with descBase := G + 0x1000, descCount := 2, ctrBase := G + 0x2000, ctrCount := 1 })).write
    (G + 0x1040) desc1).write (G + 0x2000) (bytesLE 8 (G + 0x3000))).write (G + 0x3000) (bytesLE 8 7)).write G (bytesLE 4 0x40000000)

/-- A command of queue 1 that has started. -/
def started (op : Nat) (s : State) : State :=
  { s with outstanding := [{ cmd := h5, opcode := op, phase := .started }] }

theorem run0_issues : issues 0 0 run0 := by unfold issues; decide +kernel
theorem run1_issues : issues 0 0 run1 := by unfold issues; decide +kernel

/-! ### Words of a program -/

/-- R95, R97: a NOP moves `PC` and `ISSUED` on by one; strand 1, which has not the Chamber, does not issue. -/
theorem test_nop_word : after (exec (.programNop 0 0) run0) (fun t => t.reg .chPc 0 0 == 1 && t.reg .chIssued 0 0 == 1) &&
    stays (exec (.programNop 0 1) run0) run0 = true := by decide +kernel

/-- A tile of strand 0 waits in the Store's buffer, so earlier writes are not complete. -/
def waiting0 : State :=
  run0.modChamber 0 (fun x => { x with store := [{ strand := 0, bank := 0, span := ⟨G, G + 4⟩, writes := [(G, [1, 2])], failRow := none }] })

theorem wit_waitingWords : waiting0.quiet 0 0 = false ∧ waiting0.mayIssue 0 0 none = true ∧ run0.quiet 0 0 = true := by decide +kernel
theorem test_fence_waits : stays (exec (.fence 0 0) waiting0) waiting0 && after (exec (.fence 0 0) run0) (fun t => t.reg .chPc 0 0 == 1) =
    true := by decide +kernel

/-- R93: VOP ADD of +0 and the immediate 1.0 gives 1.0 in every lane; ACC44 1.0 has exponent 0x3FF (R38). -/
theorem test_vop : after (exec (.vop 0 0 1 1 2 3 true 0x3F800000) run0) (fun t =>
    ((t.chamber 0).vreg 1).getD 511 0 == (accRound false (fp32 0x3F800000)).1 && t.reg .chVecCycles 0 == 1) = true := by decide +kernel

/-- R108, R109: an SFOP takes four clocks and counts once. -/
theorem test_sfop_counts : after (exec (.sfop 0 0 0 1 2 0x3F800000) run0) (fun t => t.reg .chSfOps 0 == 1 && t.reg .chSfCycles 0 == 4) =
    true := by decide +kernel

/-- GAUSS: a lane's logical index at the edge of its range. -/
theorem wit_gauss : issues 0 0 run0 ∧ ((run0.strandLanes 0 0).word 511).2 = false := by unfold issues; decide +kernel

theorem wit_rowStatistics : issues 0 0 run0 ∧ smxRow run0 0 0 3 < (run0.strand 0 0).rs.length ∧
    (run0.put .chRsBase 0 G).quiet 0 0 = true ∧ (run0.setReg .chRsBase 0 0 G).mapped ((run0.setReg .chRsBase 0 0 G).rsAddr 0 0 0) 2048 = true ∧
    (run0.setReg .chRsBase 0 0 G).poisoned ((run0.setReg .chRsBase 0 0 G).rsAddr 0 0 0) 2048 = false := by unfold issues; decide +kernel
theorem test_rsClear : after (exec (.rsClear 0 0) (run0.modStrand 0 0 (fun t => { t with rs := [{ terms := 3 }] })))
    (fun t => (t.strand 0 0).rs == List.replicate 128 {}) = true := by decide +kernel

/-- R102: SIGNAL adds 5 to a COUNT of 7. R336: with `SIG_SKIP` 1 it adds nothing. -/
theorem test_signal : after (exec (.signal 0 0 0 5) run1) (fun t => t.num (G + 0x3000) 8 == 12) &&
    after (exec (.signal 0 0 0 5) (run1.put .chSigSkip 0 1)) (fun t => t.num (G + 0x3000) 8 == 7 && t.reg .chSigSkip 0 0 == 0) = true := by
  decide +kernel
/-- COUNT 7 is reached by a target of 7 and not by one of 8. -/
theorem test_wait : after (exec (.wait 0 0 0 7) run1) (fun t => t.reg .chPc 0 0 == 1) &&
    after (exec (.wait 0 0 0 8) run1) (fun t => t.reg .chState 0 0 == psWaiting && (t.gallery 0).watches == [(G + 0x3000, 8, 0, 0)]) = true := by
  decide +kernel
theorem wit_signalAndWait : issues 0 0 run1 ∧ run1.quiet 0 0 = true ∧ run1.reg .chSigSkip 0 0 = 0 ∧
    (match run1.counterAt 0 0 0 with | .ok a => a == G + 0x3000 | .error _ => false) = true ∧
    7 ≤ run1.num (G + 0x3000) 8 ∧ run1.num (G + 0x3000) 8 < 8 ∧ (run1.gallery 0).watches.length < 64 := by
  unfold issues; decide +kernel
/-- No entry of the table of `run0` or `run1` reads with an uncorrectable error. -/
theorem wit_entries : run0.entryPoison 0 0 [0, 255] = none ∧ run1.entryPoison 0 0 [0, 1] = none ∧
    run1.entryPoison 0 0 (run1.nestEntries 0 0 0) = none := by decide +kernel

/-- Strand 1 waits on the counter at `G + 0x3000` since tick 0, with a limit of 1 µs, 2,001 ticks ago. -/
def waits1 : State :=
  (((((run1.setReg .chState 0 1 psWaiting).put .chWaitTimeoutUs 0 1).put .modTimeNow 0 2001).modStrand 0 1 (fun t =>
    { t with waitAddr := G + 0x3000, waitTarget := 7 })))
theorem wit_waits : waits1.reg .chState 0 1 = psWaiting ∧ (waits1.strand 0 1).timedOut = false ∧ waits1.reg .chWaitTimeoutUs 0 ≠ 0 ∧
    (waits1.strand 0 1).waitSince + 2000 * waits1.reg .chWaitTimeoutUs 0 < waits1.now ∧ waits1.watched 0 1 = false ∧
    waits1.reg .chCurStrand 0 ≠ 4 := by decide +kernel
theorem test_waitTimeout : after (exec (.waitTimeout 0 1) waits1) (fun t => t.reg .chWaitTimeout 0 == 1 && t.events.length == 1) &&
    after (exec (.waitPoll 0 1) waits1) (fun t => t.reg .chState 0 1 == psReady) = true := by decide +kernel
theorem wit_watches : ∃ w ∈ ((waits1.modGallery 0 (fun x => { x with watches := [(G + 0x3000, 7, 0, 1)] })).gallery 0).watches,
    w.1 = G + 0x3000 ∧ w.2.1 ≤ waits1.num (G + 0x3000) 8 := ⟨(G + 0x3000, 7, 0, 1), by decide +kernel⟩

theorem wit_ldlen : issues 0 0 run1 ∧ run1.mapped (canonAddr 0 G) 4 = true ∧ run1.poisoned (canonAddr 0 G) 4 = false := by
  unfold issues; decide +kernel
theorem test_ldlen : after (exec (.ldlen 0 0 15 G) run1) (fun t => t.reg .chLen 0 15 == 0x40000000) = true := by decide +kernel

/-- The bound of a BIND, with the view that an output which is not skipped needs: its mask, or nothing where the BIND is skipped. -/
def bindSeen (s : State) (m : Nat) : Option GmaskOut :=
  let o := s.boundOf 0 0 9 1 m 0
  if s.bindFar 0 0 (baseView 0 1 o.bytes .out o.ctx) 9 m 0 then none
  else match mkView s 0 1 o.bytes .out o.ctx o.tokenOrg with
    | .error _ => some .recErr
    | .ok v => if (s.pocketCheck v (v.span (128 * m) 128 (128 * s.bindBlkN 0 0 o v) 128)).isSome then some .range
      else match s.gmaskOf 0 0 1 m 0 with | .ok g => some g | .error _ => some .recErr
/-- A gradient mask of one block at `G + 0x6000`, with its row map and its block map; row 3 is frozen, the block is as `blk` says. -/
def masked0 (blk : Nat) : State :=
  ((((run1.write (G + 0x6000) (bytesLE 4 1 ++ bytesLE 4 1 ++ bytesLE 8 (G + 0x6100) ++ bytesLE 8 (G + 0x6200) ++ bytesLE 4 77 ++ List.replicate 36 0)).write
    (G + 0x6100) (bytesLE 16 8)).write (G + 0x6200) [blk]).setReg .chGmaskEn 0 0 1).setReg .chGmaskOut 0 0 1 |>.setReg .chGmaskBase 0 0 (G + 0x6000)
theorem wit_bind : bindSeen run1 0 = some .none ∧ bindSeen run1 5 = none ∧ bindSeen (masked0 0) 0 = some (.rows [3] false) ∧
    bindSeen (masked0 1) 0 = some (.rows [3] true) ∧ run1.entryPoison 0 0 [1] = none ∧ (masked0 1).entryPoison 0 0 [1] = none := by decide +kernel
theorem wit_maskedIssues : issues 0 0 (masked0 1) := by unfold issues; decide +kernel
theorem test_bind : after (exec (.bind 0 0 9 1 0 0) run1) (fun t => (t.strand 0 0).binds.map (·.tag) == [9] && t.reg .chPc 0 0 == 1 &&
      t.reg .chIssued 0 0 == 1) &&
    after (exec (.bind 0 0 9 1 0 0) (masked0 1)) (fun t => t.reg .chGmaskId 0 0 == 77 && t.reg .chIssued 0 0 == 0 && t.reg .chPc 0 0 == 1) =
    true := by decide +kernel

/-- The ring and the save area lie in the Gallery's memory, and one row statistic is in use. -/
def bnd0 : State := ((run0.put .chBoundaryBase 0 G).setReg .chRssaveBase 0 0 (G + 0x8000)).modStrand 0 0 (fun t => { t with rs := [{ terms := 1 }] })
theorem wit_boundary : issues 0 0 bnd0 ∧ bnd0.quiet 0 0 = true ∧ (∀ o ∈ bnd0.outstanding, o.opcode ≠ 0x74) ∧
    bnd0.mapped (canonAddr 0 (bnd0.reg .chBoundaryBase 0 + 96 * (bnd0.chamber 0).boundaryPos)) 96 = true ∧
    (bnd0.strand 0 0).rs.any (fun r => r.terms != 0) = true ∧ bnd0.mapped (canonAddr 0 (bnd0.reg .chRssaveBase 0 0)) 4096 = true := by
  unfold issues; decide +kernel
theorem test_boundary : after (exec (.boundary 0 0 77) bnd0) (fun t => t.reg .chLastBoundary 0 0 == 77 && t.reg .chPc 0 0 == 1) = true := by
  decide +kernel
theorem test_end : after (exec (.endWord 0 0) run0) (fun t => (t.strand 0 0).ended && t.reg .chCurStrand 0 != 0 &&
    after (exec (.strandDone 0 0) t) (fun u => u.reg .chState 0 0 == psDone)) = true := by decide +kernel


/-! ### Runs, feeds and banks -/

/-- A BF16 tile of zeros. -/
def zeroTile : Tile := { fmt := fmtBF16, words := List.replicate 128 (List.replicate 128 0), blkK := 0, blkMN := 0, kEnd := 1, mnEnd := 1 }
theorem zeroTile_plain : zeroTile.plain := ⟨by decide +kernel, by decide +kernel, by decide +kernel, by decide +kernel, by decide +kernel⟩

theorem outPlain_none {o : Option OutInfo} (h : o = none) : outPlain o := by
  subst h; intro x e; cases e

/-- A tile in each feed queue and a BIND of tag 3. -/
def fed0 : State := run0.modStrand 0 0 (fun t => { t with
  feedA := [zeroTile], feedB := [zeroTile], binds := [{ tag := 3, desc := 1, bytes := [], blkM := 0, blkN := 0, ctx := { lens := [] }, tokenOrg := 0 }] })
def sweepWord (init last : Bool) (k : Nat) : SweepWord := { pair := 2, bank := 1, init := init, last := last, kBlock := k, outTag := 3 }
/-- The run on bank 1 has taken K block 4. -/
def openRun : Run := { bank := 1, pair := some 2, lastK := some 4, kept := true }
def fed1 : State := (((fed0.modStrand 0 0 (fun t => { t with runs := [openRun] })).put .chBank1State 0 1).modChamber 0 (fun x =>
  { x with banks := tset {} x.banks 1 { rows := List.replicate 128 (List.replicate 128 accZero) } }))

theorem wit_sweepOpens : issues 0 0 fed0 ∧ (fed0.strand 0 0).feedA.head? = some zeroTile ∧ (fed0.strand 0 0).feedB.head? = some zeroTile ∧
    (∀ r ∈ (fed0.strand 0 0).runs, r.bank ≠ 1) ∧ fed0.reg (bankField 1) 0 = 0 ∧
    (fed0.strand 0 0).binds.any (fun q => q.tag == 3) = true ∧
    outPlain (fed0.outInfo 0 0 1 0 (.sweep 2 1 true false 0 3 :: (fed0.ahead 0 0).drop 1)) :=
  ⟨by unfold issues; decide +kernel, by decide +kernel, by decide +kernel, by decide +kernel, by decide +kernel, by decide +kernel,
    outPlain_none (by decide +kernel)⟩
theorem wit_sweepLast : ∀ x, fed0.outInfo 0 0 1 0 (.sweep 2 1 true true 0 3 :: (fed0.ahead 0 0).drop 1) = some x →
    x.frozenBlock = false ∧ x.frozenRows = [] := by decide +kernel
theorem wit_sweepGoesOn : issues 0 0 fed1 ∧ (fed1.strand 0 0).runs.find? (fun r => r.bank == 1) = some openRun ∧
    openRun.kept = true ∧ openRun.pair = some 2 ∧ (∀ k, openRun.lastK = some k → k < 5) ∧ openRun.refill = none ∧
    openRun.frozenRows = [] ∧ fed1.reg (bankField 1) 0 = 1 ∧ ((fed1.chamber 0).bank 1).rows.length = 128 ∧
    (∀ r, r < 128 → (((fed1.chamber 0).bank 1).rows.getD r []).length = 128) ∧
    outPlain (fed1.outInfo 0 0 1 0 (.sweep 2 1 false false 5 3 :: (fed1.ahead 0 0).drop 1)) := by
  refine ⟨by unfold issues; decide +kernel, by decide +kernel, rfl, rfl, ?_, rfl, rfl, by decide +kernel, by decide +kernel, by decide +kernel, outPlain_none (by decide +kernel)⟩
  intro k h; cases h; decide
/-- The program of `fed0`: its SWEEP, then LOADs of block 5 of both operands, which lies beyond the one element of descriptor 1, and
the run's last SWEEP: nothing of the run is left, and the first SWEEP ends it (R139). -/
def closing0 : State := ((fed0.modStrand 0 0 (fun t => { t with
  prog := G + 0x5000, words := 5
  binds := [{ tag := 3, desc := 1, bytes := desc1, blkM := 0, blkN := 0, ctx := { lens := [] }, tokenOrg := 0 }] })).write (G + 0x5020)
  ([0x10 + 2 * 2 ^ 8 + 2 ^ 11 + 2 ^ 12, 0x01 + 2 ^ 8 + 5 * 2 ^ 20, 0x01 + 2 ^ 8 + 2 ^ 16 + 5 * 2 ^ 20,
    0x10 + 2 * 2 ^ 8 + 2 ^ 11 + 2 ^ 13 + 5 * 2 ^ 16 + 3 * 2 ^ 40, 0x7F].flatMap (bytesLE 8))).write (G + 0x1040) desc1
def closingWord (s : State) : Option Nat :=
  let here := .sweep 2 1 true false 0 3 :: (s.ahead 0 0).drop 1
  s.closing 0 0 (sweepWord true false 0) false ((s.outInfo 0 0 1 0 here).map (·.m)) here
theorem wit_closing : closingWord closing0 = some 3 ∧ closingWord fed0 = none ∧ issues 0 0 closing0 ∧
    (closing0.outInfo 0 0 1 0 (.sweep 2 1 true false 0 3 :: (closing0.ahead 0 0).drop 1)).map (fun x =>
      (decide (128 * x.m < x.rEnd) && decide (128 * x.n < x.cEnd), x.frozenBlock, x.frozenRows)) = some (true, false, []) := by
  unfold issues; decide +kernel
/-- The LOAD of block 5 of `closing0` belongs to a SWEEP that is skipped. -/
def skipLoad0 : State := closing0.setReg .chPc 0 0 1 |>.modStrand 0 0 (fun t => { t with feedA := [], feedB := [] })
theorem wit_skippedLoad : issues 0 0 skipLoad0 ∧ skipLoad0.entryPoison 0 0 [1] = none ∧ skipLoad0.sweepReads 0 0 0 = false := by
  unfold issues; decide +kernel
theorem wit_sweepRefused : (run0.strand 0 0).feedA = [] ∧ sweepRefusal (sweepWord false false 0) false none false = some .chBankErr ∧
    sweepRefusal (sweepWord false false 4) false (some openRun) true = some .chOrderErr ∧
    sweepRefusal (sweepWord true true 0) true none false = some .chTagErr := by decide +kernel
/-- R67, R78: a SWEEP that continues no run sets its error bit and stops the strand. -/
theorem test_sweepRefused : after (exec (.sweep 0 0 (sweepWord false false 0) {}) run0) (fun t =>
    t.reg .chBankErr 0 == 1 && t.reg .chOwnHold 0 == 1 && (t.strand 0 0).stopped) = true := by decide +kernel
/-- One step of a Cell in BF16: 1.0 × 2.0 + 0 is 2.0 (R63). -/
theorem test_cell : cellAfter false fmtBF16 fmtBF16 [[0x3F80]] [[0x4000]] 0 0 accZero 1 = (accRound false (fp32 0x40000000)).1 := by
  decide +kernel

/-! ### Words that read and write memory -/

def isOk {ε α : Type} (x : Except ε α) (p : α → Bool) : Bool := match x with | .ok v => p v | .error _ => false

/-- A reader of one element that never fails reads a whole list of places; nothing is poisoned where no element is. -/
theorem readAll_ok (v : View) (s : State) (h : ∀ r c, ∃ x, v.read1 s r c = .ok x ∧ x.poisoned = false) (ps : List (Nat × Nat)) :
    ∃ xs, v.readAll s ps = .ok xs ∧ ∀ x ∈ xs, x.poisoned = false := by
  induction ps with
  | nil => exact ⟨[], rfl, by simp⟩
  | cons p ps ih =>
    obtain ⟨x, hx, px⟩ := h p.1 p.2
    obtain ⟨xs, hxs, pxs⟩ := ih
    exact ⟨x :: xs, by simp [View.readAll, hx, hxs, bind, Except.bind], by simpa [px] using pxs⟩
theorem readFetched_ok (v : View) (s : State) (h : ∀ r c, ∃ x, v.read1 s r c = .ok x ∧ x.poisoned = false) (f : s.refetching = false)
    (ps : List (Nat × Nat)) : ∃ s' xs, v.readFetched s ps = (s', .ok xs) ∧ ∀ x ∈ xs, x.poisoned = false := by
  obtain ⟨xs, e, p⟩ := readAll_ok v s h ps
  exact ⟨s, xs, by simp [View.readFetched, e, f], p⟩
theorem read1_beyond (v : View) (s : State) (r c : Nat) (h : v.rEnd = 0) : v.read1 s r c = .ok { code := none } := by
  simp [View.read1, View.loc, h, bind, Except.bind]

/-- The view that a descriptor of zeros gives: no row lies inside its bound. -/
def view0 (role : Role) : View := match mkView run0 0 0 (run0.descBytes 0 0 0) role (run0.strandCtx 0) with
  | .ok v => v | .error _ => { d := Desc.of [], role := role, c := 0, base := 0, rLo := 0, rEnd := 1, cLo := 0, cEnd := 0 }
theorem view0_mk (role : Role) (h : isOk (mkView run0 0 0 (run0.descBytes 0 0 0) role (run0.strandCtx 0)) (fun _ => true) = true) :
    mkView run0 0 0 (run0.descBytes 0 0 0) role (run0.strandCtx 0) = .ok (view0 role) := by
  unfold view0
  cases e : mkView run0 0 0 (run0.descBytes 0 0 0) role (run0.strandCtx 0) with
  | ok v => rfl
  | error x => rw [e] at h; cases h
theorem view0_reads (role : Role) (h : (view0 role).rEnd = 0) (ps : List (Nat × Nat)) :
    ∃ s' xs, (view0 role).readFetched run0 ps = (s', .ok xs) ∧ ∀ x ∈ xs, x.poisoned = false :=
  readFetched_ok _ _ (fun r c => ⟨_, read1_beyond _ _ r c h, rfl⟩) (by decide +kernel) ps
theorem view0_ok : ∀ role ∈ [Role.opA, .opB, .plain, .out],
    isOk (mkView run0 0 0 (run0.descBytes 0 0 0) role (run0.strandCtx 0)) (fun _ => true) = true ∧ (view0 role).rEnd = 0 := by decide +kernel
theorem view0_joint : isOk ((mkView run0 0 0 (run0.descBytes 0 0 0) .opA (run0.wordCtx 0 0)).map (run0.jointK 0 0 0 0)) (· == view0 .opA) = true := by
  decide +kernel
theorem wit_load : issues 0 0 run0 ∧ run0.entryPoison 0 0 [0] = none ∧ run0.sweepReads 0 0 0 = true ∧
    isOk ((view0 .opA).info run0 7 9) (fun _ => true) = true ∧
    run0.mustWait 0 0 ((view0 .opA).span (128 * 9) 128 (128 * 7) 128) = false ∧
    ∀ ps, ∃ s' xs, (view0 .opA).readFetched run0 ps = (s', .ok xs) ∧ ∀ x ∈ xs, x.poisoned = false :=
  ⟨run0_issues, by decide +kernel, by decide +kernel, by decide +kernel, by decide +kernel, view0_reads _ (view0_ok _ (by decide)).2⟩
/-- The one element that lies inside the bounds of the descriptor of `run1` is the word 0x40000000 at `G`. -/
theorem test_read1 : isOk (mkView run1 0 1 (run1.descBytes 0 0 1) .opA (run1.strandCtx 0)) (fun v =>
    isOk (v.read1 run1 0 0) (fun x => x.code == some 0x40000000 && !x.poisoned) && isOk (v.read1 run1 0 1) (fun x => x.code == none)) =
    true := by decide +kernel
theorem wit_refillLoad : (∀ r ∈ (run0.strand 0 0).runs, r.bank ≠ 1) ∧
    (let v := boundsView run0 0 0 (run0.descBytes 0 0 0) .out (run0.wordCtx 0 0)
     run0.mustWait 0 0 (v.span 0 128 0 128) = false ∧ run0.pocketCheck v (v.span 0 128 0 128) = none) := by decide +kernel
theorem test_refillLoad : after (exec (.load 0 0 0 2 1 0 0) run0) (fun t =>
    (t.strand 0 0).runs.map (fun r => (r.bank, r.refilled, r.kept)) == [(1, true, false)]) = true := by decide +kernel
/-- A refill of bank 1 is still to come. -/
def refill0 : State := run0.modStrand 0 0 (fun t => { t with
  runs := [{ bank := 1, pair := none, lastK := none, kept := false, refill := some (0, List.replicate 64 0, 0, 0), refilled := true }] })
def refillView : View := match mkView refill0 0 0 (List.replicate 64 0) .out { lens := [] } with | .ok v => v | .error _ => view0 .out
theorem wit_bankRefill : (refill0.refillOf 0 1).map (fun x => (x.1, x.2.refill)) = some (0, some (0, List.replicate 64 0, 0, 0)) ∧
    refill0.reg (bankField 1) 0 = 0 ∧ refill0.reg .chFaultFreeze 0 ≠ 1 ∧
    isOk (mkView refill0 0 0 (List.replicate 64 0) .out { lens := [] }) (fun v => v == refillView) = true ∧ refillView.rEnd = 0 := by
  decide +kernel
theorem wit_refillReads (ps : List (Nat × Nat)) : ∃ s' xs, refillView.readFetched refill0 ps = (s', .ok xs) ∧ ∀ x ∈ xs, x.poisoned = false :=
  readFetched_ok _ _ (fun r c => ⟨_, read1_beyond _ _ r c wit_bankRefill.2.2.2.2, rfl⟩) (by decide +kernel) ps
theorem copyPieces_beyond (s : State) (vs vd : View) (h : vs.rEnd = 0) (xs : List (Nat × Nat)) : copyPieces s vs vd xs = .ok [] := by
  induction xs with
  | nil => rfl
  | cons p ps ih => simp [copyPieces, View.loc, h, ih, bind, Except.bind]
theorem wit_copy (vd : View) (xs : List (Nat × Nat)) : copyFetched run0 (view0 .plain) vd xs = (run0, .ok []) := by
  have f : run0.refetching = false := by decide +kernel
  simp [copyFetched, copyPieces_beyond run0 _ vd (view0_ok .plain (by decide)).2 xs, f]
theorem wit_copyMoves : isOk (mkView run1 0 1 (run1.descBytes 0 0 1) .out (run1.strandCtx 0) (tokenOrgOf run1 0 (Desc.of (run1.descBytes 0 0 1))
      (Desc.of (run1.descBytes 0 0 1)).base (run1.lens 0))) (fun vd =>
    isOk (mkView run1 0 1 (run1.descBytes 0 0 1) .plain (run1.strandCtx 0)) (fun vs =>
      run1.mustWait 0 0 (vs.span 0 128 0 128) == false &&
      isOk (copyFetched run1 vs vd [(0, 0), (0, 1), (127, 127)]).2 (fun ps => ps == [(G, G, 4, false)]))) = true := by decide +kernel
theorem wit_vload : issues 0 0 run0 ∧ run0.mustWait 0 0 ((view0 .plain).span (4 * 3) 4 (128 * 5) 128) = false ∧
    ∃ s' xs, (view0 .plain).readFetched run0 (lanePlaces 3 5) = (s', .ok xs) ∧ ∀ x ∈ xs, x.poisoned = false :=
  ⟨run0_issues, by decide +kernel, view0_reads _ (view0_ok _ (by decide)).2 _⟩
theorem test_vload : after (exec (.vload 0 0 1 7 0 0) run1) (fun t =>
    ((t.chamber 0).vreg 7).getD 0 accZero == (accRound false (fp32 0x40000000)).1 && ((t.chamber 0).vreg 7).getD 1 accZero == accZero) = true := by
  decide +kernel
theorem wit_vstore : isOk (mkView run1 0 1 (run1.descBytes 0 0 1) .out (run1.strandCtx 0)) (fun v =>
    let ws := convertAll false v 0 (run1.draws 0 0 1) ((((lanePlaces 0 0).zip ((run1.chamber 0).vreg 2)).filter (fun x =>
      decide (x.1.1 < v.rEnd) && decide (x.1.2 < v.cEnd))).map (fun x => (x.1.1, x.1.2, x.2)))
    !ws.2.idxRange && isOk (run1.vstoreWrites v ws.1) (fun w => w.1 == [(G, [0, 0, 0, 0])] && w.2.1 == 0)) = true := by decide +kernel
theorem test_vstore : after (exec (.vstore 0 0 1 2 0 0) run1) (fun t => t.num G 4 == 0 && t.num (G + 4) 4 == 0 && t.reg .chPc 0 0 == 1) = true := by
  decide +kernel

/-! ### NEST, the Store's verdict, programs -/

/-- Entry 0 of the table: one block of M, N and K, with A, B and output descriptor 1 and no bank but 0 (R131, R132). -/
def nestBytes : List Byte :=
  [0x00, 0xFF, 1, 1, 1, 0xFF, 0xFF, 5] ++ bytesLE 4 1 ++ bytesLE 4 1 ++ bytesLE 4 1 ++ List.replicate 44 0
def nest0 : State := run1.write (G + 0x1000) nestBytes
/-- The first problem of a NEST, expanded. -/
def nestExpansion (s : State) : Option Expansion :=
  let (p, s1) := s.nestReady 0 0 0
  match p.entry with
  | some (.ok ctx) => some (expand s1 0 0 p.descs p.top p.leaf p.pair p.resume ctx { runs := p.runs, bank := p.bank })
  | _ => none
theorem wit_nest : issues 0 0 nest0 ∧ nest0.entryPoison 0 0 (nest0.nestEntries 0 0 0) = none ∧ (nest0.nestReady 0 0 0).1.top.problems ≠ 0 := by
  unfold issues; decide +kernel
/-- R133: the run of the one block is BIND, LOAD of A, LOAD of B and SWEEP; both delivery formats are LNS16, pair 1. -/
theorem test_nest : (nestExpansion nest0).map (fun e => e.words.map (·.word)) =
    some [.bind 5 1 0 0, .load 1 0 0 0 0, .load 1 1 0 0 0, .sweep 1 0 true true 0 5] := by decide +kernel
def nestListBytes : List Byte :=
  [0x20, 0xFF, 1, 1, 1, 0xFF, 0xFF, 5] ++ bytesLE 4 1 ++ bytesLE 4 1 ++ bytesLE 4 1 ++ List.replicate 16 0 ++ bytesLE 4 1 ++
    bytesLE 8 (G + 0x7000) ++ List.replicate 16 0
/-- A NEST of a list of one problem whose entry has every byte 0xFF (R144, R145). -/
def nestBad : State := (nest0.write (G + 0x1000) nestListBytes).write (G + 0x7000) (List.replicate 64 0xFF)
theorem wit_nestBad : issues 0 0 nestBad ∧ nestBad.entryPoison 0 0 (nestBad.nestEntries 0 0 0) = none ∧
    (nestBad.nestReady 0 0 0).1.top.problems = 1 ∧ (match (nestBad.nestReady 0 0 0).1.entry with | some (.bad _) => true | _ => false) = true ∧
    nestBad.quiet 0 0 = true := by unfold issues; decide +kernel
theorem test_nestBad : after (exec (.nest 0 0 0) nestBad) (fun t => (t.strand 0 0).stopped) = true := by decide +kernel

def bound1 : Bound := { tag := 3, desc := 1, bytes := run1.descBytes 0 0 1, blkM := 0, blkN := 0, ctx := run1.strandCtx 0, tokenOrg := 0 }
def draining0 : State :=
  (run1.put .chBank0State 0 2).modChamber 0 (fun x => { x with banks := tset {} x.banks 0 { bound := some bound1 } })
theorem wit_bankDrain : draining0.reg (bankField 0) 0 = 2 ∧ draining0.reg .chFaultFreeze 0 ≠ 1 ∧ (draining0.chamber 0).store.length < 2 ∧
    ((draining0.chamber 0).bank 0).bound = some bound1 ∧ draining0.routineWaits 0 ((draining0.chamber 0).bank 0) bound1 = false ∧
    (draining0.sfImage 0).bad = false ∧ run0.reg (bankField 0) 0 ≠ 2 ∧ (run0.chamber 0).store = [] ∧
    (draining0.put .chFaultFreeze 0 1).reg .chFaultFreeze 0 = 1 := by decide +kernel
def stored0 (fail : Option Nat) : State := run0.modChamber 0 (fun x =>
  { x with store := [{ strand := 0, bank := 0, span := ⟨G, G + 2⟩, writes := [(G, [1, 2])], failRow := fail }] })
theorem wit_verdict : (stored0 none).reg .chCheckFail 0 = 0 ∧ ((stored0 none).strand 0 0).stopped = false ∧
    ((stored0 none).chamber 0).store.map (fun x => (x.failRow, x.err)) = [(none, none)] ∧
    ((stored0 (some 127)).chamber 0).store.map (·.failRow) = [some 127] ∧ (∀ i, i < 4 → ((stored0 none).strand 0 i).emit = []) := by
  decide +kernel
/-- A tile whose address failed. -/
def storedErr : State := run0.modChamber 0 (fun x =>
  { x with store := [{ strand := 0, bank := 0, span := ⟨G, G + 2⟩, writes := [(G, [1, 2])], failRow := none, err := some (.addr G) }] })
theorem test_verdictErr : after (exec (.checkVerdict 0) storedErr) (fun t => (t.strand 0 0).stopped && t.num G 2 == 0 && (t.chamber 0).store.isEmpty) =
    true := by decide +kernel
/-- R82, R84: a tile that passes is written; one whose row 127 fails is not. -/
theorem test_verdict : after (exec (.checkVerdict 0) (stored0 none)) (fun t => t.num G 2 == 0x201) &&
    after (exec (.checkVerdict 0) (stored0 (some 127))) (fun t => t.num G 2 == 0 && t.reg .chFailRow 0 == 127 && t.reg .chFaultFreeze 0 == 1) =
    true := by decide +kernel

/-- A program of one END word at `G + 0x5000`. -/
def prog0 : State := (s0.write (G + 0x5000) (bytesLE 8 (3 + 2 ^ 16) ++ List.replicate 24 0 ++ bytesLE 8 0x7F)).setReg .chProgAddr 0 0 (G + 0x5000)
/-- The strand is ADMITTING, and the active bank of the Chamber's tables holds an image. -/
def admitting (s : State) : State :=
  ((s.setReg .chState 0 0 psAdmitting).modStrand 0 0 (fun t => { t with prog := G + 0x5000 })).modChamber 0 (fun x => { x with sf0 := some {} })
theorem wit_go : prog0.reg .chRetired 0 ≠ 1 ∧ prog0.reg .chState 0 0 = psEmpty ∧ (run0.reg .chState 0 0 ≠ psEmpty ∧ run0.reg .chState 0 0 ≠ psDone ∧
    run0.reg .chState 0 0 ≠ psRefused) ∧ (s0.put .chRetired 0 1).reg .chRetired 0 = 1 := by decide +kernel
theorem test_go : after (exec (.go 0 0) prog0) (fun t => t.reg .chState 0 0 == psAdmitting) &&
    after (exec (.go 0 0) run0) (fun t => t.reg .chAccessErr 0 == 1 && t.reg .chState 0 0 == psRunning) = true := by decide +kernel
/-- R98: a header of another format is refused with code 0x07. -/
theorem wit_scan : isOk ((admitting prog0).scan 0 ((admitting prog0).strand 0 0).prog ((admitting prog0).jobMajor ((admitting prog0).strand 0 0).job))
      (fun r => match r with | .inr h => h.wordCount == 1 | .inl _ => false) = true ∧
    isOk ((admitting s0).scan 0 ((admitting s0).strand 0 0).prog ((admitting s0).jobMajor ((admitting s0).strand 0 0).job))
      (fun r => match r with | .inl x => x == (7, 0) | .inr _ => false) = true ∧ (admitting s0).reg .chCurStrand 0 = 4 ∧
    (admitting s0).reg .chState 0 0 = psAdmitting ∧ (admitting s0).imageReady 0 ((admitting s0).strand 0 0).job = true ∧ s0.imageReady 0 (s0.strand 0 0).job = false := by decide +kernel
theorem test_scan : after (exec (.admissionScan 0 0) (admitting prog0)) (fun t => t.reg .chState 0 0 == psRunning || t.reg .chState 0 0 == psReady) &&
    after (exec (.admissionScan 0 0) (admitting s0)) (fun t => t.reg .chState 0 0 == psRefused && t.reg .chRefuseCode 0 0 == 7) = true := by
  decide +kernel
theorem wit_abort : fed1.reg .chState 0 0 ≠ psEmpty ∧ fed1.reg (bankField 1) 0 ≠ 0 ∧ ((fed1.chamber 0).bank 1).owner = 0 ∧
    ((fed1.chamber 0).bank 0).owner ≠ 1 := by decide +kernel
theorem test_abort : after (exec (.abort 0 0) fed1) (fun t => t.reg .chState 0 0 == psEmpty && t.reg .chBank1State 0 == 0) = true := by decide +kernel

/-! ### Pocket, tables, Galleries, holds -/

theorem wit_scrub : (s0.put .chScrubEn 0 1).reg .chScrubEn 0 ≠ 0 ∧ ∀ o ∈ [0, 0x5FFFFF], o < 0x600000 := by decide +kernel
theorem test_scrub : after (exec (.pocketPatrolScrub 0 { corrected := [0], uncorrectable := [0x5FFFFF] }) (s0.put .chScrubEn 0 1)) (fun t =>
    t.reg .chPocketCorr 0 == 1 && t.reg .chPocketUncorr 0 == 1 && t.poisoned (pocketBase + 0x5FFFFF) 1) = true := by decide +kernel
/-- The header of a native image of 12,288 bytes that are zero after it, with their CRC (R114). -/
def table0 (n : Nat) : State := ((s0.write G ([0, 0, 3, 0] ++ bytesLE 4 12288 ++ bytesLE 4 0xDD24D9E6)).put .chSfLoadAddr 0 G).put .chLoadState 0 n
theorem wit_tables : (table0 0).reg .chLoadState 0 = 0 ∧ (table0 1).reg .chLoadState 0 = 1 ∧ (table0 2).reg .chLoadState 0 = 2 ∧
    (table0 3).reg .chLoadState 0 = 3 ∧ (tableImage (table0 1) (canonAddr 0 ((table0 1).reg .chSfLoadAddr 0))).isSome = true ∧
    tableImage ((s0.put .chSfLoadAddr 0 G).put .chLoadState 0 1) G = none ∧ (table0 2).reg .chBank0State 0 ≠ 2 ∧ (table0 2).reg .chBank1State 0 ≠ 2 ∧
    (table0 2).reg .chActiveBank 0 < 2 := by decide +kernel
theorem test_tableLoad : after (exec (.tableLoad 0) (table0 0)) (fun t => t.reg .chLoadState 0 == 1) &&
    after (exec (.tableLoadComplete 0) ((s0.put .chSfLoadAddr 0 G).put .chLoadState 0 1)) (fun t => t.reg .chLoadState 0 == 0 && t.reg .chImageErr 0 == 1) =
    true := by decide +kernel
theorem test_epoch : after (exec (.sfEpochSwitch 0 true) (table0 2)) (fun t => t.reg .chLoadState 0 == 3 && t.reg .chSfEpoch 0 == 1) &&
    after (exec (.oldBankRelease 0) (table0 3)) (fun t => t.reg .chLoadState 0 == 0) = true := by decide +kernel

/-- The default table is a good shadow table, and one whose slots all have class 5 is not. -/
theorem wit_slots : (s0.put .glSlotPending 0 1).reg .glSlotPending 0 ≠ 0 ∧ slotsOk (fun w => s0.reg .glSlotShadow 0 w) = true ∧
    slotsOk (fun _ => 0x55555555) = false := by decide +kernel
theorem test_slotFrame : after (exec (.slotFrameBoundary 0) (s0.put .glSlotPending 0 1)) (fun t =>
    t.reg .glFrames 0 == 1 && t.reg .glSlotPending 0 == 0) && after (exec (.slotCommit 31) s0) (fun t => t.reg .glSlotPending 31 == 1) = true := by
  decide +kernel
def stopped0 : State := (s0.put .glOwnHold 0 1).put .glStopped 0 1
theorem wit_cacheSteps : stopped0.reg .glOwnHold 0 = 1 ∧ stopped0.reg .glStopped 0 = 1 ∧ stopped0.reg .glCacheSteps 0 < 8 ∧
    ¬ (s0.reg .glOwnHold 0 = 1 ∧ s0.reg .glStopped 0 = 1) := by decide +kernel
theorem test_cacheSteps : after (exec (.cacheStepsWrite 0 7) stopped0) (fun t => t.reg .glCacheSteps 0 == 7) &&
    after (exec (.cacheStepsWrite 0 7) s0) (fun t => t.reg .glSplitRefused 0 == 1 && t.reg .glCacheSteps 0 == s0.reg .glCacheSteps 0) = true := by
  decide +kernel
theorem wit_holds : holdBit .steward (.chamber 255) = some (.chStewardHold, 255) ∧ startBit .keeper (.gallery 31) = some (.glKeeperHold, 31) ∧
    s0.startable (.chamber 255) = true ∧ restarter (.chamber 0) = some (.steward, .chOwnHold, 0) ∧ restarter (.junction 7) = none ∧
    s0.ownFault .steward (.gallery 0) = false ∧ startBit .steward (.gallery 0) = some (.glOwnHold, 0) := by decide +kernel
/-- R13: the keeper stops a link, and no steward does. -/
theorem test_stopLink : after (exec (.stop .keeper (.link 0 1) true) s0) (fun t => t.held (.link 0 1) &&
      after (exec (.start .keeper (.link 0 1)) t) (fun u => !u.held (.link 0 1))) &&
    stays (exec (.stop .steward (.junction 7) true) s0) s0 = true := by decide +kernel
theorem test_stopStart : after (exec (.stop .complex (.die 7) true) s0) (fun t => t.reg .dieComplexHold 7 == 1 && t.reg .dieStopped 7 == 1) &&
    after (exec (.start .steward (.chamber 0)) (s0.put .chStewardHold 0 1)) (fun t => t.reg .chStewardHold 0 == 0) &&
    after (exec (.restart .steward (.chamber 0)) ((s0.put .chOwnHold 0 1).put .chFaultFreeze 0 1)) (fun t =>
      t.reg .chOwnHold 0 == 0 && t.reg .chFaultFreeze 0 == 0) = true := by decide +kernel
theorem wit_retire : s0.reg .chRetired 5 = 0 ∧ (s0.put .chRetired 5 1).reg .chRetired 5 = 1 := by decide +kernel
theorem test_retire : after (exec (.retire 5) s0) (fun t => t.reg .chRetired 5 == 1 && t.reg .modRetiredChambers 0 == 1) = true := by decide +kernel

/-! ### Host commands -/

def done (o : Out) (h : Cmd) (status : Nat) (p : State → Bool) : Bool :=
  after o (fun t => !t.isOut h && t.outcomeOf h == some status && p t)

/-- Queue 1 replies, and a command of job 1 has started. -/
def cmd0 (op : Nat) : State :=
  { s0 with outstanding := [{ cmd := h5, opcode := op, jobId := 1, phase := .started }], jobs := [{ id := 1 }], nextJob := 2
            queues := tset {} s0.queues 1 { state := .active } }
theorem wit_memory : (cmd0 0x20).ready h5 = true ∧ (cmd0 0x20).replying h5 ∧ (cmd0 0x20).hostRange G 984 = true ∧
    ({ cmd0 0x20 with pcie := { (cmd0 0x20).pcie with busMaster := true } }).pcie.busMaster = true ∧
    (cmd0 0x20).poisoned G 4096 = false ∧ (cmd0 0x20).counterOk (G + 64) = true := by unfold State.replying; decide +kernel
theorem test_nop : done (exec (.nop h5) (cmd0 0x7F)) h5 0 (fun t => (t.queue 1).replies.map (·.status) == [0]) = true := by decide +kernel
theorem test_memWrite : done (exec (.memWrite h5 G [1, 2, 3]) (cmd0 0x22)) h5 0 (fun t => t.num G 4 == 0x30201) &&
    done (exec (.memWrite h5 registerBase [1]) (cmd0 0x22)) h5 0 (fun t => t.mem == s0.mem) = true := by decide +kernel
theorem test_memFill : done (exec (.memFill h5 G 64 0x0102030405060708) (cmd0 0x24)) h5 0 (fun t => t.num (G + 56) 8 == 0x0102030405060708) = true := by
  decide +kernel
theorem test_memRead : done (exec (.memRead h5 G 4 0x9000) { cmd0 0x23 with mem := run1.mem, pcie := { busMaster := true } }) h5 0
    (fun t => t.hostBytes 0x9000 4 == [0, 0, 0, 0x40]) = true := by decide +kernel
theorem test_counterSignal : done (exec (.counterSignal h5 G 9) (cmd0 0x51)) h5 0 (fun t => t.num G 8 == 9) = true := by decide +kernel
theorem wit_memAlloc : s0.rangeFree (s0.pool 1 31) (s0.pool 1 31).lo 65536 = true := by decide +kernel
theorem wit_memFree : ({ cmd0 0x21 with allocs := [(G + 0x200000, 65536)] }).allocs.any (fun x => x.1 == G + 0x200000) = true := by decide +kernel
theorem test_memFree : done (exec (.memFree h5 (G + 0x200000)) { cmd0 0x21 with allocs := [(G + 0x200000, 65536)] }) h5 0
    (fun t => t.allocs.isEmpty) = true := by decide +kernel

/-- A page-table header at `G`: BF16 pages, scales 1.0, limit 4096, directory at the Gallery's second 32 KiB, whose entry 0 names
a leaf table at the third (R153 to R155). -/
def paged0 (op : Nat) : State :=
  ((cmd0 op).write G (bytesLE 8 (G + 0x8000) ++ [2, 0, 0, 0] ++ bytesLE 4 0x3F800000 ++ bytesLE 4 0x3F800000 ++ bytesLE 4 4096 ++ List.replicate 40 0)).write
    (G + 0x8000) (bytesLE 8 (G + 0x10000 + 1))
theorem wit_ptUpdate : isOk (readHeader (paged0 0x25) G) (fun hd => scaleOk hd.kScale && scaleOk hd.vScale && hd.limit == 4096 &&
      [0, 1, 4095].all (fun n => (paged0 0x25).entryAddr hd 0 n == some (G + 0x10000 + 8 * n)) &&
      (paged0 0x25).entryAddr hd 1 4095 == some (G + 0x8000 + 8 * 4095)) = true ∧
    (paged0 0x25).hostRange (G + 0x10000 + 8 * 4095) 8 = true ∧ entryOk 0 2 0 = true ∧ entryOk 1 2 (G + 0x18000 + 1) = true := by decide +kernel
theorem test_ptUpdate : done (exec (.ptUpdate h5 G 4094 0 [2 ^ 31, 6]) (paged0 0x25)) h5 0 (fun t =>
    t.num (G + 0x10000 + 8 * 4094) 8 == 2 ^ 31 && t.num (G + 0x10000 + 8 * 4095) 8 == 6) = true := by decide +kernel

/-- Tensors 1 to 5 of job 1, of one element in the Gallery's memory, one cache line apart, with fixed scale 1.0. -/
def tensorP (id fmt rows : Nat) : TensorParams :=
  { id := id, format := fmt, space := 1, policy := 0, histH := 1, histM := 0, saveMode := 0, saveFmt := 0, pageHalf := 0, scale := 0x3F800000
    base := G + 64 * id, rows := rows, cols := 1, rowStride := 64, saveBase := 0, idxBase := 0 }
/-- The group of Chamber 0, which runs. -/
def gr0 : StageGroup := { job := 1, stageId := 0, layout := 0, stale := 0, chambers := [0] }
def tens (fmt op : Nat) : State :=
  { (((cmd0 op).write (G + 64) (bytesLE 4 (if fmt = 6 then 0x40000000 else 0x4000))).write (G + 128) (bytesLE 4 (if fmt = 6 then 0x3F800000 else 0x3F80))) with
    groups := [gr0], tensors := [1, 2, 3, 4, 5].map (fun id => { job := 1, p := tensorP id fmt 1, scale := 0x3F800000 }) }
theorem wit_tensors : passes ((cmd0 0x30).tensorChecks h5 (tensorP 0xFFFFFFFF 7 1)) ∧ (tens 2 0x31).hasJob h5 = true ∧
    ((tens 2 0x31).tensor? 1 5).map (·.p.policy) = some 0 ∧ ((tens 2 0x31).before h5).any (fun o => o.names 1 5) = false := by
  unfold passes; decide +kernel
theorem test_tensorCreate : done (exec (.tensorCreate h5 (tensorP 9 7 1)) (cmd0 0x30)) h5 0 (fun t => (t.tensor? 1 9).isSome) &&
    done (exec (.tensorCreate h5 { tensorP 9 7 1 with format := 8 }) (cmd0 0x30)) h5 stBadParam (fun t => (t.tensor? 1 9).isNone) = true := by
  decide +kernel
theorem test_tensorDestroy : done (exec (.tensorDestroy h5 5) (tens 2 0x31)) h5 0 (fun t => (t.tensor? 1 5).isNone && (t.tensor? 1 4).isSome) &&
    done (exec (.scaleSet h5 5 0x40000000) (tens 2 0x32)) h5 0 (fun t => (t.tensor? 1 5).map (·.scale) == some 0x40000000) = true := by decide +kernel

/-! Queues, CANCEL, jobs -/
def h0 : Cmd := ⟨0, 9⟩
def adm0 (op : Nat) : State := { ((cmd0 op).put .pciFwIfMin 0 1).put .pciFwIfMax 0 1 with outstanding := [{ cmd := h0, opcode := op, phase := .started }] }
def queueP : QueueParams := { queueId := 63, priority := 3, fmtMin := 2, fmtMax := 9, sqLog2 := 16, stqLog2 := 6, msix := 63, sqBase := 4096
                              stqBase := 8192, coalesceCount := 0, coalesceUs := 0, fwIf := 1 }
theorem wit_queues : (adm0 1).ready h0 = true ∧ passes ((adm0 1).queueChecks h0 queueP) ∧ ((adm0 2).queue 1).state = .active ∧
    ((adm0 2).queue 1).replies = [] ∧ (∀ o ∈ (adm0 2).outstanding, o.cmd.queue ≠ 1) ∧ (∃ o ∈ (cmd0 0).outstanding, o.cmd.queue = 1) := by
  unfold passes; decide +kernel
theorem test_queueCreate : done (exec (.queueCreate h0 queueP) (adm0 1)) h0 0 (fun t => (t.queue 63).state == .active && (t.queue 63).format == 3) &&
    done (exec (.queueDelete h0 1 0) (adm0 2)) h0 0 (fun t => (t.queue 1).state == .absent) = true := by decide +kernel
/-- A command that waits for its start, beside the CANCEL. -/
def cancel0 : State := { cmd0 4 with
  outstanding := { cmd := h5, opcode := 4, phase := .started } :: [{ cmd := ⟨1, 4⟩, opcode := 0x40, phase := .fetched }]
  queues := tset {} s0.queues 1 { state := .active, nextSeq := 6 } }
theorem wit_cancel : cancel0.outstanding.find? (fun o => o.cmd == ⟨1, 4⟩) = some { cmd := ⟨1, 4⟩, opcode := 0x40, phase := .fetched } ∧
    cancel0.isOut ⟨1, 3⟩ = false ∧ seqBefore 3 (cancel0.queue 1).nextSeq = true ∧ seqBefore 6 (cancel0.queue 1).nextSeq = false ∧
    (∀ c ∈ cancel0.colls, c.cmd ≠ some ⟨1, 4⟩) := by decide +kernel
theorem test_cancel : done (exec (.cancel h5 1 4) cancel0) h5 0 (fun t => t.outcomeOf ⟨1, 4⟩ == some stCancelled) &&
    done (exec (.cancel h5 1 6) cancel0) h5 0 (fun t => (t.queue 1).cancelled == [(6, 5)]) = true := by decide +kernel

def jobP : JobParams := { major := 3, minor := 0, numerics := 1, collOrder := 1, sfMode := 1, generator := 1, tag := 4095, seed := 7, rankMap := 0, rankCount := 0 }
theorem wit_jobAdmit : passes ((cmd0 0x10).admitChecks h5 jobP) ∧ (settleVersion 3 0 []).isSome = true := by unfold passes; decide +kernel
theorem test_jobAdmit : done (exec (.jobAdmit h5 jobP) (cmd0 0x10)) h5 0 (fun t => (t.job? 2).map (fun j => (j.numerics, j.tag)) == some (1, 4095) && t.nextJob == 3) =
    true := by decide +kernel
theorem wit_jobEnd : (cmd0 0x11).jobOf h5 = some { id := 1 } ∧ (∀ c ∈ (cmd0 0x11).colls, c.job ≠ 1) ∧
    ((cmd0 0x11).before h5).any (fun o => o.jobId == 1) = false := by decide +kernel
theorem test_jobEnd : done (exec (.jobEnd h5) (tens 2 0x11)) h5 0 (fun t => t.tensors.isEmpty && (t.job? 1).map (·.ended) == some true) = true := by
  decide +kernel
/-- The Pocket of Chamber 255 has no room for one more stage. -/
def fullPocket : State := { cmd0 0x12 with groups := [{ job := 2, stageId := 0, layout := 0, stale := 0, chambers := [255], slice := 0x500001 }] }
theorem test_noPocket : done (exec (.stageBind h5 7 1 1 (2 ^ 255)) fullPocket) h5 stNoResources (fun t => t.groups.length == 1) = true := by decide +kernel
theorem wit_stageBind : (cmd0 0x12).groupForm (maskChambers (2 ^ 255)) = true ∧ (maskChambers (2 ^ 255)).filter (fun c => (cmd0 0x12).reg .chRetired c == 0) = [255] ∧
    pocketKept ≤ (cmd0 0x12).pocketFree 255 1 7 ∧ fullPocket.pocketFree 255 1 7 < pocketKept := by
  decide +kernel
theorem test_stageBind : done (exec (.stageBind h5 7 1 1 3) (cmd0 0x12)) h5 0 (fun t => t.groups.map (·.chambers) == [[0, 1]]) = true := by decide +kernel
/-- Chamber 255 holds the native image; strand 0 belongs to a job of the other `SF_MODE` where `busy` is set. -/
def stage0 (busy : Bool) : State :=
  let s := { (cmd0 0x46).modChamber 255 (fun x => { x with sf0 := some {} }) with jobs := [{ id := 1 }, { id := 2, sfMode := 1 }] }
  if busy then (s.setReg .chState 255 0 psReady).modStrand 255 0 (fun t => { t with job := 2 }) else s
theorem wit_stageRun : (stage0 false).jobOf h5 = some { id := 1 } ∧ (stage0 false).reg .chRetired 255 = 0 ∧ (stage0 false).reg .chState 255 3 = psEmpty ∧
    (stage0 false).jobMajor 1 = 3 ∧ (stage0 false).sfAgrees 255 0 = true ∧ ((stage0 false).forMode 255 1).imageReady 255 1 = true ∧
    (stage0 true).sfAgrees 255 0 = false := by decide +kernel
theorem test_stageRun : after (exec (.stageRun h5 255 3 3 (G + 32)) (stage0 false)) (fun t => t.isOut h5 && t.reg .chState 255 3 == psAdmitting &&
    t.reg .chPriority 255 3 == 3) && stays (exec (.stageRun h5 255 3 3 (G + 32)) (stage0 true)) (stage0 true) = true := by decide +kernel
/-- A program of one SWEEP of pair 3, which a job of contract 2 may not name (R32). -/
def g16Job : State := { (stage0 false).write (G + 0x5000) (bytesLE 8 (3 + 2 ^ 16) ++ List.replicate 24 0 ++ bytesLE 8 (0x10 + 3 * 2 ^ 8)) with
  jobs := [{ id := 1, major := 2 }] }
theorem test_stageRunG16 : (g16Job.jobMajor 1 == 2 && g16Job.namesG16 255 (G + 0x5000)) &&
    done (exec (.stageRun h5 255 3 3 (G + 0x5000)) g16Job) h5 stNotInVersion (fun _ => true) = true := by decide +kernel

/-! ### Operations on tensors -/

def contractP : ContractParams :=
  { a := 1, b := 2, out := 3, role := 0, rnd := 0, drainFunc := 0xFF, kSeg := 0, stageId := 0, batchKey := 0, deadlineNs := 1000, stream := 0
    lenAddr := 0, gmaskAddr := 0, listAddr := 0, listCount := 0, edges := [] }
def ten (s : State) (id : Nat) : Tensor := (s.tensor? 1 id).getD { job := 9, p := tensorP 9 0 0, scale := 0 }
def theTask (s : State) (p : ContractParams) : Except RdErr (List (Problem × Task) × List Nat) := s.contractTasks p (ten s 1) (ten s 2) (ten s 3)
/-- What a CONTRACT that runs needs, with the bytes that it writes. -/
def contractWrites (s : State) (p : ContractParams) : List (Nat × List Byte) :=
  let s1 := s.refetchTensors 1 [p.a, p.b]
  match s1.contractTensors h5 p, s1.stageGroup 1 p.stageId with
  | some (ta, tb, tout), some g =>
    if !(firstBad (s1.contractChecks h5 p) == none && s1.stageRuns (some g)) then []
    else match s1.contractTasks p ta tb tout with
      | .error _ => []
      | .ok (ts, lens) =>
        match (g.operandState s1).runTasks (s1.heldRects h5 0x40) none ts with
        | .error _ => []
        | .ok r =>
          let (m, n, k) := tasksBlocks ts
          let s2 := (s1.setGroup (s1.contractPlans g p ta tb tout false lens ts).1).runPlans
            (s1.contractPlans g p ta tb tout false lens ts).2 (s1.stacksOf tout.job p.listCount [p.a, p.b])
          match s2.outputWrites h5 tout p.stream p.rnd { r.divide (contractDivision p false m n k) g.chambers with status := 0 } (drainGauss p.drainFunc)
              (drainFin (s1.strict tout.job) (s1.jobImage tout.job) p.drainFunc (s1.outDraws h5 tout p.stream)) with
          | .ok o => if o.far || (badBuckets p.edges lens).isSome then [] else o.writes
          | .error _ => []
  | _, _ => []
theorem wit_contract : (tens 2 0x40).ready h5 = true ∧ (tens 2 0x40).heldRects h5 0x40 = [] ∧
    contractWrites (tens 2 0x40) contractP = [(G + 192, [0, 0x40])] := by decide +kernel
/-- 2.0 × 1.0 is 2.0; the drain's scale is 1.0 (R49). -/
theorem test_contract : done (exec (.contract h5 contractP) (tens 2 0x40)) h5 0 (fun t => t.num (G + 192) 2 == 0x4000) &&
    done (exec (.contract h5 { contractP with rnd := 3 }) (tens 2 0x40)) h5 stBadParam (fun t => t.num (G + 192) 2 == 0) = true := by decide +kernel
/-- The Chamber of the stage is held (R15). -/
def heldStage (s : State) : State := s.put .chStewardHold 0 1
theorem wit_contractWaits : passes ((heldStage (tens 2 0x40)).contractChecks h5 contractP) ∧
    (heldStage (tens 2 0x40)).stageRuns ((heldStage (tens 2 0x40)).stageGroup 1 0) = false := by unfold passes; decide +kernel
def thinP : ContractParams := { contractP with batchKey := 5 }
def batched0 : State := { tens 2 0x40 with batches := [⟨1, 5, 1, [(h5, thinP)], 1⟩], fine := 0, outstanding :=
  [{ cmd := h5, opcode := 0x40, jobId := 1, phase := .held }] }
theorem wit_thin : passes ((tens 2 0x40).contractChecks h5 thinP) ∧ (tens 2 0x40).thinExtents h5 thinP = some (1, 1, 1) ∧ (tens 2 0x40).batches = [] := by
  unfold passes; decide +kernel
theorem wit_batchDeadline : (tens 2 0x40).ready h5 = true ∧ ({ tens 2 0x40 with batches := [⟨1, 5, 1, [(h5, thinP)], 1⟩] }.put .modTimeNow 0 2000).batches =
    [⟨1, 5, 1, [(h5, thinP)], 1⟩] ∧ ((tens 2 0x40).put .modTimeNow 0 2000).reg .modTimeNow 0 = 2000 ∧
    ((tens 2 0x40).entry h5).acceptTs + 2 * thinP.deadlineNs ≤ ((tens 2 0x40).put .modTimeNow 0 2000).now ∧
    batched0.stageRuns (batched0.batchGroup ⟨1, 5, 1, [(h5, thinP)], 1⟩) = true ∧
    (heldStage batched0).stageRuns ((heldStage batched0).batchGroup ⟨1, 5, 1, [(h5, thinP)], 1⟩) = false := by decide +kernel
theorem test_batch : after (exec (.contract h5 thinP) (tens 2 0x40)) (fun t => t.isOut h5 && t.batches.length == 1) &&
    done (exec (.batchDeadline h5) (batched0.put .modTimeNow 0 2000)) h5 0 (fun t => t.batches.isEmpty && t.num (G + 192) 2 == 0x4000) = true := by
  decide +kernel
/-- One segment of one term. -/
theorem wit_product : isOk (theTask (tens 2 0x40) contractP) (fun x => match x.1 with
    | (_, y) :: _ => y.prod.kSeg == 0 && isOk (y.prod.chain (tens 2 0x40) accZero 0 0 0 0) (fun _ => true) &&
        isOk (y.prod.a.read (tens 2 0x40) y.prod.strict 0 0) (fun a => a.1 == 0x4000) &&
        isOk (y.prod.b.read (tens 2 0x40) y.prod.strict 0 0) (fun b => b.1 == 0x3F80)
    | [] => false) = true := by decide +kernel

/-- A geometry record of one position, one channel and a kernel of 1 at `G + 0x400` (R186). -/
def convolve0 : State := (tens 2 0x41).write (G + 0x400)
  (bytesLE 2 1 ++ bytesLE 2 1 ++ bytesLE 2 1 ++ bytesLE 2 1 ++ bytesLE 2 1 ++ bytesLE 2 1 ++ bytesLE 2 1 ++ [0, 0, 1, 1, 1, 1, 1, 1, 1, 1, 1, 0, 0, 0] ++ List.replicate 36 0)
def convolveP : ConvolveParams := { x := 1, w := 2, out := 3, role := 0, rnd := 0, drainFunc := 0xFF, fsRate := 0, geomAddr := G + 0x400, stream := 0, stripes := 1 }
def convolveWrites (s : State) (p : ConvolveParams) : List (Nat × List Byte) :=
  let s1 := s.refetchTensors 1 [p.x, p.w]
  match s1.tensor? 1 p.x, s1.tensor? 1 p.w, s1.tensor? 1 p.out, s1.jobGroup 1 0x41 with
  | some tx, some tw, some tout, some gr =>
    if !(firstBad (s1.convolveChecks h5 p) == none && s1.stageRuns (some gr)) then []
    else match s1.convolveTask p tx tw tout with
      | .error _ => []
      | .ok y =>
        match s1.runTasks (s1.heldRects h5 0x41) none [({}, y)] with
        | .error _ => []
        | .ok r =>
          let g := Geom.of (s1.bytes p.geomAddr 64)
          let (m, n, _) := y.blocks
          let s2 := (s1.setGroup (s1.convolvePlans gr p g y).1).runPlans (s1.convolvePlans gr p g y).2 (s1.stacksOf 1 0 [p.x, p.w])
          match s2.outputWrites h5 tout p.stream p.rnd (r.divide (convolveDivision p g m n) (stripeChambers p.stripes gr.chambers))
              (drainGauss p.drainFunc) (drainFin (s1.strict 1) (s1.jobImage 1) p.drainFunc (s1.outDraws h5 tout p.stream)) with
          | .ok o => if o.far then [] else o.writes
          | .error _ => []
  | _, _, _, _ => []
theorem wit_convolve : convolveWrites convolve0 convolveP = [(G + 192, [0, 0x40])] := by decide +kernel
theorem test_convolve : done (exec (.convolve h5 convolveP) convolve0) h5 0 (fun t => t.num (G + 192) 2 == 0x4000) = true := by decide +kernel

/-- Page references of no key pages at `G + 0x400` and `G + 0x480`, with the header at `G + 0x600` (R158). -/
def attend0 (rows : Nat) : State :=
  let ref := bytesLE 8 (G + 0x600) ++ bytesLE 8 0 ++ bytesLE 4 0 ++ bytesLE 4 0 ++ [0, 15, 15, 15] ++ List.replicate 36 0
  let s := (((tens 2 0x42).write (G + 0x400) ref).write (G + 0x480) ref).write (G + 0x600)
    (bytesLE 8 (G + 0x8000) ++ [2, 0, 0, 0] ++ bytesLE 4 0x3F800000 ++ bytesLE 4 0x3F800000 ++ bytesLE 4 4096 ++ List.replicate 40 0)
  { s with tensors := [1, 3].map (fun id => { job := 1, p := tensorP id 2 rows, scale := 0x3F800000 }) }
def attendP : AttendParams := { q := 1, out := 3, kRef := G + 0x400, vRef := G + 0x480, scoreScale := 0x3F800000, keySeg := 0, rsAddr := 0, pass := 0
                                rnd := 0, listCount := 0, listAddr := 0, stream := 0, edges := [] }
def attendRuns (s : State) (p : AttendParams) : Bool :=
  let s1 := s.refetchTensors 1 [p.q]
  match s1.tensor? 1 p.q, s1.tensor? 1 p.out, s1.jobGroup 1 0x42 with
  | some tq, some tout, some g =>
    firstBad (s1.attendChecks h5 p) == none && s1.stageRuns (some g) && isOk (s1.sequences p) (fun qs =>
      qs.all (fun q => hdrScales q.kRef.hdr == none && hdrScales q.vRef.hdr == none) && attendFormats tq qs &&
      badBuckets p.edges (qs.map (·.seqLen)) == none && isOk (s1.attendAll (s1.heldRects h5 0x42) p tq tout qs) (fun x =>
        x.2.all (fun w => s1.hostRange w.1 w.2.length) &&
        isOk ((((s1.storeAll x.2).setGroup { g with chunks := g.chunks + 1 }).runPlans (s1.attendPlans g p tq tout qs) (List.range 32)).outputWrites h5 tout
          p.stream p.rnd { x.1 with parts := x.1.parts.flatMap (fun y => y.divide (.alongM (ceilDiv y.rows 128)) g.chambers) } {}
          (drainFin (s1.strict 1) (s1.jobImage 1) 0xFF (s1.outDraws h5 tout p.stream))) (fun o => !o.far)))
  | _, _, _ => false
theorem wit_attend : attendRuns (attend0 0) attendP = true := by decide +kernel

/-- MAP with the word `MOV V0, V0` (VOP function 0). -/
def mapP : MapParams := { src := 1, src2 := 0xFFFFFFFF, dst := 3, rnd := 0, stream := 0, words := [0x30] }
def mapWrites (s : State) (p : MapParams) : List (Nat × List Byte) :=
  let s1 := s.refetchTensors 1 [p.src, p.src2]
  match s1.mapCtx h5 p, s1.jobGroup 1 0x43 with
  | .ok (some (d, x)), some g =>
    if !(firstBad (s1.mapChecks h5 p) == none && s1.stageRuns (some g)) then []
    else match x.groups s1 x.all with
      | .error _ => []
      | .ok es =>
        let (r, s2) := s1.openPart h5 p d (x.produced (s1.heldRects h5 0x43) es)
        let s3 := (s2.setGroup g).runPlans (g.elementPlans x.dst.rEnd x.dst.cEnd (fun c n => g.plan c 0 1 [.map n])) (s1.stacksOf g.job 0 [p.src, p.src2])
        match s3.outputWrites h5 d p.stream p.rnd (r.divide (.alongM (ceilDiv x.dst.rEnd 128)) g.chambers) x.gauss x.fin with
        | .ok o => if o.far then [] else o.writes
        | .error _ => []
  | _, _ => []
theorem wit_map : mapWrites (tens 2 0x43) mapP = [(G + 192, [0, 0x40])] := by decide +kernel
theorem test_map : done (exec (.map h5 mapP) (tens 2 0x43)) h5 0 (fun t => t.num (G + 192) 2 == 0x4000) = true := by decide +kernel

def optP : OptParams := { w := 1, m := 2, v := 3, dw := 4, wcopy := 5, rnd := 0, b1 := 0x3F000000, b2 := 0x3F000000, c1 := 0x3F000000, c2 := 0x3F000000
                          h1 := 0x40000000, h2 := 0x40000000, e2 := 0x3F800000, lam := 0, negLr := 0xBF800000, gmaskAddr := 0, stream := 0 }
def optRuns (s : State) (p : OptParams) : Bool :=
  let s1 := s.refetchTensors 1 [p.w, p.m, p.v, p.dw]
  match s1.optCtx h5 p, s1.optGroup 1 p with
  | .ok (some (x, cp)), some g =>
    firstBad (s1.optChecks h5 p) == none && s1.stageRuns (some g) && (match s1.mask p.gmaskAddr x.w.rEnd x.w.cEnd with
      | .ok (.ok mask) => isOk (x.elems s1 (s1.strict 1) (s1.jobImage 1) p (x.places s1 h5 mask)) (fun es =>
          isOk (x.writes s1 (s1.strict 1) (s1.outDraws h5 cp p.stream) es) (fun w => !w.2.2.idxRange && !w.1.isEmpty))
      | _ => false)
  | _, _ => false
theorem wit_opt : optRuns (tens 6 0x45) optP = true ∧ (∀ j, (tens 6 0x45).jobOf h5 = some j → j.ranks.length < 2) := by decide +kernel
/-- R184 with w = 2, m = 1, v = 0 and dW = 0: m' = 0.5 and v' = 0, so w' = 2 − (2 · 0.5) · 1 / √1 = 1. -/
theorem test_optStep : done (exec (.optStep h5 optP) (tens 6 0x45)) h5 0 (fun t => t.num (G + 128) 4 == 0x3F000000 && t.num (G + 64) 4 == 0x3F800000) = true := by
  decide +kernel

/-- A request of one row of one BF16 logit at `G + 0x400`, with INV_TEMP +0 (R214). -/
def sample0 : State := ((tens 2 0x44).write (G + 0x400) (List.replicate 24 0 ++ bytesLE 8 (G + 64) ++ bytesLE 4 1 ++ [2, 0, 1, 0] ++ bytesLE 8 64 ++
    bytesLE 8 (G + 0x500) ++ bytesLE 8 (G + 0x600))).write (G + 0x500) (List.replicate 8 0 ++ bytesLE 4 0 ++ bytesLE 4 0x3F800000 ++ bytesLE 2 1 ++ List.replicate 14 0)
theorem wit_sample : smpHeaderOk (sample0.bytes (G + 0x400) 64) = true ∧ sample0.hostRange (G + 0x400) 64 = true ∧ sample0.poisoned (G + 0x400) 64 = false ∧
    (SmpHeader.of (sample0.bytes (G + 0x400) 64)).rows = 1 ∧ (SmpHeader.of (sample0.bytes (G + 0x400) 64)).results = G + 0x600 ∧
    (∀ x ∈ [(G + 0x500, 32), (G + 64, 2)], sample0.hostRange x.1 x.2 = true ∧ sample0.poisoned x.1 x.2 = false) ∧
    sample0.hostRange (G + 0x600) 16 = true ∧ sample0.jobOf h5 = some { id := 1 } ∧ sample0.samplerRuns 0 = true := by decide +kernel

/-- The check value of the CRC-32C of the digits 1 to 9 (log 13). -/
theorem test_crc : crc32c [0x31, 0x32, 0x33, 0x34, 0x35, 0x36, 0x37, 0x38, 0x39] = 0xE3069283 := by decide +kernel

/-! ### Collectives, transfers, contexts, the module -/

def collP : CollParams := { collSeq := 4, src := 1, dst := 2, dims := 1, reduce := 0, rnd := 0, root := 0, stream := 0 }
/-- Job 1 is of two modules along X; its next collective is number 4. -/
def coll0 (op : Nat) : State := { tens 2 op with jobs := [{ id := 1, nx := 2, ny := 1, nz := 1, ranks := [0, 1], nextColl := 4, mapCrc := 77, pool := 16, poolFree := 16 }] }
theorem wit_collective : (coll0 0x60).ready h5 = true ∧ ((coll0 0x60).jobOf h5).map (·.nextColl) = some 4 ∧ (coll0 0x60).coll? 1 4 = none ∧
    isOk ((coll0 0x60).collSource 1 1) (fun v => !(coll0 0x60).collPoison v) = true ∧
    ∀ op ∈ [0x60, 0x61, 0x62, 0x63], firstBad ((coll0 op).collChecks h5 op collP) = none ∨ op = 0x62 := by decide +kernel
/-- ALL_GATHER needs a destination of two elements. -/
def gather0 : State :=
  { coll0 0x62 with tensors := [{ job := 1, p := tensorP 1 2 1, scale := 0x3F800000 }, { job := 1, p := tensorP 2 2 2, scale := 0x3F800000 }] }
theorem wit_allGather : passes (gather0.collChecks h5 0x62 collP) := by unfold passes; decide +kernel
theorem test_collective : after (exec (.allReduce h5 collP) (coll0 0x60)) (fun t => t.isOut h5 && (t.coll? 1 4).map (·.granted) == some 0 &&
      (t.job? 1).map (·.nextColl) == some 5) &&
    done (exec (.allReduce h5 { collP with collSeq := 3 }) (coll0 0x60)) h5 stCollSeq (fun _ => true) = true := by decide +kernel
theorem test_collRoots : done (exec (.broadcast h5 { collP with root := 2 }) (coll0 0x63)) h5 stBadParam (fun _ => true) &&
    after (exec (.reduceScatter h5 collP) (coll0 0x61)) (fun t => (t.coll? 1 4).map (·.opcode) == some 0x61) = true := by decide +kernel

def xferP : XferParams := { src := G, dst := G + 0x100, dstModule := 0, length := 4, ctrAddr := G + 0x200, increment := 3, route := 0, edgePort := 0, edgeFlow := 0 }
/-- A torus of 4 modules along Z whose link towards +Z is up. -/
def torus0 (s : State) : State := ((s.put .fabSizeZ 0 3).put .portLinkState 4 6).put .modPowerState 0 2
def edge0 (op : Nat) : State :=
  { (cmd0 op).put .portMode 5 1 with
    flows := [{ port := 5, id := 9, dir := 1, iface := 0, remote := 0, remotePort := 0, window := 1, winBase := 0, winSize := 0, ctrAddr := 0, increment := 0 }] }
theorem wit_xfer : (tens 2 0x50).hostRange xferP.src 4 = true ∧ (tens 2 0x50).poisoned xferP.src 4 = false ∧ (tens 2 0x50).self = 0 ∧
    (tens 2 0x50).counterOk xferP.ctrAddr = true ∧ (torus0 (tens 2 0x50)).dorPort 1 = some 4 ∧ (torus0 (tens 2 0x50)).linkUp 4 = true ∧
    ((edge0 0x50).flow? 5 9 1).map (fun f => (f.failed, f.sending)) = some (false, none) := by decide +kernel
theorem test_xfer : done (exec (.xfer h5 { xferP with src := G + 64 }) (tens 2 0x50)) h5 0 (fun t => t.num (G + 0x100) 4 == 0x4000 && t.num (G + 0x200) 8 == 3) &&
    after (exec (.xfer h5 { xferP with dstModule := 1 }) (torus0 (tens 2 0x50))) (fun t => t.isOut h5 && t.xfers.length == 1) &&
    done (exec (.xfer h5 { xferP with route := 2 }) (tens 2 0x50)) h5 stBadParam (fun _ => true) &&
    done (exec (.xfer h5 { xferP with dstModule := 2 ^ 18 }) (tens 2 0x50)) h5 stReserved (fun t => t.mem == (tens 2 0x50).mem) = true := by decide +kernel

/-- A CONTEXT_SAVE of job 1 under no job, and its context at `G + 0x10000`. -/
def save0 : State := { cmd0 0x74 with outstanding := [{ cmd := h5, opcode := 0x74, phase := .started }] }
def context0 : List Byte := save0.contextBytes { id := 1 } false
def restore0 : State := { save0.write (G + 0x10000) context0 with outstanding := [{ cmd := h5, opcode := 0x75, phase := .started }] }
theorem wit_contextSave : save0.job? 1 = some { id := 1 } ∧ (save0.entry h5).jobId ≠ 1 ∧ save0.runningOf 1 = [] ∧ save0.contextPoison 1 = none ∧
    save0.hostRange (G + 0x10000) context0.length = true := by decide +kernel
theorem test_contextSave : done (exec (.contextSave h5 1 (G + 0x10000)) save0) h5 0 (fun t => t.num (G + 0x10000) 4 == 3 && t.num (G + 0x10000 + 56) 8 == 128) =
    true := by decide +kernel
theorem wit_contextRestore : fieldLE (restore0.bytes (G + 0x10000) 128) 0 4 = 3 ∧ fieldLE (restore0.bytes (G + 0x10000) 128) 4 1 = 2 ∧
    fieldLE (restore0.bytes (G + 0x10000) 128) 56 8 = context0.length ∧ 128 ≤ context0.length ∧ restore0.hostRange (G + 0x10000) context0.length = true ∧
    restore0.poisoned (G + 0x10000) context0.length = false ∧
    crc32c (zeroed (restore0.bytes (G + 0x10000) context0.length) 52 4) = fieldLE (restore0.bytes (G + 0x10000) 128) 52 4 ∧
    ownVersions.contains (fieldLE (restore0.bytes (G + 0x10000) 128) 8 1, fieldLE (restore0.bytes (G + 0x10000) 128) 9 1) = true ∧
    restore0.reg .modSumpJobSegs 0 ≤ restore0.reg .modSumpFree 0 := by decide +kernel
theorem test_contextRestore : done (exec (.contextRestore h5 (G + 0x10000)) restore0) h5 0 (fun t => (t.job? 2).isSome && t.nextJob == 3) = true := by decide +kernel

def host0 (op : Nat) : State := { cmd0 op with pcie := { busMaster := true } }
theorem wit_identify : (host0 1).pcie.busMaster = true ∧ (host0 0x76).now < 4000 := by decide +kernel
theorem wit_logRead : wholeTicks 1024 [] = [] ∧ (host0 0x76).ready h5 = true := by decide +kernel
theorem test_logRead : done (exec (.logRead h5 0x9000 65536 0) (host0 0x76)) h5 0 (fun t => t.hostMem.isEmpty) = true := by decide +kernel
theorem test_slotTableSet : after (exec (.slotTableSet h5 0xFF (List.replicate 32 0x11111111)) (cmd0 0x77)) (fun t => t.isOut h5 &&
    t.reg .glSlotPending 31 == 1 && t.reg .glSlotShadow 31 31 == 0x11111111 && t.reg .glSlotActive 31 31 == s0.reg .glSlotActive 31 31) = true := by decide +kernel
theorem wit_cacheSplit : ∀ g, g < 32 → bit 3 g = true → (cmd0 0x78).splitBlocked g 7 = false ∧ (cmd0 0x78).galleryBusy g = false := by decide +kernel
theorem test_cacheSplit : done (exec (.cacheSplit h5 3 7) (cmd0 0x78)) h5 0 (fun t => t.reg .glCacheSteps 1 == 7 && t.reg .glCacheSteps 2 == s0.reg .glCacheSteps 2) &&
    done (exec (.cacheSplit h5 3 8) (cmd0 0x78)) h5 stBadParam (fun t => t.reg .glCacheSteps 1 == s0.reg .glCacheSteps 1) = true := by decide +kernel
/-- The four groups of FABRIC_CONFIG. -/
def fabric (k : Nat) (w : Nat) : List Byte := [BitVec.ofNat 8 k, 5, 3, 0] ++ bytesLE 4 w ++ List.replicate 12 0
theorem wit_fabric : (fabricReserved (fabric 0 0) = none ∧ (cmd0 0x7A).fabricBusy (fabric 0 0) = false) ∧
    (fabricReserved (([1, 0, 0, 0] : List Byte) ++ bytesLE 4 0x80000FFF ++ List.replicate 12 0) = none) ∧
    (fabricReserved (([2, 0, 0, 0] : List Byte) ++ bytesLE 4 0x8003FFFF ++ bytesLE 4 0x3F3F3F ++ [3, 0, 0, 0, 0, 0, 0, 0]) = none) ∧
    (fabricReserved (([3, 0, 0, 0] : List Byte) ++ bytesLE 4 0x8003FFFF ++ List.replicate 12 0) = none) ∧
    ∀ k ∈ [1, 2, 3], (cmd0 0x7A).fabricBusy ((BitVec.ofNat 8 k) :: List.replicate 19 0) = false := by decide +kernel
theorem test_fabric : done (exec (.fabricConfig h5 (([2, 0, 0, 0] : List Byte) ++ bytesLE 4 0x8003FFFF ++ bytesLE 4 0x3F3F3F ++ [3, 0, 0, 0, 0, 0, 0, 0])) (cmd0 0x7A)) h5 0
    (fun t => t.reg .fabModuleAddr 0 == 0x3FFFF && t.reg .fabAddrValid 0 == 1 && t.reg .fabSizeZ 0 == 63 && t.reg .fabAdaptiveEn 0 == 1) = true := by decide +kernel

/-! Power and store commands -/
theorem wit_power : (cmd0 0x70).power.moving = none ∧ (cmd0 0x70).power.queuedPower = [] ∧
    ({ cmd0 0x70 with jobs := [] }).jobs.all (·.ended) = true ∧
    (cmd0 0x70).outstanding.all (fun o => o.cmd == h5 || o.phase == .fetched || o.opcode == 0x70) = true ∧ (cmd0 0x70).reg .modPowerState 0 ≠ 2 := by decide +kernel
theorem test_powerState : done (exec (.powerState h5 1) ((cmd0 0x70).put .modPowerState 0 2)) h5 0 (fun t => t.power.moving == none) &&
    after (exec (.powerState h5 2) ((cmd0 0x70).put .modPowerState 0 2)) (fun t => t.power.moving == some (3, some h5)) = true := by decide +kernel
theorem test_powerCap : after (exec (.powerCap h5 1800) (cmd0 0x71)) (fun t => t.reg .modHostCap 0 == 1800 && t.isOut h5) &&
    done (exec (.powerCap h5 1799) (cmd0 0x71)) h5 stBadParam (fun t => t.reg .modHostCap 0 == s0.reg .modHostCap 0) = true := by decide +kernel
theorem wit_settings : (cmd0 0x72).boot.setBusy = none ∧ (settingsBad (splice (cmd0 0x72).settingsImage 16383 [0]) 16383 16384 = none) := by decide +kernel
theorem wit_fw : (cmd0 0x79).boot.fwBusy = none ∧ (cmd0 0x79).hostRange G 256 = true ∧ imageHeaderOk ((cmd0 0x79).bytes G 256) = false ∧
    imageFails (cmd0 0x79).slotState ((cmd0 0x79).bytes G 256) = some 4 := by decide +kernel
theorem test_fw : done (exec (.fwActivate h5 G) (cmd0 0x79)) h5 stBadParam (fun t => t.nvQueue.isEmpty) = true := by decide +kernel
/-- The identity key is there, with a key-state record of `NEXT_Q` 0. -/
def keyed (s : State) : State := { (s.put .modAttestTokens 0 64).put .modKeyReady 0 1 with keyInit := true, nvMem := tset [] s.nvMem (nvKeyRing / 64) ((cmd0 0).keyWrite 0).2 }
theorem wit_attest : (keyed (cmd0 0x73)).keyUninit = false ∧ (keyed (cmd0 0x73)).reg .modKeyNextQ 0 < 2 ^ 25 ∧ (keyed (cmd0 0x73)).reg .modAttestTokens 0 ≠ 0 ∧
    (keyed (cmd0 0x73)).reg .modKeyReady 0 ≠ 0 ∧ (keyed (cmd0 0x73)).keys.signing = none ∧ (keyed (cmd0 0x73)).keys.waiting = [] := by decide +kernel
theorem test_attest : after (exec (.attest h5 1 0x9000) (keyed (cmd0 0x73))) (fun t => t.isOut h5 && t.nvQueue.length == 1 && t.reg .modAttestTokens 0 == 63) = true := by
  decide +kernel

/-! ### Queues and the function -/

/-- Queue 1 is ACTIVE with its ring at 0x1000 and one packet in it: a NOP of sequence number `seq` and job 0 (R249). -/
def fetch0 (seq : Nat) : State :=
  { ({ s0 with pcie := { busMaster := true } }).hostWrite 0x1000 ([3, 1] ++ bytesLE 2 0x7F ++ bytesLE 4 seq ++ List.replicate 56 0) with
    queues := tset {} s0.queues 1 { state := .active, sqBase := 0x1000, tail := 1, nextSeq := 5 } }
def fetchHeader (s : State) : Header := headerOf (s.slotBytes (s.queue 1) 1)
theorem wit_fetch : (fetch0 5).pcie.busMaster = true ∧ (fetch0 5).outstanding.length < 4096 ∧ (fetch0 5).arbitrate = some 1 ∧
    (fetchHeader (fetch0 5)).seq = ((fetch0 5).queue 1).nextSeq ∧ (∀ c ∈ ((fetch0 5).queue 1).cancelled, c.1 ≠ 5) ∧
    (fetch0 4).arbitrate = some 1 ∧ (fetchHeader (fetch0 4)).seq ≠ ((fetch0 4).queue 1).nextSeq := by decide +kernel
theorem wit_headerChecks : passes ((fetch0 5).headerChecks 1 ((fetch0 5).queue 1) (fetchHeader (fetch0 5)) ((fetch0 5).slotBytes ((fetch0 5).queue 1) 1)) ∧
    opChambers (fetchHeader (fetch0 5)).opcode = false := by unfold passes; decide +kernel
theorem test_fetch : after (exec .commandFetch (fetch0 5)) (fun t => t.isOut h5 && (t.queue 1).head == 1 && (t.queue 1).nextSeq == 6) = true := by decide +kernel
theorem test_badSeq : after (exec .commandFetch (fetch0 4)) (fun t => (t.queue 1).state == .error && t.outstanding.isEmpty && (t.queue 1).replies.length == 1) =
    true := by decide +kernel

/-- A fetched command with one dependency. -/
def dep0 (d : Dep) (t : Nat) : State :=
  { s0.put .modTimeNow 0 t with outstanding := [{ cmd := h5, opcode := 0x22, deps := [d] }], outcomes := [⟨⟨1, 3⟩, 0⟩, ⟨⟨1, 2⟩, 0x0100⟩]
                                queues := tset {} s0.queues 1 { state := .active, nextSeq := 6 } }
def onCmd (q seq : Nat) : Dep := { kind := 0, queue := q, seq := seq, addr := 0, target := 0 }
theorem wit_start : (∀ x ∈ (dep0 (onCmd 1 3) 0).depStates ((dep0 (onCmd 1 3) 0).entry h5), x = .met) ∧ (dep0 (onCmd 1 3) 0).orderMet ((dep0 (onCmd 1 3) 0).entry h5) = true ∧
    (dep0 (onCmd 1 3) 0).timeMet ((dep0 (onCmd 1 3) 0).entry h5) = true ∧ (dep0 (onCmd 1 3) 0).powerGate 0x22 = .go ∧
    ((dep0 (onCmd 1 2) 0).depStates ((dep0 (onCmd 1 2) 0).entry h5)).findSome? depBad = some (stDepFailed, 0x0100 * 2 ^ 16) ∧
    (dep0 (onCmd 2 0) 20000000).depState h5 0 (onCmd 2 0) = .future ∧ ((dep0 (onCmd 2 0) 20000000).entry h5).acceptTs + 20000000 ≤ (dep0 (onCmd 2 0) 20000000).now := by
  decide +kernel
theorem test_start : after (exec (.commandStart h5) (dep0 (onCmd 1 3) 9)) (fun t => (t.entry h5).phase == .started && (t.entry h5).startTs == 9) &&
    done (exec (.commandStart h5) (dep0 (onCmd 1 2) 9)) h5 stDepFailed (fun _ => true) &&
    done (exec (.depFuture h5 0) (dep0 (onCmd 2 0) 20000000)) h5 stDepFuture (fun _ => true) &&
    stays (exec (.depFuture h5 0) (dep0 (onCmd 2 0) 19999999)) (dep0 (onCmd 2 0) 19999999) = true := by decide +kernel
/-- A started command with a limit of 1 ms of the host, and a counter that has not reached its target. -/
def late0 (p : Phase) (t : Nat) : State :=
  { s0.put .modTimeNow 0 t with outstanding := [{ cmd := h5, opcode := 0x40, timeoutUs := 1000, phase := p, deps := [{ kind := 2, queue := 0, seq := 0, addr := G, target := 1 }] }] }
theorem wit_late : limitTicks 0x40 1000 = some 2000000 ∧ ((late0 .started 2000001).entry h5).startTs + 2000000 < (late0 .started 2000001).now ∧
    (late0 .fetched 2000001).count G < 1 ∧ opColl 0x60 = true ∧
    outputOffsets 0x40 ≠ [] ∧ outputOffsets 0x22 = [] := by decide +kernel
theorem test_late : done (exec (.commandTimeout h5) (late0 .started 2000001)) h5 stTimeout (fun _ => true) &&
    done (exec (.counterDependencyTimeout h5) (late0 .fetched 2000001)) h5 stTimeout (fun _ => true) &&
    stays (exec (.commandTimeout h5) (late0 .started 2000000)) (late0 .started 2000000) = true := by decide +kernel

def reply0 : Reply := { queue := 1, seq := 5, flags := 0, status := 0, detail := 0, numFlags := 0, acceptTs := 0, startTs := 0, doneTs := 0, profile := 0
                        result := 0x1122, notify := false }
def ring0 : State := { s0.put .pciReady 0 1 with pcie := { busMaster := true }, queues := tset {} s0.queues 1 { state := .active, stqBase := 0x8000, replies := [reply0] } }
def coalesce0 : State :=
  { s0.put .modTimeNow 0 2000 with pcie := { busMaster := true }, queues := tset {} s0.queues 1 { state := .active, msix := 9, coalesceUs := 1, unsignalled := 1 } }
theorem wit_ring : (ring0.queue 1).stTail - (ring0.queue 1).stHead < (ring0.queue 1).entries ∧ nextReply (ring0.queue 1).replies = some reply0 ∧
    (coalesce0.queue 1).unsignalledSince + 2000 * (coalesce0.queue 1).coalesceUs ≤ coalesce0.now ∧ ring0.rings 1 = true ∧ (ring0.queue 1).slots = 64 ∧
    (ring0.modQueue 1 (fun x => { x with stTail := 64 })).rings 1 = true ∧ s0.rings 1 = false := by decide +kernel
theorem test_statusEntry : after (exec (.statusEntryWrite 1) ring0) (fun t => t.hostBytes 0x8000 8 == [5, 0, 0, 0, 1, 1, 0, 0] &&
    t.hostBytes (0x8000 + 56) 2 == [0x22, 0x11] && (t.queue 1).stTail == 1) &&
    after (exec (.interruptCoalescing 1) coalesce0) (fun t => (t.queue 1).unsignalled == 0) = true := by decide +kernel
theorem test_doorbells : after (exec (.sqTail 1 63) ring0) (fun t => (t.queue 1).tail == 63) && after (exec (.sqTail 1 64) ring0) (fun t => (t.queue 1).state == .error) &&
    after (exec (.stqHead 1 0) (ring0.modQueue 1 (fun x => { x with stTail := 64 }))) (fun t => (t.queue 1).stHead == 64) = true := by decide +kernel

def aq0 : State := ((s0.put .pciReady 0 1).put .pciAqSqLog2 0 6).put .pciAqStqLog2 0 16
theorem wit_function : aq0.reg .pciReady 0 ≠ 0 ∧ 6 ≤ aq0.reg .pciAqSqLog2 0 ∧ aq0.reg .pciAqStqLog2 0 ≤ 16 ∧ aq0.reg .pciAqSqBase 0 % 4096 = 0 ∧
    (aq0.queue 0).state = .absent ∧ (∀ c ∈ aq0.colls, c.cmd = none) ∧ 2 ≤ (aq0.put .modBootStage 0 2).reg .modBootStage 0 ∧
    aq0.pcie.trained = false ∧ aq0.outstanding = [] := by decide +kernel
theorem test_aq : after (exec (.aqEnable 1) aq0) (fun t => (t.queue 0).state == .active && (t.queue 0).stqLog2 == 16 && t.reg .pciAqReady 0 == 1 &&
    after (exec .aqReset t) (fun u => (u.queue 0).state == .absent && u.reg .pciAqReady 0 == 0)) = true := by decide +kernel
theorem test_master : after (exec (.busMasterEnable true) { s0.put .pciMsixMask 0 0 with pcie := { pba := [0] } }) (fun t => t.outbox.contains (.msix 0) && t.pcie.pba.isEmpty) &&
    after (exec .pcieReset ring0) (fun t => (t.queue 1).state == .absent) && after (exec .perstDeassert (aq0.put .modBootStage 0 2)) (fun t => t.pcie.trained) =
    true := by decide +kernel

/-! ### Ports' registers, register writes, the management view -/

theorem wit_ports : (s0.put .portMode 3 1).reg .portMode 3 = 1 ∧ s0.reg .portMode 5 ≠ 1 ∧ s0.reg .portLinkState 5 = 0 ∧
    (s0.put .portLinkState 5 6).reg .portLinkState 5 ≠ 0 ∧ (s0.put .portEdgeTable 5 G).hostRange ((s0.put .portEdgeTable 5 G).reg .portEdgeTable 5) edgeTableBytes = true ∧
    (∀ f ∈ s0.flows, f.port = 5 → f.busy = false) := by decide +kernel
theorem test_ports : after (exec (.retrain 5) s0) (fun t => t.reg .portLinkState 5 == 1) && after (exec (.inService 5) (s0.put .portLinkState 5 5)) (fun t =>
    t.reg .portLinkState 5 == 6) && after (exec (.mode 5 1) s0) (fun t => t.reg .portMode 5 == 1 && t.reg .portRate 5 == 3) &&
    after (exec (.mode 5 1) (s0.put .portLinkState 5 6)) (fun t => t.reg .portMode 5 == 0 && t.reg .portAccessErr 5 == 1) = true := by decide +kernel
theorem wit_writes : fieldExists .chLen 255 15 = true ∧ (fieldInfo .chLen).acc = .rw ∧ Field.chLen ∉ actingFields ∧ rngField .chSrStream = true ∧ run0.strandBusy 0 0 = true ∧
    maskField .chGmaskEn = true ∧ run0.reg .chState 0 0 ≠ psEmpty ∧ run0.reg .chState 0 0 ≠ psDone ∧ encodingOk .chWalkAhead 0 = false ∧
    (fieldInfo .chSweepCount).acc = .ro ∧ (fieldInfo .chOrderErr).acc = .rw1c ∧ (fieldInfo .pciAqSqBase).block = .pci ∧ s0.reg .pciReady 0 = 0 := by decide +kernel
theorem test_writes : after (exec (.registerWrite .complex .chLen 255 15 (2 ^ 32 + 7)) s0) (fun t => t.reg .chLen 255 15 == 7) &&
    after (exec (.registerWrite .complex .chOrderErr 3 0 1) (s0.put .chOrderErr 3 1)) (fun t => t.reg .chOrderErr 3 == 0) &&
    after (exec (.registerWrite .window .chLen 0 0 7) s0) (fun t => t.reg .chLen 0 0 == s0.reg .chLen 0 0 && t.reg .pciAccessErr 0 == 1) = true := by decide +kernel
theorem test_rngBusy : after (exec (.registerWrite .complex .chSrStream 0 0 7) run0) (fun t => t.reg .chRngBusy 0 == 1 && t.reg .chSrStream 0 0 == 0) = true := by
  decide +kernel
def on0 : State := { s0 with power := { on := true } }
theorem wit_view : on0.power.on = true ∧ s0.power.on = false ∧ on0.smbus.mgtAddr ≠ 0x20 ∧ 0xFFFF % 65536 ≠ 0xD2C1 := by decide +kernel
theorem test_view : after (exec (.mgtCap 1800) on0) (fun t => t.reg .mgtCap 0 == 1800 && t.reg .modMgmtCap 0 == 1800) &&
    after (exec (.mgtCap 1799) on0) (fun t => t.reg .mgtAccessErr 0 == 1 && t.reg .mgtCap 0 == s0.reg .mgtCap 0) &&
    after (exec (.mfrMgtData (some 7200)) { on0 with smbus := { mgtAddr := 4 } }) (fun t => t.reg .mgtCap 0 == 7200 && t.smbus.mgtAddr == 8) = true := by decide +kernel
theorem test_resetKey : after (exec (.mgtResetKey 0xD2C1) { on0 with jobs := [{ id := 1 }] }) (fun t => t.jobs.isEmpty && t.power.on) &&
    after (exec (.mgtResetKey 0xD2C0) { on0 with jobs := [{ id := 1 }] }) (fun t => t.jobs.length == 1 && t.reg .mgtAccessErr 0 == 1) = true := by decide +kernel
theorem wit_pmbus : 0x03 ∉ pmbusCodes ∧ (on0.put .modVin 0 65535).reg .modVin 0 < 1023 * 100 * 2 ^ 15 := by decide +kernel
/-- 54.00 V is 864 sixteenths: mantissa 864, exponent −4 (R414). -/
theorem test_pmbus : after (exec .readVin (on0.put .modVin 0 5400)) (fun t => t.outbox == [.pmbus (bytesLE 2 (864 + 2 ^ 11 * 28))]) &&
    after (exec .pmbusRevision on0) (fun t => t.outbox == [.pmbus [0x33]]) && stays (exec .readVin s0) s0 = true := by decide +kernel

/-! ### Boot and power -/

def boot0 (stage : Nat) : State := on0.put .modBootStage 0 stage
theorem wit_boot : s0.power.on = false ∧ s0.power.tripped = false ∧ (boot0 8).reg .modBootErr 0 = 0 ∧ (boot0 8).reg .modPowerState 0 = 0 ∧
    (boot0 8).jtag.extestHold = false ∧ (boot0 8).reg .modBootStage 0 = 8 ∧ ((boot0 8).put .modBootErr 0 2).reg .modBootErr 0 ≠ 0 ∧
    ((boot0 2).reg .modBootStage 0 = 2 ∧ (boot0 1).reg .modBootStage 0 = 1) := by decide +kernel
theorem test_powerUp : after (exec (.inputPowerUp 3) s0) (fun t => t.power.on && t.smbus.address == 0x4F && t.reg .modBootStage 0 == 1) &&
    stays (exec (.inputPowerUp 3) on0) on0 = true := by decide +kernel
theorem test_bootStage : after (exec (.bootStageEnd {}) (boot0 1)) (fun t => t.reg .modBootStage 0 == 2) &&
    after (exec (.bootStageEnd {}) ((boot0 5).write G [1])) (fun t => t.mem.isEmpty && t.reg .modBootStage 0 == 6) = true := by decide +kernel
theorem test_bootLimit : after (exec .bootLimit (boot0 2)) (fun t => t.reg .modBootStage 0 == 2 && t.power.on) && stays (exec .bootLimit s0) s0 = true := by
  decide +kernel

theorem wit_input : (72000000 < 7201 * 10000 ∨ 16400 < 10000) ∧ on0.reg .glDivided 0 ≠ 1 ∧ 5400 * 13333 ≤ 72000000 ∧ 13333 ≤ 16400 ∧ s0.nvQueue = [] := by decide +kernel
/-- R360: 43.99 V is low; a sample of 7,200.1 W is over the limit and halves the clocks. -/
theorem test_input : after (exec (.inputSample 4399 100 44) on0) (fun t => t.reg .modInputLow 0 == 1 && t.reg .modInputHigh 0 == 0) &&
    after (exec (.inputSample 5951 100 59) on0) (fun t => t.reg .modInputLow 0 == 0 && t.reg .modInputHigh 0 == 1) &&
    after (exec (.inputSample 7200 10001 7200) on0) (fun t => t.reg .glDivided 31 == 1) &&
    after (exec (.inputSample 7200 10000 7200) on0) (fun t => t.reg .glDivided 31 == 0) = true := by decide +kernel
theorem test_shutdown : after (exec .underVoltageShutdown (boot0 8)) (fun t => !t.power.on && t.regs.isEmpty) &&
    after (exec .overVoltageShutdown (boot0 8)) (fun t => !t.power.on) && after (exec .inputRemoval { on0 with thermTripLow := true }) (fun t => !t.thermTripLow) &&
    after (exec .thermalTrip on0) (fun t => t.thermTripLow && stays (exec (.inputPowerUp 0) t) t) = true := by decide +kernel

/-- Boot has set the cap to 7,200 W. -/
def cap0 : State := on0.put .modEffectiveCap 0 on0.capNow
def running0 : State := (s0.put .modPowerState 0 3).put .modTimeNow 0 (2000 * s0.reg .modIdleToReadyUs 0)
theorem wit_cap : cap0.reg .modEffectiveCap 0 = cap0.capNow ∧ cap0.reg .modCapPoint 0 = 0 ∧ cap0.power.duty.1 = 0 ∧ cap0.capNow < cap0.capNow + 1 ∧
    (cap0.put .modCapPoint 0 5).reg .modCapPoint 0 ≠ 0 ∧ ({ cap0 with power := { cap0.power with lowRuns := 99 } }).power.lowRuns = 99 := by decide +kernel
theorem wit_powerStates : running0.reg .modPowerState 0 = 3 ∧ running0.power.moving = none ∧ running0.reg .modStayRunning 0 = 0 ∧ running0.strandsBusy = false ∧
    running0.power.busyAt + 2000 * running0.reg .modIdleToReadyUs 0 ≤ running0.now ∧ (run0.put .modPowerState 0 3).strandsBusy = true := by decide +kernel
/-- R367: at 300 W over the cap with 3,000 W on the rails, the lowest index whose relative power is at most 0.906 of the present one. -/
theorem test_cap : capIndex 0 3000 300 = ((List.range 16).find? (fun i => decide (0 < i ∧ pointRel i * 100 * 3000 ≤ pointRel 0 * (300000 - 94 * 300)))).getD 15 := by
  decide +kernel
theorem test_capLoop : after (exec (.capLoop (cap0.capNow + 1) 1000) cap0) (fun t => t.reg .modCapPoint 0 == 1 && t.reg .glReqComplex 31 == 1) &&
    after (exec (.capLoop 100 1000) { cap0.put .modCapPoint 0 5 with power := { cap0.power with lowRuns := 99 } }) (fun t => t.reg .modCapPoint 0 == 4) = true := by
  decide +kernel
theorem test_dutyHold : after (exec (.dutyHold true) { s0 with power := { duty := (1, 2) } }) (fun t => t.reg .glComplexHold 0 == 1 && t.power.dutyHeld == [0] &&
    after (exec (.dutyHold false) t) (fun u => u.reg .glComplexHold 0 == 0 && u.reg .glComplexHold 1 == s0.reg .glComplexHold 1)) = true := by decide +kernel
theorem test_idle : after (exec .idleToReady running0) (fun t => t.power.moving == some (2, none) &&
    after (exec .powerTransitionComplete t) (fun u => u.reg .modPowerState 0 == 2 && u.power.moving == none)) = true := by decide +kernel

def live0 : State := s0.put .modBootStage 0 8
theorem wit_points : (live0.put .glPointMoving 4 1).reg .glPointMoving 4 ≠ 0 ∧ live0.reg .glPointMoving 4 = 0 ∧
    ((live0.put .glPointTarget 4 3).put .glPointNow 4 2).reg .glPointNow 4 < ((live0.put .glPointTarget 4 3).put .glPointNow 4 2).reg .glPointTarget 4 ∧
    live0.live 4 = true ∧ 5 ∈ adjacent 4 ∧ gap (live0.galPower 4).mv (live0.galPower 5).mv ≤ 120 := by decide +kernel
theorem test_pointStep : after (exec (.pointChangeStep 4) (((s0.put .glPointTarget 4 3).put .glPointNow 4 2).put .glPointMoving 4 1)) (fun t =>
    t.reg .glPointNow 4 == 3 && (t.galPower 4).mv == (s0.galPower 4).mv) = true := by decide +kernel
theorem test_keeperRound : after (exec (.keeperRound 1) live0) (fun t => t.reg .glReqKeeper 4 == live0.keeperRequest 4 % 16) = true := by decide +kernel

def temps (die : Nat) : TempReading := { dieTemp := die, stackBase := 40, diePred := die, stackPred := 40, predIndex := 7, predErr := 0, ran10ms := true }
/-- R242, R374: 110 °C holds the Gallery; above 105 °C its request is the lowest point. -/
theorem test_predictor : after (exec (.predictorUpdate 0 (temps 110)) s0) (fun t => t.reg .glOwnHold 0 == 1 && t.reg .glReqSteward 0 == 15 && t.reg .glDieTemp 0 == 110) &&
    after (exec (.predictorUpdate 0 (temps 101)) s0) (fun t => t.reg .glOwnHold 0 == 0 && (t.galPower 0).reqDie == 7 && (t.galPower 0).reqDieLow == 0) = true := by decide +kernel
theorem test_coolant : after (exec (.coolantRead 61 90) s0) (fun t => t.reg .modInletHot 0 == 1) && after (exec (.coolantRead 60 90) s0) (fun t => t.reg .modInletHot 0 == 0) =
    true := by decide +kernel
theorem test_hbmTemp : after (exec (.hbmTemperatureReadout 0 86) s0) (fun t => t.reg .hbmRefresh2x 0 == 1 && t.reg .glOwnHold 0 == 0) &&
    after (exec (.hbmTemperatureReadout 0 95) s0) (fun t => (t.galPower 0).holdStack && t.reg .glOwnHold 0 == 1) && stays (exec (.hbmRefresh 0) s0) s0 = true := by decide +kernel

/-! ### Faults and recovery -/

theorem wit_scrubs : (s0.put .hbmScrubPeriod 0 1).reg .hbmScrubPeriod 0 ≠ 0 ∧ s0.mapped (G + 5) 1 = true ∧ regionOf (G + 5) = some .gallery ∧ galleryOf (G + 5) = 0 := by decide +kernel
/-- With the patrol of the stack off, that of the Gallery's memory goes on (R237). -/
theorem test_hbmScrub : after (exec (.hbmPatrolScrub 0 {} { corrected := [G + 64], uncorrectable := [G + 16] } 0 false true) (s0.put .hbmScrubPeriod 0 0)) (fun t =>
    t.reg .hbmScrubPasses 0 == 0 && t.reg .glGmCorr 0 == 1 && !t.poisoned (G + 64) 1 && t.poisoned (G + 17) 1) = true := by decide +kernel
def narrowed0 : State := (s0.put .hbmNarrowed 2 1).put .hbmFailedCh 2 7
theorem wit_stacks : s0.withdrawn.contains 2 = false ∧ s0.reg .hbmNarrowed 2 = 0 ∧ narrowed0.reg .hbmNarrowed 2 = 1 ∧ narrowed0.reg .hbmFailedCh 2 ≠ 31 % 32 ∧
    ({ s0 with withdrawn := [2] }).withdrawn.contains 2 = true ∧ s0.refetchMarked 9 = false ∧
    (s0.modGallery 0 (fun x => { x with refetch := [9] })).refetchMarked 9 = true ∧ narrowed0.withdrawn.contains 2 = false ∧
    ({ s0 with allocs := [(2 * hbmWindow, 65536)] }).allocBlocks 2 ≠ [] := by decide +kernel
theorem test_refetch : after (exec (.refetch 9) (s0.modGallery 0 (fun x => { x with refetch := [9] }))) (fun t => !t.refetchMarked 9) &&
    after (exec (.channelFailure 2 31) (s0.put .modErrBase 0 G)) (fun t => t.lost.any (fun x => x.1 == 2 && x.2.channel == 31) && t.refetchMarked 0x200000) =
    true := by decide +kernel
theorem test_channel : after (exec (.channelFailure 2 31) narrowed0) (fun t => t.events.map (·.info) == [[31]] && t.reg .hbmFailedCh 2 == 7) &&
    stays (exec (.channelFailure 2 7) narrowed0) narrowed0 && stays (exec (.stackWithdrawal 2) s0) s0 = true := by decide +kernel

/-- A STAGE_RUN's strand has met an address error; and a check has failed. -/
def event0 (kind : Nat) : State := { started 0x46 (run0.modStrand 0 0 (fun t => { t with cmd := some h5 })) with events := [⟨0, 0, kind, 7, [0, 3, 0]⟩] }
theorem wit_events : (event0 evAddrErr).events.find? (fun e => e.cls == 0 && e.unit == 0 && e.kind == evAddrErr && e.ts == 7) = some ⟨0, 0, evAddrErr, 7, [0, 3, 0]⟩ ∧
    ((event0 evAddrErr).strand 0 0).cmd = some h5 ∧ (event0 evAddrErr).isOut h5 = true ∧
    (event0 evCheckFail).events.find? (fun e => e.cls == 0 && e.unit == 0 && e.kind == evCheckFail && e.ts == 7) = some ⟨0, 0, evCheckFail, 7, [0, 3, 0]⟩ ∧
    s0.events.find? (fun e => e.cls == 0 && e.unit == 0 && e.kind == 1 && e.ts == 7) = none := by decide +kernel
theorem test_events : done (exec (.eventEscalation 0 0 evAddrErr 7) (event0 evAddrErr)) h5 stAddressError (fun t => t.reg .chState 0 0 == psEmpty && t.events.isEmpty) &&
    after (exec (.eventEscalation 0 0 evCheckFail 7) (event0 evCheckFail)) (fun t => t.reg .chStewardHold 0 == 1 && t.recoveries.length == 1 && t.isOut h5) = true := by decide +kernel
def recover0 : State :=
  { ((((admitting prog0).setReg .chState 0 0 psRunning).put .chStewardHold 0 1).put .chCheckFail 0 1).put .modErrBase 0 (G + 0xE0000) with recoveries := [{ cls := 1, unit := 0, stopTs := 0 }] }
theorem wit_recovery : recover0.recovery? 1 0 = some { cls := 1, unit := 0, stopTs := 0 } ∧ recover0.repeatFault 0 = false ∧ recover0.reg .chRetired 0 = 0 ∧
    s0.recovery? 1 0 = none ∧ recover0.reg .chState 0 0 = psRunning := by decide +kernel
theorem test_recovery : after (exec (.chamberFaultRecovery 0) recover0) (fun t => t.reg .chStewardHold 0 == 0 && t.reg .chCheckFail 0 == 0 && t.recoveries.isEmpty &&
    t.reg .modErrCount 0 == 1) = true := by decide +kernel
def line0 (tried : Bool) : State :=
  { started 0x22 s0 with recoveries := [{ cls := 3, unit := G, stopTs := 0, strands := [(0, 0)], tried := tried }],
                         outstanding := [{ cmd := h5, opcode := 0x23, phase := .held, held := bytesLE 8 (G + 5) }] }
def badLine : State := (line0 true).markPoison G 64
theorem wit_line : (line0 false).recovery? 3 (G / 64 * 64) = some { cls := 3, unit := G, stopTs := 0, strands := [(0, 0)], tried := false } ∧ (line0 false).poisoned G 1 = false ∧
    (line0 false).lineWaiters G = [h5] ∧ badLine.poisoned G 1 = true ∧ badLine.lineSource G = false ∧ ((line0 false).markPoison G 64).poisoned G 1 = true ∧
    s0.recovery? 3 G = none ∧ s0.lineWaiters G = [] := by decide +kernel
theorem test_line : after (exec (.memoryDataRecovery (G + 63)) (line0 false)) (fun t => t.outstanding.map (fun o => (o.phase, o.recovered)) == [(.started, true)] && t.recoveries.isEmpty) &&
    done (exec (.memoryDataRecovery G) badLine) h5 stPoisoned (fun t => t.recoveries.isEmpty) = true := by decide +kernel
def held0 (t : Nat) : State := (s0.put .modTimeNow 0 t).modGalPower 0 (fun x => { x with holdDie := true })
theorem wit_gallery : ((held0 2000001).galPower 0).holdDie = true ∧ ((held0 2000001).galPower 0).holdRecovered = false ∧
    ((held0 2000001).galPower 0).holdSince + 2000000 < (held0 2000001).now ∧ (held0 2000000).now ≤ ((held0 2000000).galPower 0).holdSince + 2000000 ∧
    ({ s0 with recoveries := [{ cls := 2, unit := 0, stopTs := 0 }] }).recovery? 2 0 = some { cls := 2, unit := 0, stopTs := 0 } ∧
    ({ s0 with failedLinks := [(0, 1)] }).failedLinks.contains (min 1 0, max 1 0) = true ∧ s0.failedLinks.contains (0, 1) = false ∧
    linked 1 0 = true ∧ linked 0 3 = false ∧ linked 5 5 = false ∧ linked 0 8 = false := by decide +kernel
theorem test_gallery : after (exec (.galleryHeartbeatMiss 0) s0) (fun t => t.reg .glKeeperHold 0 == 1 && t.recoveries.length == 1) &&
    after (exec (.galleryFault 0) { s0 with recoveries := [{ cls := 2, unit := 0, stopTs := 0 }] }) (fun t => t.reg .chRetired 7 == 1 && t.reg .chRetired 8 == 0) &&
    after (exec (.thermalHoldTimeout 0) (held0 2000001)) (fun t => (t.galPower 0).holdRecovered && t.reg .chRetired 0 == 0) = true := by decide +kernel
theorem test_dieLink : after (exec (.dieLinkFailure 1 0) s0) (fun t => !linkWorks t.failedLinks 0 1 && after (exec (.dieLinkTrained 0 1) t) (fun u => linkWorks u.failedLinks 0 1)) =
    true := by decide +kernel


/-! ### Links, packets and time -/

/-- Port 4 of a module at time 50,000,000, in a state of its link since time 0. -/
def link0 (st : Nat) : State := ((s0.put .portLinkState 4 st).put .portEnable 4 1).put .modTimeNow 0 50000000
theorem wit_training : (link0 0).mayTrain 4 = true ∧ (link0 2).reg .portHalfOk 4 = 1 ∧ ((link0 2).put .portHalfOk 4 0).reg .portHalfOk 4 ≠ 1 ∧
    linkLimit 2 = some 40000000 ∧ ((link0 2).port 4).stateSince + 40000000 ≤ (link0 2).now ∧ ((link0 2).put .modTimeNow 0 39999999).now < 40000000 ∧
    linkLimit ((link0 5).reg .portLinkState 4) = none ∧ ((link0 0).put .portEnable 4 0).mayTrain 4 = false := by decide +kernel
theorem test_detect : after (exec (.detectSignal 4) (link0 1)) (fun t => t.reg .portLinkState 4 == 2) &&
    after (exec (.detectRetry 4) (link0 0)) (fun t => t.reg .portLinkState 4 == 1) = true := by decide +kernel
theorem test_equalise : after (exec (.equaliseComplete 4 false true) (link0 2)) (fun t => t.reg .portHalf 4 == 1 && t.reg .portLaneHalf 4 == 1 &&
      after (exec (.lockAcquired 4) t) (fun u => u.reg .portLinkState 4 == 4 && u.reg .portRate 4 == 1)) &&
    after (exec (.trainFail 4) (link0 3)) (fun t => t.reg .portLinkState 4 == 1 && t.reg .portTrainFail 4 == 1) = true := by decide +kernel

def caps0 (max min rates : Nat) : CapsRecord :=
  { partKind := 2, protoMax := max, protoMin := min, rates := rates, contractMajor := 3, contractMinor := 0, features := 15, port := 5, moduleAddr := 1
    addrValid := true, timeNow := 0, timeState := 0 }
def sent0 : State := ((link0 4).put .fabSizeZ 0 3).modPort 4 (fun x => { x with sentCaps := true, trial := 2 })
theorem wit_caps : (sent0.port 4).sentCaps = true ∧ commonProtocol (caps0 1 1 3) = none ∧ commonProtocol (caps0 9 3 3) = some 3 ∧
    (sent0.port 4).settled = none ∧ sent0.reg .portHalf 4 = 0 ∧ (sent0.port 4).trial = 2 ∧ sent0.peerAgrees 4 (caps0 3 2 3) = true ∧
    ((link0 4).port 4).sentCaps = false ∧ ((link0 4).port 4).caps = none := by decide +kernel
theorem test_caps : after (exec (.capsFlit 4 (caps0 2 1 3)) sent0) (fun t => t.reg .portLinkState 4 == 5 && t.reg .portProtocol 4 == 2) &&
    after (exec (.capsFlit 4 (caps0 2 2 3)) (sent0.put .portInService 4 1)) (fun t => t.reg .portLinkState 4 == 6) &&
    after (exec (.capsFlit 4 (caps0 3 2 3)) (sent0.modPort 4 (fun x => { x with trial := 1 }))) (fun t => t.reg .portLinkState 4 == 2) &&
    after (exec (.capsFlit 4 (caps0 1 1 3)) sent0) (fun t => t.reg .portNoCommon 4 == 1 && stays (exec (.detectRetry 4) t) t) = true := by decide +kernel
theorem test_capsSend : after (exec (.capsFlitSend 4) (link0 4)) (fun t => (t.port 4).sentCaps && t.outbox.length == 1) = true := by decide +kernel

def flit0 : Flit := { seq := 0, ackSeq := 0, ackValid := false, nak := true, creditVc := 0, credits := 0, kind := 0, payload := [], crc := 0 }
def good (f : Flit) : Flit := { f with crc := flitCrc f }
def up0 : State := (link0 6).modPort 4 (fun x => { x with retry := [⟨9, [7], 1⟩], heard := true })
theorem wit_flit : flit0.crc ≠ flitCrc flit0 ∧ (good flit0).crc = flitCrc (good flit0) ∧ (good flit0).seq = (up0.port 4).rxSeq ∧
    (good { flit0 with seq := 5 }).seq ≠ (up0.port 4).rxSeq ∧ (up0.port 4).retry.length = 1 ∧ (up0.port 4).stateSince + 2000000 ≤ up0.now := by decide +kernel
theorem test_flit : after (exec (.dataFlit 4 flit0) up0) (fun t => t.outbox == [.nak 4 4095] && t.reg .portCrcErrors 4 == 1) &&
    after (exec (.dataFlit 4 (good flit0)) up0) (fun t => t.outbox == [.flit 4 [7]] && (t.port 4).rxSeq == 1) &&
    after (exec (.dataFlit 4 (good { flit0 with nak := false, ackValid := true, ackSeq := 9 })) up0) (fun t => (t.port 4).retry.isEmpty) = true := by
  decide +kernel
theorem test_portFailure : after (exec (.portFailure 4) up0) (fun t => t.reg .portPortFailed 4 == 1 && t.reg .portLinkState 4 == 0 && t.reg .portDownCount 4 == 1) &&
    after (exec (.portHistoryReady 4) (up0.put .portInService 4 1)) (fun t => t.reg .fabHistoryReady 0 == 1) = true := by decide +kernel

def pkt0 (type dest : Nat) (payload : List Byte) : Packet :=
  { type := type, vc := classVc type, dateline := false, detour := false, dest := dest, reason := 1, src := 2, tag := 0, ts := 0, xferId := 3, pktIndex := 0
    ext := [], payload := payload }
def ext0 : DataExt := { destAddr := G, pktTotal := 1, ctrAddr := G + 0x100, increment := 5 }
/-- Module 0 of a torus of 4 along Z and 2 along X; its links to +Z and +X are up, and tag 0 is accepted. -/
def fab0 : State := (((((torus0 s0).put .fabSizeX 0 1).put .portLinkState 0 6).put .fabTagValid 0 1).modPort 4 (fun x => { x with heard := true })).modPort 0
  (fun x => { x with heard := true })
theorem wit_packets : (pkt0 1 1 []).dest ≠ fab0.self ∧ fab0.dorPort 1 = some 4 ∧ fab0.linkUp 4 = true ∧ (fab0.put .portLinkState 4 0).linkUp 4 = false ∧
    ((fab0.put .portLinkState 4 0).detourPorts 1 2).find? (fab0.put .portLinkState 4 0).linkUp = some 0 ∧
    (((fab0.put .portLinkState 4 0).put .portLinkState 0 0).detourPorts 1 2).find? ((fab0.put .portLinkState 4 0).put .portLinkState 0 0).linkUp = none ∧
    fab0.tagAccepted 0 = true ∧ (pkt0 1 0 []).dest = fab0.self ∧ fab0.segments = [] ∧ fab0.hostRange G 2 = true ∧ fab0.counterOk (G + 0x100) = true ∧
    s0.tagAccepted 0 = false ∧ fab0.reg .modPowerState 0 ≠ 1 := by decide +kernel
theorem wit_segment : ({ fab0 with segments := [{ src := 2, xferId := 3, total := 1, got := [0], complete := true }] }).segments.find?
    (fun (g : Segment) => g.src == (pkt0 1 0 []).src && g.xferId == (pkt0 1 0 []).xferId) = some { src := 2, xferId := 3, total := 1, got := [0], complete := true } := by decide +kernel
theorem test_route : after (exec (.packetRoute 5 (pkt0 2 1 [])) fab0) (fun t => t.outbox.length == 1 && t.reg .portFlitsTx 4 == 1) &&
    after (exec (.packetRoute 5 (pkt0 2 1 [])) (fab0.put .portLinkState 4 0)) (fun t => t.reg .portFlitsTx 0 == 1) = true := by decide +kernel
/-- R280: a segment is written and counted once; the same packet again only has its answer repeated. -/
theorem test_data : after (exec (.data (pkt0 1 0 [8, 9]) ext0) fab0) (fun t => t.num G 2 == 0x908 && t.num (G + 0x100) 8 == 5 &&
      after (exec (.data (pkt0 1 0 [1, 1]) ext0) t) (fun u => u.num G 2 == 0x908 && u.num (G + 0x100) 8 == 5)) &&
    after (exec (.data { pkt0 1 0 [8, 9] with tag := 6 } ext0) fab0) (fun t => t.reg .fabTagDrops 0 == 1 && t.mem.isEmpty) = true := by decide +kernel

/-- A transfer of one segment, number 3, to module 2. -/
def flying0 : State := { started 0x50 (fab0.put .modTimeNow 0 50000000) with xfers := [{ cmd := h5, p := { xferP with dstModule := 2 }, segs := [(3, 0, 4, 1)] }] }
def refused0 : State := { flying0 with xfers := [{ cmd := h5, p := { xferP with dstModule := 1 }, segs := [(3, 0, 4, 3)], nacked := [(3, 0)] }] }
theorem wit_answers : ((flying0.xferOf 2 3).map (fun x => x.final 3)) = some true ∧ flying0.xferOf 2 4 = none ∧ flying0.isOut h5 = true ∧
    (flying0.entry h5).opcode ≠ 0x45 ∧ (pkt0 3 0 []).reason = 1 ∧
    (refused0.xfers.find? (fun x => x.segs.any (fun g => g.1 == 3 && g.2.2.2 == 3) && x.nacked.any (fun n => n.1 == 3 && decide (n.2 + 20000 ≤ refused0.now)))).isSome = true ∧
    ((refused0.xfers.head?.bind (fun x => refused0.sendSegment x 3 0 4)).isSome = true) ∧
    ((State.xferOf { flying0 with xfers := [{ cmd := h5, p := { xferP with dstModule := 2 }, segs := [(3, 0, 4, 1), (4, 4, 4, 0)] }] } 2 3).map (fun x => x.final 3)) = some false := by decide +kernel
theorem test_answers : done (exec (.xferDone (pkt0 2 0 [])) flying0) h5 0 (fun t => t.xfers.isEmpty) &&
    after (exec (.xferNack (pkt0 3 0 [])) flying0) (fun t => t.isOut h5 && (t.xfers.map (·.nacked)) == [[(3, 50000000)]]) &&
    done (exec (.xferNack { pkt0 3 0 [] with reason := 2 }) flying0) h5 stAddressError (fun t => t.xfers.isEmpty) = true := by decide +kernel
theorem test_resend : after (exec (.segmentResend 3) refused0) (fun t => t.reg .portFlitsTx 4 == 1 && (t.xfers.map (·.segs)) == [[(3, 0, 4, 1)]]) &&
    stays (exec (.segmentResend 3) (refused0.put .modTimeNow 0 19999)) (refused0.put .modTimeNow 0 19999) &&
    after (exec (.segmentEntryExpiry 2 3) { flying0 with segments := [{ src := 2, xferId := 3, total := 1, got := [0], complete := true }] }) (fun t => t.segments.isEmpty) = true := by
  decide +kernel

/-- The module follows module 2, its root, over port 4. -/
def timed0 : State := (((((link0 6).put .modTimeRoot 0 2).put .modRootValid 0 1).put .modTimeRefPort 0 4).put .modTimeHops 0 1)
def flitT (x : Nat) : TimeFlit := { tTx := 50000000 + x, fineTx := 0, fineRx := 0, tstate := 1, hops := 0, rootAddr := 2, tRxLast := 1000 + x, tTxEcho := 1000
                                    rxTime := 50000000, rxFine := 0 }
theorem wit_time : timed0.reg .portMode 4 ≠ 1 ∧ timed0.reg .portLinkState 4 ≠ 0 ∧ timed0.reg .modTimeRootSelf 0 = 0 ∧ (flitT 6).tTxEcho ≠ 0 ∧
    timeOffset2 (flitT 6) = 2 * 96 ∧ timed0.reg .modTimeConverged 0 = 0 := by decide +kernel
/-- R316: the partner is six ticks ahead. -/
theorem test_timeFlit : after (exec (.timeFlit 4 (flitT 6)) timed0) (fun t => t.now == 50000006 && t.reg .modTimeOffset 0 == 96 && t.reg .modTimeSteps 0 == 1) = true := by
  decide +kernel
theorem test_timeSend : after (exec (.timeFlitSend 4) timed0) (fun t => t.outbox.length == 1 && (t.port 4).lastTimeTx == 50000000) &&
    after (exec (.dieTimeExchange 3 (-40)) timed0) (fun t => tget 0 t.dieOffset 3 == -40) = true := by decide +kernel



/-! ### Collectives in progress, losses, admissions -/

def collPkt (step count offset : Nat) (payload : List Byte) : CollPacket :=
  { src := 1, tag := 0, ts := 0, pktIndex := 0, step := step, chunk := 0, collSeq := 4, elemOffset := offset, count := count, wireFmt := fmtFP32, payload := payload }
/-- Collective 4 of job 1, of three FP32 elements that are all 0 here but the first, 2.0; this module is the second member and has reached its first pass. -/
def memb : Coll := { job := 1, seq := 4, cmd := some h5, arrived := true, p := collP }
def ring1 (c : Coll) : State :=
  { tens 6 0x60 with
    tensors := [{ job := 1, p := tensorP 1 6 3, scale := 0x3F800000 }, { job := 1, p := tensorP 2 6 3, scale := 0x3F800000 }]
    jobs := [{ id := 1, nx := 2, ny := 1, nz := 1, ranks := [1, 0], rank := 1, nextColl := 5, mapCrc := 77, pool := 16, poolFree := 16 }], colls := [c] }
def begun1 : Coll := { memb with granted := 1, claims := [(1, 1), (0, 1)], begun := 1 }
def liveOk (s : State) (k : CollPacket) : Bool :=
  match s.collJob k with
  | some j => match s.coll? j.id k.collSeq with | some c => !c.stopped && c.cmd.isSome && !k.malformed | none => false
  | none => false
theorem wit_claims : liveOk (ring1 memb) (collPkt 0 3 0 (bytesLE 4 77)) = true ∧ natLE ((collPkt 0 3 0 (bytesLE 4 77)).payload.take 4) = 77 ∧ memb.granted = 0 ∧
    memb.record = none ∧ { collPkt 0 3 0 [] with tag := 9 }.malformed = false ∧ (ring1 memb).collJob { collPkt 0 3 0 [] with tag := 9 } = none ∧
    ((ring1 memb).job? 1).map (fun j => ((ring1 memb).claimHead j == some memb, j.poolFree, j.claimMax)) = some (true, 16, 256) ∧
    ((ring1 memb).collCtx memb).map (fun x => (x.largest, x.plan.head?.map (fun p => Coll.ringReady { memb with claims := [(1, 1)] } x.j p.axis))) =
      some (8 * 2, some false) := by decide +kernel
theorem test_claims : after (exec (.claim (collPkt 0 3 0 (bytesLE 4 77))) (ring1 memb)) (fun t => (t.coll? 1 4).map (·.claims) == some [(0, 3)]) &&
    after (exec (.claim (collPkt 0 3 0 (bytesLE 4 78))) (ring1 memb)) (fun t => (t.coll? 1 4).map (·.stopped) == some true) &&
    after (exec (.credit (collPkt 2 2 0 [])) (ring1 memb)) (fun t => (t.coll? 1 4).map (·.credits) == some [(2, 2)]) &&
    after (exec (.done (collPkt 2 2 0 [])) (ring1 memb)) (fun t => (t.coll? 1 4).map (·.dones) == some 1) = true := by decide +kernel
theorem test_claimGrant : after (exec (.claimGrant 1) (ring1 memb)) (fun t => (t.coll? 1 4).map (·.granted) == some 1 &&
    (t.job? 1).map (·.poolFree) == some 15) = true := by decide +kernel

theorem wit_piece : (liveOk (ring1 begun1) (collPkt 0 0 0 []) && match (ring1 begun1).collCtx begun1 with
    | some x => (match x.passOf begun1 0 0 with
      | some q => q.1 + 1 == begun1.begun && q.2.kind == .reduce && q.2.finish 0 == q.2.r && q.2.due == 2 && (x.wire q.2).1 == 8 &&
          Coll.got { begun1 with seen := [(0, 0, 0, 1)] } q.2 == 1
      | none => false)
    | none => false) = true := by decide +kernel
/-- R298: the first element comes with the partial 1.0 and takes this member's own 2.0; the same packet again is dropped. -/
theorem test_piece : after (exec (.piece (collPkt 0 0 0 (bytesLE 8 (carryCode true true (fp32 0x3F800000))))) (ring1 begun1)) (fun t =>
      (t.coll? 1 4).map (fun c => (c.val 0 0 == carryCode true true (fp32 0x40400000), c.seen)) == some (true, [(0, 0, 0, 1)]) &&
      after (exec (.piece (collPkt 0 0 0 [])) t) (fun u => u.reg .modCollDupDrops 0 == 1)) = true := by decide +kernel

def rec0 : List Byte := abortRecord { id := 1, ranks := [1, 0], rank := 1 } 4 1 0xFF 0 1 1000 0
/-- Stopped by `rec0`; the tensor of its DST is not in the table, so that no byte of it becomes free. -/
def stopped1 (t : Nat) : State := ((ring1 { memb with stopped := true, granted := 3, record := some rec0, p := { collP with dst := 9 } }).put .modTimeNow 0 t).put .modCollAbortBase 0 (G + 0x400)
theorem wit_progress : rec0.length = 64 ∧ fieldLE rec0 32 8 = 1000 ∧ ((stopped1 501000).coll? 1 4).map (fun c => (c.record == some rec0, c.stored)) = some (true, none) ∧
    memb.lastTs + 2000 * max 1 (((ring1 memb).put .modCollTimeoutUs 0 0).reg .modCollTimeoutUs 0) ≤ ((ring1 memb).put .modTimeNow 0 2000).now ∧
    (ring1 memb).coll 1 4 = memb ∧ recordBefore rec0 (abortRecord { id := 1, ranks := [1, 0], rank := 0 } 4 1 0xFF 0 0 1000 0) = false := by decide +kernel
theorem test_abortPacket : after (exec (.abortPacket (collPkt 0 0 0 rec0)) (ring1 memb)) (fun t => (t.coll? 1 4).map (fun c => (c.stopped, c.record == some rec0)) == some (true, true)) &&
    after (exec (.collProgressTimeout 1 4) (((ring1 memb).put .modCollTimeoutUs 0 0).put .modTimeNow 0 2000)) (fun t => (t.coll? 1 4).map (·.stopped) == some true) &&
    stays (exec (.collProgressTimeout 1 4) (((ring1 memb).put .modCollTimeoutUs 0 0).put .modTimeNow 0 1999)) (((ring1 memb).put .modCollTimeoutUs 0 0).put .modTimeNow 0 1999) = true := by
  decide +kernel
theorem test_abortCompletion : done (exec (.abortCompletion 1 4) (stopped1 501000)) h5 stCollAbort (fun t => t.bytes (G + 0x400) 64 == rec0 &&
    t.reg .modCollAborts 0 == 1 && (t.job? 1).map (·.poolFree) == some 19) && stays (exec (.abortCompletion 1 4) (stopped1 500999)) (stopped1 500999) = true := by decide +kernel

def mgmtPkt (payload : List Byte) : MgmtPacket := { src := 1, tag := 0, jobId := 1, payload := payload }
def lossRec (t rank : Nat) : List Byte := bytesLE 8 t ++ List.replicate 32 0 ++ bytesLE 4 rank ++ List.replicate 4 0 ++ bytesLE 8 0 ++ bytesLE 4 0 ++ List.replicate 4 0
/-- Job 1 of two modules along Z, and a command of it that has started. -/
def jobs0 (loss : Option (Nat × Nat × Nat × Nat)) (t : Nat) : State :=
  { (((s0.put .modTimeNow 0 t).put .fabSizeZ 0 1).put .modErrBase 0 (G + 0xE0000)).put .modErrCount 0 0 with
    jobs := [{ id := 1, nx := 1, ny := 1, nz := 2, ranks := [0, 1], loss := loss }], probes := [⟨1, 1, 0⟩]
    outstanding := [{ cmd := h5, opcode := 0x40, phase := .started, jobId := 1 }] }
theorem wit_loss : ((jobs0 none 0).mgmtJob (mgmtPkt [])).map (·.id) = some 1 ∧ (jobs0 none 0).probes.find? (fun x => x.job == 1 && x.rank == 1) = some ⟨1, 1, 0⟩ ∧
    (((jobs0 none (2 ^ 40)).put .modProbeTimeoutUs 0 5).reg .modProbeTimeoutUs 0) * 2000 ≤ (jobs0 none (2 ^ 40)).now ∧
    ((jobs0 (some (7, 0, 1, 0)) 500007).job? 1).map (fun j => (j.lost, j.loss)) = some (false, some (7, 0, 1, 0)) ∧
    (jobs0 none 0).beyond 0 4 = some 1 ∧ State.cutOff { jobs0 none 9 with portsFailedAt := tset 0 (tset 0 [] 4 9) 5 9 } 1 = true ∧
    ({ mgmtPkt [] with src := 7 } : MgmtPacket).tag = 0 ∧ (jobs0 none 0).mgmtJob { mgmtPkt [] with src := 7 } = none := by decide +kernel
theorem test_probe : after (exec (.probeAck (mgmtPkt [])) (jobs0 none 0)) (fun t => t.probes.isEmpty) &&
    after (exec (.probe (mgmtPkt [])) (torus0 (jobs0 none 0))) (fun t => (t.port 4).queue.length == 1) &&
    after (exec (.probeTimeout 1 1 6) (jobs0 none (2 ^ 50))) (fun t => t.probes.isEmpty && (t.job? 1).map (·.loss) == some (some (2 ^ 50, 0, 1, 6))) = true := by decide +kernel
theorem test_loss : after (exec (.loss (mgmtPkt (lossRec 5 1))) (jobs0 (some (7, 0, 1, 0)) 0)) (fun t => (t.job? 1).map (·.loss) == some (some (5, 0, 1, 0))) &&
    stays (exec (.loss (mgmtPkt (lossRec 8 1))) (jobs0 (some (7, 0, 1, 0)) 0)) (jobs0 (some (7, 0, 1, 0)) 0) &&
    done (exec (.lossCompletion 1) (jobs0 (some (7, 0, 1, 0)) 500007)) h5 stFault (fun t => t.reg .modErrCount 0 == 1) = true := by decide +kernel
theorem test_linkDown : after (exec (.linkDown (mgmtPkt (bytesLE 4 1 ++ [4]))) (jobs0 none 0)) (fun t => tget 0 t.portsFailedAt 12 == 1) &&
    stays (exec (.linkDown (mgmtPkt (bytesLE 4 1 ++ [6]))) (jobs0 none 0)) (jobs0 none 0) = true := by decide +kernel

/-- A JOB_ADMIT of two members that waits for the other's record since time 0. -/
def pend0 : Pending := { cmd := h5, p := { jobP with collOrder := 0 }, mapCrc := 77, nx := 2, ny := 1, nz := 1, ranks := [0, 1], records := [] }
def pending0 (t : Nat) : State := { (cmd0 0x10).put .modTimeNow 0 t with admitting := [pend0], outstanding := [{ cmd := h5, opcode := 0x10, phase := .started }] }
def memb1 (major : Nat) : List Byte := let r := memberRecord pend0 1; r.take 1 ++ bytesLE 1 major ++ r.drop 2
theorem wit_members : (pending0 0).admissionOf (mgmtPkt (memb1 3)) = some pend0 ∧ pend0.ranks.length ≤ (withRecord pend0 1 (memb1 3)).records.length + 1 ∧
    settleVersion 3 0 ((withRecord pend0 1 (memb1 3)).records.map (·.2)) = some (3, 0) ∧
    settleVersion 2 3 ((withRecord { pend0 with p := { pend0.p with major := 2, minor := 3 } } 1 (List.replicate 3 0 ++ [0xFF])).records.map (·.2)) = none ∧
    requestDiff (memberRecord pend0 0) ((withRecord pend0 1 (memb1 3)).records.map (·.2)) = none ∧
    (pending0 0).reg .modSumpJobSegs 0 ≤ (pending0 0).reg .modSumpFree 0 ∧ ((pending0 0).put .modSumpFree 0 0).reg .modSumpFree 0 < (pending0 0).reg .modSumpJobSegs 0 ∧
    ((pending0 0).entry h5).startTs + 20000000 ≤ (pending0 20000000).now ∧ (s0.admissionOf (mgmtPkt (memb1 3))) = none ∧
    ({ pend0 with ranks := [0, 1, 2] }).ranks.length > (withRecord pend0 1 (memb1 3)).records.length + 1 := by decide +kernel
/-- The job that lost rank 1 at step 6; the mirror has gone one step further (R352). -/
def restart0 : State :=
  { (pending0 0).put .modMirrorStep 0 7 with jobs := [{ id := 1, tag := 4095, ranks := [0, 1], lost := true, loss := some (5, 0, 1, 6) }] }
theorem wit_restart : restart0.jobs.find? (fun o => o.lost && !o.restarted && o.tag == pend0.p.tag && o.ranks.contains restart0.self) =
      some { id := 1, tag := 4095, ranks := [0, 1], lost := true, loss := some (5, 0, 1, 6) } ∧ restart0.reg .modSumpJobSegs 0 ≤ restart0.reg .modSumpFree 0 ∧
    restart0.admissionOf (mgmtPkt (memb1 3)) = some pend0 := by decide +kernel
theorem test_restart : done (exec (.jobHelloAck (mgmtPkt (memb1 3))) restart0) h5 0 (fun t => (t.job? 1).map (·.restarted) == some true &&
    (t.jobs.getLast?.map (·.restart)) == some (some 6) && t.reg .modMirrorStep 0 == 6) = true := by decide +kernel
theorem test_hello : done (exec (.jobHelloAck (mgmtPkt (memb1 3))) (pending0 0)) h5 0 (fun t => (t.jobs.getLast?.map (fun j => (j.major, j.ranks))) == some (3, [0, 1])) &&
    done (exec (.jobHello (mgmtPkt (memb1 3))) ((pending0 0).put .modSumpFree 0 0)) h5 stNoResources (fun _ => true) &&
    after (exec (.jobHello (mgmtPkt (memb1 3))) s0) (fun t => t.hellos.length == 1) &&
    done (exec (.jobHelloTimeout h5) (pending0 20000000)) h5 stTimeout (fun t => t.admitting.isEmpty) = true := by decide +kernel



/-! ### Edge mode, the test port, keys, and the block as a whole -/

def ingest0 : Flow := { port := 5, id := 9, dir := 0, iface := 1, remote := 3, remotePort := 4, window := 8, winBase := G, winSize := 64, ctrAddr := G + 0x100, increment := 5 }
def egress0 (n : Nat) : Flow := { port := 5, id := 9, dir := 1, iface := 1, remote := 3, remotePort := 4, window := 8, winBase := 0, winSize := 0, ctrAddr := 0
                                  increment := 0, sending := some (h5, G, 0, 8), sentPkts := 1, unacked := [(0, 0, n, 0)], nextPsn := 1 }
def transport (psn off : Nat) (flags : Nat) (payload : List Byte) : TransportPacket :=
  { srcAddr := 3, srcPort := 4, flags := flags, flowId := 9, psn := psn, ackPsn := 1, offsetOrSack := off, xferId := 0, payload := payload }
def edgeIn (f : Flow) : State := { (s0.put .portMode 5 1).put .modPowerState 0 2 with flows := [f] }
def edgeOut (n : Nat) : State := { (started 0x50 ((s0.put .portMode 5 1).put .portEdgeRto 5 1)).put .modTimeNow 0 2000 with flows := [egress0 n] }
theorem wit_ingest : (edgeIn ingest0).flowOfPacket 5 0 (transport 0 8 1 [6, 7]) = some ingest0 ∧ (transport 0 8 1 [6, 7]).psn = ingest0.ackPsn ∧
    8 + 2 ≤ ingest0.winSize ∧ (edgeIn ingest0).hostRange (G + 8) 2 = true ∧ (edgeIn ingest0).counterOk (G + 0x100) = true ∧ ingest0.got = [] ∧
    ingest0.winSize < 63 + 2 ∧ (edgeIn ingest0).flowOfPacket 5 0 { transport 0 0 0 [] with srcPort := 5 } = none ∧
    ({ ingest0 with sinceAck := 1 }).firstNew + 4000 ≤ ((edgeIn ingest0).put .modTimeNow 0 4000).now ∧ (edgeIn ingest0).flow? 5 8 0 = none ∧
    (edgeIn ingest0).reg .modPowerState 0 ≠ 1 ∧ ((edgeIn ingest0).modPort 5 (fun x => { x with ifaces := [bytesLE 16 77] })).ifaceAddr 5 0 = some 77 := by decide +kernel
theorem test_ingest : after (exec (.transportData 5 (transport 0 8 1 [6, 7])) (edgeIn ingest0)) (fun t => t.num (G + 8) 2 == 0x706 && t.num (G + 0x100) 8 == 5 &&
      (t.flow? 5 9 0).map (·.ackPsn) == some 1) &&
    after (exec (.transportData 5 (transport 0 63 1 [6, 7])) (edgeIn ingest0)) (fun t => (t.flow? 5 9 0).map (·.failed) == some true && t.outbox.length == 1) &&
    after (exec (.ackTimer 5 9) ((edgeIn { ingest0 with sinceAck := 1 }).put .modTimeNow 0 4000)) (fun t => t.outbox.length == 1) = true := by decide +kernel
theorem test_frames : after (exec (.neighborSolicitation 5 0 77) ((edgeIn ingest0).modPort 5 (fun x => { x with ifaces := [bytesLE 16 77] }))) (fun t =>
      t.outbox == [.frame 5 0 (bytesLE 16 77)]) && after (exec (.frameDiscard 5) s0) (fun t => t.reg .portEdgeDrops 5 == 1) &&
    after (exec (.echoRequest 5 0 77 [1]) ((edgeIn ingest0).modPort 5 (fun x => { x with ifaces := [bytesLE 16 77] }))) (fun t => t.outbox == [.frame 5 0 [1]]) &&
    after (exec (.priorityFlowControl 5 0 8) ((s0.put .portPfcEn 5 1).put .portPfcPrio 5 3)) (fun t => (t.port 5).paused == [0]) = true := by decide +kernel
theorem wit_egress : (edgeOut 1).flowOfPacket 5 1 (transport 0 0 0 []) = some (egress0 1) ∧ (edgeOut 1).flow? 5 9 1 = some (egress0 1) ∧ packets 8 ≤ (egress0 1).sentPkts ∧
    (∀ u ∈ (egress0 1).unacked, 2 ^ 31 ≤ (u.1 + 2 ^ 32 - (transport 0 0 0 []).ackPsn) % 2 ^ 32) ∧ (edgeOut 1).isOut h5 = true ∧
    (edgeOut 1).flowOfPacket 5 0 (transport 0 0 0 []) = none ∧ (egress0 9).unacked.find? (fun u => u.1 == 0) = some (0, 0, 9, 0) ∧
    0 + 2000 * (edgeOut 9).reg .portEdgeRto 5 ≤ (edgeOut 9).now ∧ s0.flowOfPacket 5 1 (transport 0 0 0 []) = none := by decide +kernel
theorem test_egress : done (exec (.transportAck 5 (transport 0 0 0 [])) (edgeOut 1)) h5 0 (fun t => (t.flow? 5 9 1).map (·.unacked) == some []) &&
    after (exec (.edgeRto 5 9 0) (edgeOut 8)) (fun t => t.reg .portEdgeRetx 5 == 1 && t.outbox.length == 1 && (t.flow? 5 9 1).map (·.unacked) == some [(0, 0, 9, 2000)]) &&
    stays (exec (.edgeRto 5 9 0) ((edgeOut 8).put .modTimeNow 0 1999)) ((edgeOut 8).put .modTimeNow 0 1999) = true := by decide +kernel
def errors (s : State) : State := s.put .modErrBase 0 (G + 0xE0000)
theorem test_reset : done (exec (.transportReset 5 (transport 0 0 0 [])) (errors (edgeOut 1))) h5 stFault (fun t => (t.flow? 5 9 1).map (·.failed) == some true) &&
    done (exec (.edgeRto 5 9 0) (errors (edgeOut 9))) h5 stFault (fun t => (t.flow? 5 9 1).map (·.failed) == some true) = true := by decide +kernel

theorem wit_testPort : s0.power.on = false ∧ on0.power.on = true ∧ (boot0 2).reg .modBootStage 0 ≤ 2 ∧ 2 < (boot0 3).reg .modBootStage 0 ∧
    { on0 with mfgOpen := false }.mfgOpen = false ∧ on0.mfgOpen = true ∧ on0.imageOpen = true ∧ imageFails on0.slotState (([] : List Byte).take (imageLen [])) ≠ none := by
  decide +kernel
theorem test_testPort : after (exec .idcode on0) (fun t => t.outbox == [.jtag 32 0x1D2004A7]) && stays (exec .idcode s0) s0 &&
    after (exec .extest (boot0 2)) (fun t => t.jtag.extestHold) && stays (exec .extest (boot0 3)) (boot0 3) &&
    after (exec (.svlImgLoad [1]) on0) (fun t => t.jtag.staging == [1] && t.jtag.instr == .svlImgLoad) = true := by decide +kernel
def nvw (tag tries : Nat) : NvWrite := { prio := 1, line := 40, bytes := [5], tries := tries, tag := tag }
theorem wit_keys : (keyed s0).keyUninit = false ∧ (keyed s0).reg .modKeyUninit 0 ≠ 1 ∧ (keyed s0).reg .modKeyNextQ 0 % 2 ^ 15 < 28672 ∧
    28672 ≤ ((keyed s0).put .modKeyNextQ 0 28672).reg .modKeyNextQ 0 % 2 ^ 15 ∧ nvHead [nvw 0 7] = some (nvw 0 7) ∧ nvHead s0.nvQueue = none ∧
    s0.keyUninit = true := by decide +kernel
theorem test_nvLine : after (exec (.nvLineWrite true) { s0 with nvQueue := [nvw 0 0] }) (fun t => t.nvQueue.isEmpty && t.nvLine 40 == [5] ++ List.replicate 63 0) &&
    after (exec (.nvLineWrite false) { s0 with nvQueue := [nvw 0 6] }) (fun t => t.nvQueue == [nvw 0 7]) &&
    after (exec (.nvLineWrite false) { s0 with nvQueue := [nvw 0 7] }) (fun t => t.nvQueue.isEmpty && t.reg .modNvWriteErr 0 == 1) &&
    after (exec .attestTokenRefill (s0.put .modAttestTokens 0 64)) (fun t => t.reg .modAttestTokens 0 == 64) = true := by decide +kernel

/-- One command waits: the step runs it on the rest of the queue. -/
theorem test_step : after (step { s0 with pending := [.frameDiscard 1, .frameDiscard 2] }) (fun t => t.reg .portEdgeDrops 1 == 1 && t.reg .portEdgeDrops 2 == 0 &&
      t.pending == [.frameDiscard 2]) && after (step (boot0 1)) (fun t => t.now == 1) = true := by decide +kernel
theorem slotWord_lt (w : Nat) : defaultSlotWord w < 2 ^ 32 := by
  have h : ∀ n, defaultSlot n ≤ 4 := by
    intro n; unfold defaultSlot; repeat (split; omega)
    omega
  have k : ∀ (l : List Nat) (a b : Nat), a < b → l.foldl (fun a i => a + defaultSlot (8 * w + i) * 16 ^ i) a <
      l.foldl (fun b i => b + 4 * 16 ^ i) b := by
    intro l; induction l with
    | nil => intro a b h; exact h
    | cons x l ih => intro a b hab; exact ih _ _ (Nat.add_lt_add_of_lt_of_le hab (Nat.mul_le_mul_right _ (h _)))
  exact Nat.lt_of_lt_of_le (k (List.range 8) 0 1 Nat.one_pos) (by decide)

/-- The state at reset meets the invariant, and its step answers a next state. -/
theorem wit_wf : State.reset.wf ∧ ∃ t, step State.reset = .next t := by
  refine ⟨⟨rfl, rfl, rfl, fun f u i => ?_⟩, _, rfl⟩
  show resetVal f i < _
  by_cases h : f = .glSlotActive ∨ f = .glSlotShadow
  · rcases h with rfl | rfl <;> exact slotWord_lt i
  · have e : resetVal f i = (fieldInfo f).reset := by cases f <;> first | rfl | simp at h
    rw [e]; revert h; clear e; cases f <;> intro h <;> decide +kernel
def retired0 : State := s0.put .chRetired 5 1
theorem wit_retired : retired0.reg .chRetired 5 = 1 ∧ resets (.go 5 0) = false ∧ (∃ t, exec (.go 5 0) retired0 = .next t) ∧
    ({ tens 2 0x13 with regs := ((tens 2 0x13).put .chRetired 5 1).regs }).ready h5 = true ∧ (tens 2 0x13).hasJob h5 = true := by
  refine ⟨by decide +kernel, rfl, ⟨_, rfl⟩, by decide +kernel, by decide +kernel⟩
/-- R16, R151: a stage program for a retired Chamber is turned away. -/
theorem test_retired : done (exec (.stageRun h5 5 0 0 0) ((tens 2 0x13).put .chRetired 5 1)) h5 stNoResources (fun t => t.reg .chRetired 5 == 1) = true := by decide +kernel
/-- R8: values of the Reset column. -/
theorem test_resetValues : State.reset.reg .modBootStage 0 = 0 ∧ State.reset.reg .chComplexHold 255 = 1 ∧
    State.reset.mem = [] ∧ State.reset.pending = [] := by decide +kernel

end Sys2Proof.Tests
end

section
/-!
The state at reset.
-/
namespace Sys2Proof.Machine

/-- A word of digits below 16, as `defaultSlotWord` forms it. -/
theorem foldl_digits_lt {d : Nat → Nat} (hd : ∀ i, d i < 16) (n : Nat) :
    (List.range n).foldl (fun a i => a + d i * 16 ^ i) 0 < 16 ^ n := by
  induction n with
  | zero => exact Nat.one_pos
  | succ n ih =>
    rw [List.range_succ, List.foldl_append, List.foldl_cons, List.foldl_nil, Nat.pow_succ]
    have := Nat.mul_le_mul_right (16 ^ n) (Nat.le_of_lt_succ (hd n))
    omega

theorem defaultSlot_lt (n : Nat) : defaultSlot n < 16 := by
  unfold defaultSlot
  repeat' split
  all_goals omega

/-- Every reset value fits its field. -/
theorem reset_lt (f : Field) : (fieldInfo f).reset < 2 ^ (fieldInfo f).width := by cases f <;> decide

theorem resetVal_of_ne {f : Field} (ha : f ≠ .glSlotActive) (hb : f ≠ .glSlotShadow) (i : Nat) :
    resetVal f i = (fieldInfo f).reset := by
  unfold resetVal
  split
  · exact absurd rfl ha
  · exact absurd rfl hb
  · rfl

theorem resetVal_lt (f : Field) (i : Nat) : resetVal f i < 2 ^ (fieldInfo f).width := by
  unfold resetVal
  split
  · exact foldl_digits_lt (fun _ => defaultSlot_lt _) 8
  · exact foldl_digits_lt (fun _ => defaultSlot_lt _) 8
  · exact reset_lt _

theorem State.wf_reset : State.reset.wf := ⟨rfl, rfl, rfl, fun f _ i => resetVal_lt f i⟩

end Sys2Proof.Machine

open Sys2Proof Sys2Proof.Machine

/-- Settles O57: every table starts empty, so a read is its default; the slot tables' words are digits below 16. -/
theorem resetState : Obligations.ResetState :=
  ⟨State.wf_reset, fun _ _ _ => rfl, fun _ ha hb _ i => resetVal_of_ne ha hb i, fun _ => rfl, fun _ _ => rfl, rfl, rfl, rfl, rfl,
    rfl, fun _ => rfl, fun _ _ => rfl⟩
end

section
/-!
Register writes.
-/
namespace Sys2Proof.Machine

/-! ### Register writes by access code -/

section
variable {s : State} {f : Field} {u i v : Nat}

theorem outsideSame_setReg : outsideSame s (s.setReg f u i v) := rfl

theorem sameRegs_setReg : sameRegs (fun g w k => g = f ∧ w = u ∧ k = i) s (s.setReg f u i v) :=
  fun g w k h => by rw [State.reg_setReg, if_neg h]

theorem State.writeField_of_rw (h : (fieldInfo f).acc = .rw ∨ (fieldInfo f).acc = .rws) :
    s.writeField f u i v = s.setReg f u i (v % 2 ^ (fieldInfo f).width) := by
  obtain h | h := h <;> simp only [State.writeField, h]

theorem State.writeField_of_rw1c (h : (fieldInfo f).acc = .rw1c) :
    s.writeField f u i v = s.setReg f u i (s.reg f u i - (s.reg f u i &&& v % 2 ^ (fieldInfo f).width)) := by
  simp only [State.writeField, h]

theorem State.writeField_of_ro (h : (fieldInfo f).acc = .ro) : s.writeField f u i v = s := by
  simp only [State.writeField, h]

/-! ### Writes of the control complex -/

theorem State.complexWrite_of_rngBusy (hf : rngField f = true) (hb : s.strandBusy u i = true) :
    s.complexWrite f u i v = s.flag .chRngBusy u := by
  have h : (rngField f && s.strandBusy u i) = true := by rw [hf, hb]; rfl
  exact if_pos h

theorem rngField_of_maskField (hf : maskField f = true) : rngField f = false := by
  revert hf; cases f <;> decide

theorem State.complexWrite_of_maskBusy (hf : maskField f = true) (he : s.reg .chState u i ≠ psEmpty)
    (hd : s.reg .chState u i ≠ psDone) : s.complexWrite f u i v = s.flag .chGmaskBusy u := by
  simp [State.complexWrite, rngField_of_maskField hf, hf, he, hd]

/-- A field without an action of its own, of a strand that is not at work, takes the write under its access code. -/
theorem State.complexWrite_of_plain (ha : f ∉ actingFields) (hw : (fieldInfo f).acc ≠ .wo)
    (hr : rngField f = true → s.strandBusy u i = false)
    (hm : maskField f = true → s.reg .chState u i = psEmpty ∨ s.reg .chState u i = psDone) :
    s.complexWrite f u i v = s.writeField f u i v := by
  have hr' : (rngField f && s.strandBusy u i) = false := by
    simpa [Bool.and_eq_false_imp] using hr
  have hm' : (maskField f && s.reg .chState u i != psEmpty && s.reg .chState u i != psDone) = false := by
    cases hf : maskField f
    · rfl
    · obtain h | h := hm hf <;> simp [h]
  unfold State.complexWrite
  rw [hr', hm']
  simp only [Bool.false_eq_true, if_false]
  split
  case h_17 => rw [if_neg hw]
  all_goals exact absurd (by decide) ha

/-! ### REGISTER_WRITE by its writer -/

theorem exec_registerWrite_complex (he : fieldExists f u i = true) (hp : (fieldInfo f).block ≠ .pci)
    (hg : (fieldInfo f).block ≠ .mgt) (ho : encodingOk f (v % 2 ^ (fieldInfo f).width) = true) :
    exec (.registerWrite .complex f u i v) s = .next (s.complexWrite f u i (v % 2 ^ (fieldInfo f).width)) := by
  show execRegisterWrite .complex f u i v s = _
  simp [execRegisterWrite, he, hp, hg, ho]

theorem exec_registerWrite_reserved (he : fieldExists f u i = true) (hp : (fieldInfo f).block ≠ .pci)
    (hg : (fieldInfo f).block ≠ .mgt) (ho : encodingOk f (v % 2 ^ (fieldInfo f).width) = false) :
    exec (.registerWrite .complex f u i v) s = .next (s.refusedEncoding f u) := by
  show execRegisterWrite .complex f u i v s = _
  simp [execRegisterWrite, he, hp, hg, ho]

theorem fieldExists_zero (he : fieldExists f u i = true) : fieldExists f 0 i = true := by
  simp only [fieldExists, Bool.and_eq_true, decide_eq_true_eq] at he ⊢
  exact ⟨Nat.zero_lt_of_lt he.1, he.2⟩

/-- A host write before the module is ready is ignored, whatever it writes. -/
theorem exec_registerWrite_notReady (he : fieldExists f u i = true) (hp : (fieldInfo f).block = .pci)
    (hr : s.reg .pciReady 0 = 0) : exec (.registerWrite .host f u i v) s = .next (s.flag .pciAccessErr 0) := by
  have hw : s.hostRegWrite f i v = s.pciIgnored := by simp [State.hostRegWrite, hr]
  show execRegisterWrite .host f u i v s = _
  simp only [execRegisterWrite, hp, fieldExists_zero he, hw, ne_eq, not_true_eq_false, if_false, Bool.true_or, Bool.not_true,
    Bool.false_eq_true, ite_self]
  rfl

end

end Sys2Proof.Machine

open Sys2Proof Sys2Proof.Machine

/-- Settles O33: the write of a field that acts is left out, so the access code decides; busy strands and reserved encodings
are the branches before it. -/
theorem registerWrites : Obligations.RegisterWrites := by
  intro s f u i v he
  refine ⟨fun hp hg ho ha => ⟨fun hf hb => ?_, fun hf h1 h2 => ?_, fun hr hm => ?_⟩, fun hp hg ho => ?_, fun hf hv => ?_,
    fun hp hr => ?_, rfl⟩
  · rw [exec_registerWrite_complex he hp hg ho, State.complexWrite_of_rngBusy hf hb]
  · rw [exec_registerWrite_complex he hp hg ho, State.complexWrite_of_maskBusy hf h1 h2]
  · have plain : (fieldInfo f).acc ≠ .wo → exec (.registerWrite .complex f u i v) s =
        .next (s.writeField f u i (v % 2 ^ (fieldInfo f).width)) := fun hw => by
      rw [exec_registerWrite_complex he hp hg ho, State.complexWrite_of_plain ha hw hr hm]
    refine ⟨fun hacc => ?_, fun hacc hlt => ?_, fun hacc => ?_⟩
    · have hw : (fieldInfo f).acc ≠ .wo := by obtain h | h := hacc <;> simp [h]
      refine ⟨_, plain hw, ?_⟩
      rw [State.writeField_of_rw hacc]
      exact ⟨by simp, outsideSame_setReg, rfl, sameRegs_setReg⟩
    · refine ⟨_, plain (by simp [hacc]), ?_⟩
      rw [State.writeField_of_rw1c hacc, Nat.mod_mod]
      exact ⟨by rw [State.reg_setReg_same, Nat.mod_eq_of_lt (by omega)], outsideSame_setReg, rfl, sameRegs_setReg⟩
    · rw [plain (by simp [hacc]), State.writeField_of_ro hacc]
  · exact exec_registerWrite_reserved he hp hg ho
  · subst hf
    exact exec_registerWrite_reserved he (by decide) (by decide) (by rw [hv]; rfl)
  · exact exec_registerWrite_notReady he hp hr
end

section
/-!
Every step keeps the invariant. The proof follows the model: each operation of the state has a lemma `State.wf.op`, and each
command a lemma `execOp_wf`. The proof of each is the body of the definition read from left to right: `hs.flag.log` for
`(s.flag ..).log ..`, `hs.when .send` for `if .. then s.send .. else s`, and a case per branch where the body matches.
-/
namespace Sys2Proof.Machine

variable {s t u : State}

/-! ### Rules for the shapes of a body -/

/-- What a command answers is well formed, if it is a next state. -/
def nextWf : Out → Prop
  | .next t => t.wf
  | .fault _ => True
  | .refused _ => True

theorem nextWf_ite {c : Prop} [Decidable c] {o p : Out} (ho : nextWf o) (hp : nextWf p) : nextWf (if c then o else p) := by
  split
  · exact ho
  · exact hp

/-- The invariant speaks of the memories, the marks and the registers only: an update of any other field keeps it. -/
theorem State.wf.beside
    {soft chambers gmem gpow caches sharers lost queues fetchRR outstanding outcomes jobs nextJob admitting
     hellos tensors groups plans batches progress halted contexts allocs retired withdrawn colls ports
     segments xfers nextXfer xferSources flows fine dieOffset refGood refFar slew slewTicks logs logSeq events
     recoveries failedLinks linkHolds junctionHolds probes mirrors portsFailedAt power nvMem nvQueue boot keys
     jtag pcie smbus alertLow thermTripLow mfgOpen keyInit fresh outbox pending} (hs : s.wf) : State.wf { s with
      soft, chambers, gmem, gpow, caches, sharers, lost, queues, fetchRR, outstanding, outcomes, jobs,
      nextJob, admitting, hellos, tensors, groups, plans, batches, progress, halted, contexts, allocs,
      retired, withdrawn, colls, ports, segments, xfers, nextXfer, xferSources, flows, fine, dieOffset,
      refGood, refFar, slew, slewTicks, logs, logSeq, events, recoveries, failedLinks, linkHolds,
      junctionHolds, probes, mirrors, portsFailedAt, power, nvMem, nvQueue, boot, keys, jtag, pcie, smbus,
      alertLow, thermTripLow, mfgOpen, keyInit, fresh, outbox, pending } :=
  ⟨hs.mem, hs.hostMem, hs.poison, hs.regs⟩

/-- `if c then op s else s`. -/
theorem State.wf.when {c : Prop} [Decidable c] (hs : s.wf) (ht : s.wf → t.wf) : (if c then t else s).wf := by
  split
  · exact ht hs
  · exact hs

/-- `if c then s else op s`. -/
theorem State.wf.unless {c : Prop} [Decidable c] (hs : s.wf) (ht : s.wf → t.wf) : (if c then s else t).wf := by
  split
  · exact hs
  · exact ht hs

/-- `if c then op s else op' s`. -/
theorem State.wf.either {c : Prop} [Decidable c] (hs : s.wf) (ht : s.wf → t.wf) (hu : s.wf → u.wf) :
    (if c then t else u).wf := by
  split
  · exact ht hs
  · exact hu hs

/-- The state of a pair that an operation answers, under the name that a match gives it; the match's equation is in the
context. -/
theorem State.wf.ofSnd {A : Type} {p : A × State} {a : A} (hs : p.2.wf) (e : p = (a, t) := by assumption) : t.wf := by
  subst e
  exact hs

/-- `State.wf.ofSnd` where the state comes first. -/
theorem State.wf.ofFst {A : Type} {p : State × A} {a : A} (hs : p.1.wf) (e : p = (t, a) := by assumption) : t.wf := by
  subst e
  exact hs

theorem State.wf.snd_ite {A : Type} {c : Prop} [Decidable c] {p q : A × State} (hp : p.2.wf) (hq : q.2.wf) :
    (if c then p else q).2.wf := by
  split
  · exact hp
  · exact hq

theorem State.wf.of_some (hs : s.wf) : ∀ t, some s = some t → t.wf := fun _ h => Option.some.inj h ▸ hs

theorem someWf_ite {c : Prop} [Decidable c] {o p : Option State} (ho : ∀ t, o = some t → t.wf)
    (hp : ∀ t, p = some t → t.wf) : ∀ t, (if c then o else p) = some t → t.wf := by
  split
  · exact ho
  · exact hp

theorem State.wf.foldl {A : Type} {k : State → A → State} {l : List A} (hs : s.wf) (hk : ∀ {s a}, s.wf → (k s a).wf) :
    (l.foldl k s).wf := State.wf_foldl k (fun _ _ => hk) l hs

theorem State.wf.foldlFst {A B : Type} {k : State × B → A → State × B} {l : List A} {b : B} (hs : s.wf)
    (hk : ∀ {p a}, p.1.wf → (k p a).1.wf) : (l.foldl k (s, b)).1.wf :=
  List.foldlRecOn l k (motive := fun p => p.1.wf) hs fun _ hp _ _ => hk hp

theorem State.wf.foldlSnd {A B : Type} {k : B × State → A → B × State} {l : List A} {b : B} (hs : s.wf)
    (hk : ∀ {p a}, p.2.wf → (k p a).2.wf) : (l.foldl k (b, s)).2.wf :=
  List.foldlRecOn l k (motive := fun p => p.2.wf) hs fun _ hp _ _ => hk hp

/-! ### The primitive writes, as `Laws/Wf` has them -/

theorem State.wf.setReg {f u i v} (hs : s.wf) : (s.setReg f u i v).wf := State.wf_setReg hs f u i v
theorem State.wf.write {a bs} (hs : s.wf) : (s.write a bs).wf := State.wf_write hs a bs
theorem State.wf.markPoison {a n} (hs : s.wf) : (s.markPoison a n).wf := State.wf_markPoison hs a n
theorem State.wf.hostWrite {a bs} (hs : s.wf) : (s.hostWrite a bs).wf := State.wf_hostWrite hs a bs
theorem State.wf.showLost {a n} (hs : s.wf) : (s.showLost a n).wf := State.wf_showLost hs a n
theorem State.wf.store {a bs who cls} (hs : s.wf) : (s.store a bs who cls).wf := State.wf_store hs a bs who cls
theorem State.wf.log {cls idx kind payload cause} (hs : s.wf) : (s.log cls idx kind payload cause).wf :=
  State.wf_log hs cls idx kind payload cause

/-! ### Registers, memory, events, the log and replies -/

theorem State.wf.put {f u v} (hs : s.wf) : (s.put f u v).wf := hs.setReg
theorem State.wf.bump {f u n i} (hs : s.wf) : (s.bump f u n i).wf := hs.setReg
theorem State.wf.bumpSat {f u n} (hs : s.wf) : (s.bumpSat f u n).wf := hs.put
theorem State.wf.flag {f u} (hs : s.wf) : (s.flag f u).wf := hs.put
theorem State.wf.takeFree (hs : s.wf) : s.takeFree.2.wf := hs.beside
theorem State.wf.setChamber {c x} (hs : s.wf) : (s.setChamber c x).wf := hs.beside
theorem State.wf.modChamber {c f} (hs : s.wf) : (s.modChamber c f).wf := hs.setChamber
theorem State.wf.modStrand {c i f} (hs : s.wf) : (s.modStrand c i f).wf := hs.modChamber
theorem State.wf.modBank {c b f} (hs : s.wf) : (s.modBank c b f).wf := hs.modChamber
theorem State.wf.modGallery {g f} (hs : s.wf) : (s.modGallery g f).wf := hs.beside
theorem State.wf.setCache {g x} (hs : s.wf) : (s.setCache g x).wf := hs.beside
theorem State.wf.setSharer {k x} (hs : s.wf) : (s.setSharer k x).wf := hs.beside
theorem State.wf.modGalPower {g f} (hs : s.wf) : (s.modGalPower g f).wf := hs.beside
theorem State.wf.modQueue {q f} (hs : s.wf) : (s.modQueue q f).wf := hs.beside
theorem State.wf.modPort {p f} (hs : s.wf) : (s.modPort p f).wf := hs.beside
theorem State.wf.modJob {id f} (hs : s.wf) : (s.modJob id f).wf := hs.beside
theorem State.wf.send {m} (hs : s.wf) : (s.send m).wf := hs.beside

theorem State.wf.showBlock {b} (hs : s.wf) : (s.showBlock b).wf := by
  fun_cases s.showBlock b
  · exact hs
  · exact hs.foldl .markPoison |>.beside

theorem State.wf.request {k cls n} (hs : s.wf) : (s.request k cls n).wf := hs.bump
theorem State.wf.dropLine {line g} (hs : s.wf) : (s.dropLine line g).wf := hs.setCache

theorem State.wf.invalidate {who line} (hs : s.wf) : (s.invalidate who line).wf := by
  fun_cases s.invalidate who line
  · exact hs
  · exact hs.foldl .dropLine |>.setSharer

theorem State.wf.recordSharer {line g} (hs : s.wf) : (s.recordSharer line g).wf := by
  fun_cases s.recordSharer line g
  · exact hs.takeFree.ofSnd.bump
  · exact hs.setSharer
  · exact hs.setSharer
  · exact hs.foldl .dropLine |>.setSharer.bump

theorem State.wf.install {g line mask} (hs : s.wf) : (s.install g line mask).wf := by
  fun_cases s.install g line mask
  · exact hs.setCache
  · exact hs.setCache
  · exact hs.takeFree.ofSnd.setCache

theorem State.wf.cached {g line mask} (hs : s.wf) : (s.cached g line mask).2.wf := by
  fun_cases s.cached g line mask
  · exact hs
  · exact hs.takeFree.ofSnd
  · exact hs

theorem State.wf.readLine {who cls mask a} (hs : s.wf) : (s.readLine who cls mask a).2.wf := by
  fun_cases s.readLine who cls mask a
  · exact hs.request.bump
  · exact hs.cached.ofSnd.bump.setCache
  · exact hs.cached.ofSnd.request.bump
  · exact hs.cached.ofSnd.bump.recordSharer.request.bump.unless .install

theorem State.wf.raise {cls unit kind info} (hs : s.wf) : (s.raise cls unit kind info).wf := hs.beside
theorem State.wf.msix {v} (hs : s.wf) : (s.msix v).wf := hs.either .send (·.unless .beside)
theorem State.wf.hostEvent {b} (hs : s.wf) : (s.hostEvent b).wf := hs.unless (·.put.unless .msix)
theorem State.wf.alertPin (hs : s.wf) : s.alertPin.wf := hs.beside
theorem State.wf.alert {b} (hs : s.wf) : (s.alert b).wf := hs.either .alertPin (·.put.alertPin)

theorem State.wf.reachStop {e} (hs : s.wf) : (s.reachStop e).wf := by
  fun_cases s.reachStop e
  · exact hs
  · exact hs
  · exact hs.flag.bumpSat

theorem State.wf.leaveStop {e} (hs : s.wf) : (s.leaveStop e).wf := by
  fun_cases s.leaveStop e
  · exact hs
  · exact hs
  · exact hs.put

theorem State.wf.syncStop {e} (hs : s.wf) : (s.syncStop e).wf := hs.when .reachStop
theorem State.wf.syncStops {c} (hs : s.wf) : (s.syncStops c).wf := hs.syncStop.syncStop.syncStop
theorem State.wf.ownHold {c} (hs : s.wf) : (s.ownHold c).wf := hs.flag.syncStop
theorem State.wf.numFlags {c i mask} (hs : s.wf) : (s.numFlags c i mask).wf := hs.unless (·.foldl (·.when .put) |>.setReg)
theorem State.wf.reply {o d} (hs : s.wf) : (s.reply o d).wf := hs.modQueue.log
theorem State.wf.complete {h d} (hs : s.wf) : (s.complete h d).wf := hs.beside.reply
theorem State.wf.ok {h result} (hs : s.wf) : (s.ok h result).wf := hs.complete
theorem State.wf.fail {h status detail} (hs : s.wf) : (s.fail h status detail).wf := hs.complete

theorem State.wf.unmapped {a} (hs : s.wf) : (s.unmapped a).wf := by
  fun_cases s.unmapped a
  iterate 3 exact hs.flag
  · exact hs.takeFree.ofSnd.flag

theorem State.wf.counterAdd {a inc cause} (hs : s.wf) : (s.counterAdd a inc cause).wf := hs.store.bump

theorem State.wf.corrRead {a} (hs : s.wf) : (s.corrRead a).wf := by
  fun_cases s.corrRead a
  · exact hs.bumpSat.modGallery
  iterate 3 exact hs.bumpSat
  · exact hs

theorem State.wf.noteRead {a n} (hs : s.wf) : (s.noteRead a n).wf := hs.beside.foldl .corrRead
theorem State.wf.readRange {who cls drip a n} (hs : s.wf) : (s.readRange who cls drip a n).wf :=
  hs.unless .noteRead |>.unless (·.foldl .readLine)

theorem State.wf.dripRead {g a n} (hs : s.wf) : (s.dripRead g a n).2.wf := by
  fun_cases s.dripRead g a n
  · exact hs.unless .noteRead |>.bump
  · exact hs.unless .noteRead |>.bump.readLine

theorem State.wf.channelRead {a} (hs : s.wf) : (s.channelRead a).wf := hs.modGallery.when .raise

theorem State.wf.memUncorr {a} (hs : s.wf) : (s.memUncorr a).wf := by
  fun_cases s.memUncorr a
  · exact hs.log.when (·.put.put) |>.takeFree.ofSnd.bumpSat.when .flag |>.flag.bumpSat.channelRead
  · exact hs.log.flag.bumpSat
  · exact hs.log.bumpSat
  · exact hs.log.flag.bumpSat
  · exact hs.log

theorem State.wf.errRecord {r ts} (hs : s.wf) : (s.errRecord r ts).wf :=
  hs.store.bump.foldl .log |>.unless .flag |>.hostEvent.alert

/-! ### Operands -/

theorem State.wf.storeAll {ws who cls} (hs : s.wf) : (s.storeAll ws who cls).wf := by
  induction ws generalizing s with
  | nil => exact hs
  | cons w ws ih => exact ih hs.store

theorem State.wf.restoreMarks {lo hi} (hs : s.wf) : (s.restoreMarks lo hi).wf := State.wf_filterPoison hs _
theorem State.wf.refetchBlock {b} (hs : s.wf) : (s.refetchBlock b).wf := hs.when (·.showBlock.restoreMarks.modGallery.beside)
theorem State.wf.refetchFirst {a n} (hs : s.wf) : (s.refetchFirst a n).wf := hs.unless (·.foldl .refetchBlock)
theorem State.wf.refetchAt {as} (hs : s.wf) : (s.refetchAt as).wf := hs.unless (·.foldl .refetchBlock)

theorem State.wf.readFetched {v ps} (hs : s.wf) : (View.readFetched v s ps).1.wf := by
  fun_cases Machine.View.readFetched v s ps
  · exact hs
  · exact hs
  · exact hs.refetchAt

theorem State.wf.refetchTensors {job ids} (hs : s.wf) : (s.refetchTensors job ids).wf := hs.foldl .refetchFirst
theorem State.wf.readLines {c cls xs} (hs : s.wf) : (s.readLines c cls xs).wf :=
  hs.unless (·.foldl .noteRead) |>.foldl .readLine
theorem State.wf.walkPages {c r lps} (hs : s.wf) : (s.walkPages c r lps).wf := hs.bump.foldl (·.dripRead.unless .bump)

theorem State.wf.walkView {c v lps} (hs : s.wf) : (s.walkView c v lps).wf := by
  fun_cases s.walkView c v lps
  · exact hs.walkPages
  · exact hs

/-! ### Expand -/

theorem State.wf.readEntry {c i p n} (hs : s.wf) : (s.readEntry c i p n).2.wf := hs.when (·.foldl .dripRead |>.bump)

theorem State.wf.nestStep {c i p x} (hs : s.wf) : (s.nestStep c i p x).wf := by
  fun_cases s.nestStep c i p x
  · exact hs.modStrand
  · exact hs.readEntry.ofSnd.bump.bump.setReg.modStrand

theorem State.wf.nestDone {c i} (hs : s.wf) : (s.nestDone c i).wf := hs.modStrand.setReg.setReg

theorem State.wf.nestAdvance {c i n} (hs : s.wf) : (State.nestAdvance c i n s).wf := by
  induction n generalizing s with
  | zero => exact hs.nestDone
  | succ n ih =>
    unfold State.nestAdvance
    split
    · exact hs.nestDone
    · exact hs.nestStep.when ih

/-! ### Issue of words -/

theorem State.wf.syncIdle {c} (hs : s.wf) : (s.syncIdle c).wf := hs.put
theorem State.wf.park {c i ctr a target} (hs : s.wf) : (s.park c i ctr a target).wf :=
  hs.setReg.setReg.modStrand.when .modGallery

theorem State.wf.parkAll {c} (hs : s.wf) : (s.parkAll c).wf := by
  refine hs.foldl (·.when fun hs => ?_)
  split
  · exact hs.park
  · exact hs

theorem State.wf.switchPoint {c} (hs : s.wf) : (s.switchPoint c).wf := by
  unfold State.switchPoint
  extract_lets running s1
  have hp : s1.wf := hs.parkAll
  split
  · exact hp.put.put
  · extract_lets s2
    have h2 : s2.wf := hp.put.put
    split
    · exact h2.unless (·.bump.modChamber)
    · exact h2.modChamber

theorem State.wf.settle {c} (hs : s.wf) : (s.settle c).wf := hs.when .switchPoint

theorem State.wf.nestRegs {c i e} (hs : s.wf) : (s.nestRegs c i e).wf := by
  unfold State.nestRegs
  extract_lets s1 s2 before s3
  have h2 : s2.wf := by
    unfold s2
    split
    · exact hs.setReg.setReg.setReg.setReg
    · exact hs.setReg.setReg.setReg
  have h3 : s3.wf := h2.when (·.bump.setReg)
  split
  · exact h3.when .bump
  · exact h3

theorem State.wf.strandEvent {c i kind datum} (hs : s.wf) : (s.strandEvent c i kind datum).wf := hs.log.raise
theorem State.wf.stopStrand {c i kind datum} (hs : s.wf) : (s.stopStrand c i kind datum).wf :=
  hs.modStrand.strandEvent.when .switchPoint
theorem State.wf.pageError {c i e} (hs : s.wf) : (s.pageError c i e).wf :=
  hs.when (·.put.put.put.put.put.put) |>.flag.stopStrand
theorem State.wf.geomError {c i a flow} (hs : s.wf) : (s.geomError c i a flow).wf :=
  hs.when .put |>.either (·.flag.stopStrand) (·.flag.stopStrand)
theorem State.wf.faultTime {c} (hs : s.wf) : (s.faultTime c).wf := hs.modChamber.put
theorem State.wf.uncorrStop {c i a} (hs : s.wf) : (s.uncorrStop c i a).wf :=
  hs.memUncorr.when (·.flag.faultTime) |>.stopStrand

theorem State.wf.rdFail {c i a} (hs : s.wf) : (s.rdFail c i a).wf := by
  fun_cases s.rdFail c i a
  · exact hs.flag.stopStrand
  · exact hs.pageError
  · exact hs.geomError
  · exact hs.geomError
  · exact hs.uncorrStop

theorem State.wf.noteIssue {c i issued} (hs : s.wf) : (s.noteIssue c i issued).wf :=
  hs.modChamber.modStrand.when .setReg |>.when .bump

theorem State.wf.nestStop {c i} (hs : s.wf) : (s.nestStop c i).wf := by
  fun_cases s.nestStop c i
  · exact hs.rdFail
  iterate 3 exact hs

theorem State.wf.passWord {c i issued} (hs : s.wf) : (s.passWord c i issued).wf := by
  refine .nestStop (.noteIssue ?_)
  split
  · exact hs.setReg
  · exact hs.modStrand.nestRegs.when .nestAdvance

theorem State.wf.idxRange {c i} (hs : s.wf) : (s.idxRange c i).wf := hs.flag.stopStrand
theorem State.wf.facetRefuse {c i f} (hs : s.wf) : (s.facetRefuse c i f).wf := hs.flag.ownHold.stopStrand
theorem State.wf.syncWrites {c} (hs : s.wf) : (s.syncWrites c).wf := hs.put
theorem State.wf.syncFeed {c} (hs : s.wf) : (s.syncFeed c).wf := hs.put.put
theorem State.wf.switchTables {c inFlight} (hs : s.wf) : (s.switchTables c inFlight).wf :=
  hs.unless (·.put.put.put.put.log.put.raise)

/-! ### Stores of a Chamber -/

theorem State.wf.tally {c i t} (hs : s.wf) : (s.tally c i t).wf := hs.numFlags.bump.bump.bump

/-! ### Load, COPY, VLOAD, VSTORE -/

theorem State.wf.deliver {c i target t} (hs : s.wf) : (s.deliver c i target t).wf := hs.modStrand.syncFeed
theorem State.wf.feedUncorr {c i xs} (hs : s.wf) : (s.feedUncorr c i xs).wf := hs.foldl (·.memUncorr.when .strandEvent)
theorem State.wf.formCheck {c v sp} (hs : s.wf) : (s.formCheck c v sp).wf := hs.unless (·.bump.when .modChamber)
theorem State.wf.unform {c sp} (hs : s.wf) : (s.unform c sp).wf := hs.modChamber

theorem State.wf.decodeBlocks {c v xs} (hs : s.wf) : (s.decodeBlocks c v xs).wf := by
  fun_cases s.decodeBlocks c v xs
  · exact hs.bump.modChamber

theorem State.wf.countRead {c v xs} (hs : s.wf) : (s.countRead c v xs).wf := hs.readLines.bump.bump.decodeBlocks

theorem State.wf.loadFeed {c i desc target v o sp} (hs : s.wf) : (s.loadFeed c i desc target v o sp).wf := by
  fun_cases s.loadFeed c i desc target v o sp
  · exact hs.readFetched.ofFst.rdFail
  · exact hs.readFetched.ofFst.feedUncorr.numFlags.countRead.when .bump |>.when .formCheck |>.walkView.deliver.passWord

theorem State.wf.loadOperand {c i desc target blkK blkMN} (hs : s.wf) : (s.loadOperand c i desc target blkK blkMN).wf := by
  fun_cases s.loadOperand c i desc target blkK blkMN
  · exact hs.deliver.passWord
  · exact hs.rdFail
  · exact hs.rdFail
  · exact hs
  · exact hs.loadFeed

theorem State.wf.loadRefill {c i desc bank blkK blkMN} (hs : s.wf) : (s.loadRefill c i desc bank blkK blkMN).wf := by
  fun_cases s.loadRefill c i desc bank blkK blkMN
  · exact hs.facetRefuse
  · exact hs
  · exact hs.rdFail
  · exact hs.modStrand.passWord

theorem execLoad_wf {c i desc target bank blkK blkMN} (hs : s.wf) : nextWf (execLoad c i desc target bank blkK blkMN s) := by
  fun_cases Machine.execLoad c i desc target bank blkK blkMN s
  · exact hs
  · exact hs.settle.rdFail
  · exact hs.settle.loadOperand
  · exact hs.settle.loadRefill
  · exact hs

theorem execBankRefill_wf {c bank} (hs : s.wf) : nextWf (execBankRefill c bank s) := by
  fun_cases Machine.execBankRefill c bank s
  iterate 3 exact hs
  · exact hs.rdFail
  · exact hs.readFetched.ofFst.rdFail
  · exact hs.readFetched.ofFst.rdFail
  · exact hs.readFetched.ofFst.modBank.put.modStrand.countRead

theorem State.wf.copyFetched {vs vd xs} (hs : s.wf) : (copyFetched s vs vd xs).1.wf := by
  fun_cases Machine.copyFetched s vs vd xs
  · exact hs
  · exact hs
  · exact hs.refetchAt

theorem State.wf.append {c v xs} (hs : s.wf) : (s.append c v xs).wf := hs.bump.walkView

theorem execCopy_wf {c i srcDesc dstDesc blkRow blkCol} (hs : s.wf) :
    nextWf (execCopy c i srcDesc dstDesc blkRow blkCol s) := by
  fun_cases Machine.execCopy c i srcDesc dstDesc blkRow blkCol s
  · exact hs
  iterate 3 exact hs.settle.rdFail
  · exact hs
  · exact hs.settle.copyFetched.ofFst.rdFail
  · exact hs.settle.copyFetched.ofFst.rdFail
  · exact hs.settle.copyFetched.ofFst.readLines.storeAll.bump.bump.unform.walkView.append.passWord

theorem execVload_wf {c i desc dst row4 blkN} (hs : s.wf) : nextWf (execVload c i desc dst row4 blkN s) := by
  fun_cases Machine.execVload c i desc dst row4 blkN s
  · exact hs
  · exact hs.settle.rdFail
  · exact hs.settle.rdFail
  · exact hs
  · exact hs.settle.readFetched.ofFst.rdFail
  · exact hs.settle.readFetched.ofFst.rdFail
  · exact hs.settle.readFetched.ofFst.modChamber.numFlags.countRead.walkView.modStrand.passWord

theorem State.wf.freeBlocks {bs} (hs : s.wf) : (s.freeBlocks bs).2.wf := by
  refine State.wf.foldlSnd hs fun hs => ?_
  split
  · exact hs
  · exact hs.takeFree

theorem State.wf.vstoreWrites {v ps r} (hs : s.wf) (e : s.vstoreWrites v ps = .ok r) : r.2.2.2.wf := by
  unfold State.vstoreWrites at e
  split at e
  · next g _ =>
    cases hb : v.blocksOf s g ps with
    | error => simp [hb, bind, Except.bind] at e
    | ok bs =>
      simp only [hb, bind, Except.bind, Except.ok.injEq] at e
      exact e ▸ hs.freeBlocks
  · cases hb : v.writesOf s ps with
    | error => simp [hb, bind, Except.bind] at e
    | ok ws =>
      simp only [hb, bind, Except.bind, Except.ok.injEq] at e
      exact e ▸ hs

theorem execVstore_wf {c i desc src row4 blkN} (hs : s.wf) : nextWf (execVstore c i desc src row4 blkN s) := by
  unfold execVstore
  extract_lets s0 ctx bs d
  have h0 : s0.wf := hs.settle
  split
  · exact hs
  split
  · exact h0.rdFail
  split
  · exact h0.rdFail
  extract_lets lanes
  split
  split
  · exact h0.idxRange
  split
  · exact h0.rdFail
  · next e => exact (h0.vstoreWrites e).storeAll.tally.bump.bump.bump.unform.append.passWord

/-! ### VOP and SFOP -/

theorem State.wf.vop {c i op dst src1 src2 imm immValue} (hs : s.wf) : (s.vop c i op dst src1 src2 imm immValue).wf :=
  hs.modChamber.numFlags.bump
theorem State.wf.sfCount {c} (hs : s.wf) : (s.sfCount c).wf := hs.bump.bump
theorem State.wf.sfRun {c i func dst src scale} (hs : s.wf) : (s.sfRun c i func dst src scale).wf :=
  hs.modChamber.numFlags.when .flag |>.sfCount
theorem State.wf.smxRun {c i prob dst src scale l} (hs : s.wf) : (s.smxRun c i prob dst src scale l).wf :=
  hs.modStrand.modChamber.numFlags.when (·.flag.bump) |>.sfCount

theorem State.wf.gaussRun {c i dst src scale l} (hs : s.wf) : (s.gaussRun c i dst src scale l).wf := by
  fun_cases s.gaussRun c i dst src scale l
  · exact hs.idxRange
  · exact hs.modChamber.numFlags.when .flag |>.bump.bump.sfCount

theorem execVop_wf {c i op dst src1 src2 imm immValue} (hs : s.wf) :
    nextWf (execVop c i op dst src1 src2 imm immValue s) := by
  fun_cases Machine.execVop c i op dst src1 src2 imm immValue s
  · exact hs
  · exact hs.settle.vop.passWord

theorem State.wf.useTable {c i} {k : State} (hs : s.wf) (hk : k.wf) : (s.useTable c i k).wf := by
  fun_cases s.useTable c i k
  · exact hs.flag.faultTime.stopStrand
  · exact hk

theorem execSfop_wf {c i func dst src inScale} (hs : s.wf) : nextWf (execSfop c i func dst src inScale s) := by
  fun_cases Machine.execSfop c i func dst src inScale s
  · exact hs
  · exact hs.settle.useTable (hs.settle.sfRun.passWord)

theorem execSmxSum_wf {c i dst src inScale} (hs : s.wf) : nextWf (execSmxSum c i dst src inScale s) := by
  fun_cases Machine.execSmxSum c i dst src inScale s
  · exact hs
  · exact hs.settle.useTable (hs.settle.smxRun.passWord)

theorem execSmxProb_wf {c i dst src inScale} (hs : s.wf) : nextWf (execSmxProb c i dst src inScale s) := by
  fun_cases Machine.execSmxProb c i dst src inScale s
  · exact hs
  · exact hs.settle.useTable (hs.settle.smxRun.passWord)

theorem execGauss_wf {c i dst src inScale} (hs : s.wf) : nextWf (execGauss c i dst src inScale s) := by
  fun_cases Machine.execGauss c i dst src inScale s
  · exact hs
  · exact hs.settle.useTable (hs.settle.gaussRun)
  · exact hs.settle.gaussRun
  · exact hs.settle.gaussRun.when .beside |>.passWord

theorem execRsClear_wf {c i} (hs : s.wf) : nextWf (execRsClear c i s) := by
  fun_cases Machine.execRsClear c i s
  · exact hs
  · exact hs.settle.modStrand.sfCount.passWord

theorem execRsFinish_wf {c i} (hs : s.wf) : nextWf (execRsFinish c i s) := by
  fun_cases Machine.execRsFinish c i s
  · exact hs
  · exact hs.settle.useTable (hs.settle.modStrand.numFlags.when .flag |>.sfCount.passWord)

theorem execRsOut_wf {c i index} (hs : s.wf) : nextWf (execRsOut c i index s) := by
  fun_cases Machine.execRsOut c i index s
  · exact hs
  · exact hs.settle.rdFail
  · exact hs.settle.store.sfCount.passWord

theorem State.wf.rowsRanged {c i rows} (hs : s.wf) : (s.rowsRanged c i rows).wf := hs.when (·.flag.bump.modStrand)

theorem execRsIn_wf {c i index} (hs : s.wf) : nextWf (execRsIn c i index s) := by
  fun_cases Machine.execRsIn c i index s
  · exact hs
  · exact hs.settle.rdFail
  · exact hs.settle.modStrand.rowsRanged.sfCount.passWord

theorem execRsAcc_wf {c i index} (hs : s.wf) : nextWf (execRsAcc c i index s) := by
  fun_cases Machine.execRsAcc c i index s
  · exact hs
  · exact hs.settle.rdFail
  · exact hs.settle.modStrand.numFlags.rowsRanged.sfCount.passWord

/-! ### The Facet -/

theorem State.wf.keepBound {c i o} (hs : s.wf) : (s.keepBound c i o).wf := hs.modStrand

theorem State.wf.bindIssue {c i o v} (hs : s.wf) : (s.bindIssue c i o v).wf := by
  fun_cases s.bindIssue c i o v
  · exact hs.rdFail
  · exact hs.rdFail
  · exact hs.keepBound.passWord
  · exact hs.foldl .dripRead |>.setReg.flag.stopStrand
  · exact hs.foldl .dripRead |>.setReg.modStrand.keepBound.passWord
  · exact hs.foldl .dripRead |>.setReg.flag.stopStrand

theorem execBind_wf {c i outTag desc blkM blkN} (hs : s.wf) : nextWf (execBind c i outTag desc blkM blkN s) := by
  fun_cases Machine.execBind c i outTag desc blkM blkN s
  · exact hs
  · exact hs.settle.rdFail
  · exact hs.settle.keepBound.passWord
  · exact hs.settle.rdFail
  · exact hs.settle.bindIssue

theorem State.wf.freezeCount {c f} (hs : s.wf) : (s.freezeCount c f).wf := hs.bump.bump.bump.bump
theorem State.wf.faultFreeze {c i f kind datum} (hs : s.wf) : (s.faultFreeze c i f kind datum).wf :=
  hs.flag.ownHold.flag.strandEvent
theorem State.wf.popFeeds {c i} (hs : s.wf) : (s.popFeeds c i).wf := hs.modStrand.syncFeed
theorem State.wf.popWords {c i n} (hs : s.wf) : (s.popWords c i n).wf := hs.modStrand.syncFeed
theorem State.wf.putRun {c i r} (hs : s.wf) : (s.putRun c i r).wf := hs.modStrand
theorem State.wf.dropRun {c i bank} (hs : s.wf) : (s.dropRun c i bank).wf := hs.modStrand
theorem State.wf.closeRun {c i bank tag} (hs : s.wf) : (s.closeRun c i bank tag).wf :=
  hs.modBank.put.dropRun.syncWrites.when .switchPoint

theorem State.wf.skipSweep {c i w fate closed r} (hs : s.wf) : (s.skipSweep c i w fate closed r).wf :=
  hs.popFeeds.when .bump |>.when .bump |>.when .bump |>.either .passWord (·.either (·.putRun.passWord) (·.either
    (·.dropRun.passWord.when .switchPoint) (·.either .facetRefuse (·.passWord.closeRun))))

theorem State.wf.stopFacet {c i behind p w} (hs : s.wf) : (s.stopFacet c i behind p w).wf := by
  fun_cases s.stopFacet c i behind p w
  · exact hs.popWords.modChamber.put.put
  · exact hs.popWords
  · exact hs.popWords
  · exact hs.popWords.modBank.put.syncWrites.put.modChamber.put.put
  · exact hs.popWords.modBank.put.syncWrites.put.modChamber.put.put
  · exact hs.popWords

theorem State.wf.runSweep {c i w t zero init last r a b} (hs : s.wf) : (s.runSweep c i w t zero init last r a b).wf :=
  hs.unless (·.modBank.put.numFlags) |>.freezeCount.either (·.popFeeds.modChamber.put.put) .stopFacet
    |>.putRun.passWord.either (·.when .flag |>.when .faultTime |>.faultFreeze) (·.bump.when .bump |>.when .closeRun)

theorem execSweep_wf {c i w t} (hs : s.wf) : nextWf (execSweep c i w t s) := by
  fun_cases Machine.execSweep c i w t s
  · exact hs
  · exact hs.settle.skipSweep
  · exact hs.settle.facetRefuse
  · exact hs.settle.runSweep
  · exact hs
  · exact hs.settle.facetRefuse
  · exact hs

theorem State.wf.routineWord {c i w l} (hs : s.wf) : (s.routineWord c i w l).wf :=
  hs.either .vop (·.either .smxRun (·.either .smxRun (·.either .gaussRun .sfRun)))

theorem State.wf.unload {c i o v b sc factor n routine acc u} (hs : s.wf) :
    (s.unload c i o v b sc factor n routine acc u).1.wf := by
  fun_cases s.unload c i o v b sc factor n routine acc u
  · exact hs
  · exact hs.modChamber.foldl .routineWord

theorem State.wf.unloadAll {c i o v b sc factor n routine} (hs : s.wf) : (s.unloadAll c i o v b sc factor n routine).1.wf :=
  State.wf.foldlFst hs .unload
theorem State.wf.freeBank {c bank} (hs : s.wf) : (s.freeBank c bank).wf := hs.modBank.put

theorem State.wf.storeTile {c i bank b o v} (hs : s.wf) : (s.storeTile c i bank b o v).1.wf := by
  fun_cases s.storeTile c i bank b o v
  · exact hs
  · exact hs.unloadAll.ofFst.tally.numFlags.idxRange
  · exact hs.unloadAll.ofFst.tally.numFlags
  · exact hs.unloadAll.ofFst.tally.numFlags.walkView

theorem execBankDrain_wf {c bank} (hs : s.wf) : nextWf (execBankDrain c bank s) := by
  fun_cases Machine.execBankDrain c bank s
  iterate 3 exact hs
  · exact hs.faultTime.faultFreeze
  · exact hs.storeTile.ofFst.bump.modChamber.freeBank.syncWrites.switchTables

theorem State.wf.checkFailed {c t row} (hs : s.wf) : (s.checkFailed c t row).wf :=
  hs.put.unless (·.put.put.put.put.put.put.put.put) |>.faultTime.faultFreeze

theorem State.wf.tilePassed {c t} (hs : s.wf) : (s.tilePassed c t).wf := by
  fun_cases s.tilePassed c t
  · exact hs.rdFail
  · exact hs.storeAll.unform.bump.bump.bump.bump.bump.modStrand

theorem execCheckVerdict_wf {c} (hs : s.wf) : nextWf (execCheckVerdict c s) := by
  unfold execCheckVerdict
  split
  · exact hs
  · refine State.wf.foldl (.syncStops (.syncWrites ?_)) .nestStop
    split
    · exact hs.modChamber.put.checkFailed
    · exact hs.modChamber.put.unless .tilePassed

/-! ### Admission -/

theorem State.wf.go {c i} (hs : s.wf) : (s.go c i).wf :=
  hs.unless (·.either .flag (·.modStrand.beside.setReg.setReg.setReg.setReg.setReg.setReg.setReg))
theorem execGo_wf {c i} (hs : s.wf) : nextWf (execGo c i s) := hs.go
theorem State.wf.refuse {c i code word} (hs : s.wf) : (s.refuse c i code word).wf := hs.setReg.setReg.setReg.flag.log.raise

theorem State.wf.admitScan {c i} (hs : s.wf) : (s.admitScan c i).wf := by
  fun_cases s.admitScan c i
  · exact hs
  · exact hs.setReg.rdFail
  · exact hs.refuse
  · exact hs.modStrand.setReg.put.settle

theorem execAdmissionScan_wf {c i} (hs : s.wf) : nextWf (execAdmissionScan c i s) := hs.admitScan

/-! ### NEST -/

theorem State.wf.nestReady {c i desc} (hs : s.wf) : (s.nestReady c i desc).2.wf :=
  hs.setReg.setReg.when (·.foldl .dripRead |>.bump) |>.modStrand.setReg

theorem execNest_wf {c i desc} (hs : s.wf) : nextWf (execNest c i desc s) := by
  fun_cases Machine.execNest c i desc s
  · exact hs
  · exact hs.settle.rdFail
  · exact hs.settle.nestReady.ofSnd.nestAdvance.noteIssue.nestStop

/-! ### Strand control -/

theorem execProgramNop_wf {c i} (hs : s.wf) : nextWf (execProgramNop c i s) := by
  fun_cases Machine.execProgramNop c i s
  · exact hs
  · exact hs.settle.passWord

theorem execWait_wf {c i ctr target} (hs : s.wf) : nextWf (execWait c i ctr target s) := by
  fun_cases Machine.execWait c i ctr target s
  · exact hs.settle
  · exact hs
  · exact hs.settle.rdFail
  · exact hs.settle.passWord
  · exact hs.settle.park.switchPoint

theorem execSignal_wf {c i ctr increment} (hs : s.wf) : nextWf (execSignal c i ctr increment s) := by
  fun_cases Machine.execSignal c i ctr increment s
  · exact hs
  · exact hs.settle.rdFail
  · exact hs.settle.either .counterAdd .setReg |>.bump.passWord

theorem State.wf.wake {c i} (hs : s.wf) : (s.wake c i).wf := hs.setReg.modStrand.settle
theorem execCounterWatchWake_wf {g ctrAddr} (hs : s.wf) : nextWf (execCounterWatchWake g ctrAddr s) :=
  hs.modGallery.foldl (·.when .wake)

theorem execWaitPoll_wf {c i} (hs : s.wf) : nextWf (execWaitPoll c i s) := by
  fun_cases Machine.execWaitPoll c i s
  · exact hs
  · exact hs.bump.wake
  · exact hs.bump

theorem execWaitTimeout_wf {c i} (hs : s.wf) : nextWf (execWaitTimeout c i s) := by
  fun_cases Machine.execWaitTimeout c i s
  · exact hs
  · exact hs.flag.modStrand.strandEvent

theorem execLdlen_wf {c i len addr} (hs : s.wf) : nextWf (execLdlen c i len addr s) := by
  fun_cases Machine.execLdlen c i len addr s
  · exact hs
  · exact hs.settle.rdFail
  · exact hs.settle.setReg.passWord

theorem execFence_wf {c i} (hs : s.wf) : nextWf (execFence c i s) := by
  fun_cases Machine.execFence c i s
  · exact hs
  · exact hs.settle.passWord

theorem execEndWord_wf {c i} (hs : s.wf) : nextWf (execEndWord c i s) := by
  fun_cases Machine.execEndWord c i s
  · exact hs
  · exact hs.settle.passWord.modStrand.switchPoint

theorem State.wf.countFlags {c i} (hs : s.wf) : (s.countFlags c i).wf := hs.unless .bumpSat

theorem execStrandDone_wf {c i} (hs : s.wf) : nextWf (execStrandDone c i s) := by
  unfold execStrandDone
  extract_lets t st s1 s2 s3
  split
  · exact hs
  · refine State.wf.settle (s := s3) ?_
    unfold s3
    split
    · exact hs.countFlags.setReg.modStrand
    · exact hs.countFlags.setReg.modStrand.complete

theorem State.wf.releaseBanks {c i} (hs : s.wf) : (s.releaseBanks c i).wf := hs.foldl (·.when .freeBank)

theorem State.wf.abort {c i} (hs : s.wf) : (s.abort c i).wf :=
  hs.unless (·.unless .countFlags
    |>.releaseBanks.modChamber.modGallery.modStrand.setReg.setReg.setReg.syncWrites.syncFeed.when .switchPoint)

theorem execAbort_wf {c i} (hs : s.wf) : nextWf (execAbort c i s) := hs.abort

theorem State.wf.saveStop {c i} (hs : s.wf) : (s.saveStop c i).wf := by
  fun_cases s.saveStop c i
  · exact hs
  · exact hs
  · exact hs.beside.abort.complete

theorem execBoundary_wf {c i number} (hs : s.wf) : nextWf (execBoundary c i number s) := by
  fun_cases Machine.execBoundary c i number s
  · exact hs
  · exact hs.settle.rdFail
  · exact hs.settle.rdFail
  · exact hs.settle.when .store |>.store.setReg.modChamber.modStrand.setReg.passWord.saveStop

theorem execPocketPatrolScrub_wf {c f} (hs : s.wf) : nextWf (execPocketPatrolScrub c f s) := by
  fun_cases Machine.execPocketPatrolScrub c f s
  · exact hs
  · exact hs.bumpSat
  · exact hs.bumpSat.foldl .markPoison |>.flag.bumpSat.faultTime.raise

theorem execTableLoad_wf {c} (hs : s.wf) : nextWf (execTableLoad c s) := by
  fun_cases Machine.execTableLoad c s
  · exact hs.flag
  · exact hs.put

theorem execTableLoadComplete_wf {c} (hs : s.wf) : nextWf (execTableLoadComplete c s) := by
  fun_cases Machine.execTableLoadComplete c s
  · exact hs
  · exact hs.flag.put
  · exact hs.modChamber.put

theorem State.wf.epochSwitch {c inFlight} (hs : s.wf) : (s.epochSwitch c inFlight).wf := hs.unless .switchTables
theorem State.wf.loadPublished {c kind} (hs : s.wf) : (s.loadPublished c kind).wf := hs.unless (·.modChamber.put.epochSwitch)
theorem execSfEpochSwitch_wf {c inFlight} (hs : s.wf) : nextWf (execSfEpochSwitch c inFlight s) := hs.epochSwitch

theorem execOldBankRelease_wf {c} (hs : s.wf) : nextWf (execOldBankRelease c s) := by
  fun_cases Machine.execOldBankRelease c s
  · exact hs.put
  · exact hs

/-! ### The control tree -/

theorem State.wf.holdLink {who e on} (hs : s.wf) : (s.holdLink who e on).wf := by
  fun_cases s.holdLink who e on
  · exact hs.beside
  · exact hs.beside
  · exact hs

theorem State.wf.syncIdles {e} (hs : s.wf) : (s.syncIdles e).wf := hs.foldl .syncIdle

theorem State.wf.holdLog {a} (hs : s.wf) : (s.holdLog a).wf := by
  fun_cases s.holdLog a
  · exact hs.log
  · exact hs

theorem State.wf.stop {who e reached} (hs : s.wf) : (s.stop who e reached).wf := by
  fun_cases s.stop who e reached
  · exact hs.holdLink
  · exact hs.flag.holdLog.either .reachStop .syncStop |>.syncIdles

theorem State.wf.start {who e} (hs : s.wf) : (s.start who e).wf := by
  fun_cases s.start who e
  · exact hs.holdLink
  · exact hs.put.leaveStop.syncIdles
  · exact hs

theorem State.wf.restart {who e} (hs : s.wf) : (s.restart who e).wf := by
  unfold State.restart
  split
  · exact hs
  · refine hs.unless fun hs => .syncIdles (.leaveStop ?_)
    split
    · exact hs.put.put.put
    · exact hs.put

theorem execStop_wf {who e reached} (hs : s.wf) : nextWf (execStop who e reached s) := hs.stop
theorem execStart_wf {who e} (hs : s.wf) : nextWf (execStart who e s) := hs.start
theorem execRestart_wf {who e} (hs : s.wf) : nextWf (execRestart who e s) := hs.restart
theorem State.wf.retireChamber {c} (hs : s.wf) : (s.retireChamber c).wf := hs.unless (·.flag.bump.raise.when .flag)
theorem execRetire_wf {c} (hs : s.wf) : nextWf (execRetire c s) := hs.retireChamber
theorem execSlotCommit_wf {g} (hs : s.wf) : nextWf (execSlotCommit g s) := hs.flag
theorem State.wf.applySlots {g} (hs : s.wf) : (s.applySlots g).wf := hs.either (·.foldl .setReg) .flag
theorem State.wf.slotReplies (hs : s.wf) : s.slotReplies.wf := hs.foldl (·.unless (·.either .fail .ok))

theorem execSlotFrameBoundary_wf {g} (hs : s.wf) : nextWf (execSlotFrameBoundary g s) := by
  fun_cases Machine.execSlotFrameBoundary g s
  · exact hs.bump
  · exact hs.bump.applySlots.put.slotReplies

theorem State.wf.wipe {lo hi} (hs : s.wf) : (s.wipe lo hi).wf :=
  ⟨twf_filter _ hs.mem, hs.hostMem, twf_filter _ hs.poison, hs.regs⟩
theorem State.wf.dropSharer {g} (hs : s.wf) : (s.dropSharer g).wf := hs.beside
theorem State.wf.setSteps {g steps} (hs : s.wf) : (s.setSteps g steps).wf := hs.wipe.setCache.dropSharer.put

theorem execCacheStepsWrite_wf {g steps} (hs : s.wf) : nextWf (execCacheStepsWrite g steps s) := by
  fun_cases Machine.execCacheStepsWrite g steps s
  · exact hs.setSteps
  · exact hs.flag

/-! ### Packets -/

theorem State.wf.cross {p k} (hs : s.wf) : (s.cross p k).wf := hs.modPort.bump.send

theorem State.wf.drainPort {p} (hs : s.wf) : (s.drainPort p).wf := by
  unfold State.drainPort
  extract_lets r
  have hr : r.1.wf := State.wf.foldlFst hs fun hs => by
    split
    · exact hs.cross
    · exact hs
  exact hr.modPort

theorem State.wf.forward {k from?} (hs : s.wf) (e : s.forward k from? = some t) : t.wf := by
  unfold State.forward at e
  obtain ⟨r, -, rfl⟩ := Option.map_eq_some_iff.1 e
  exact hs.modPort.drainPort

theorem State.wf.inject {k} (hs : s.wf) : (s.inject k).wf := by
  unfold State.inject
  cases e : s.forward k none with
  | none => exact hs
  | some t => exact hs.forward e

theorem State.wf.sendMgmt {dest tag mkind job payload} (hs : s.wf) : (s.sendMgmt dest tag mkind job payload).wf := hs.inject
theorem State.wf.sendNack {k reason} (hs : s.wf) : (s.sendNack k reason).wf := hs.bump.inject
theorem State.wf.sendDone {dest tag xferId} (hs : s.wf) : (s.sendDone dest tag xferId).wf := hs.inject

/-! ### What every host command goes through -/

theorem State.wf.bad {h off} (hs : s.wf) : (s.bad h off).wf := hs.fail

theorem State.wf.run {h checks} {k : State} (hs : s.wf) (hk : k.wf) : nextWf (s.run h checks k) := by
  fun_cases s.run h checks k
  · exact hs
  · exact hs.fail
  · exact hk

theorem State.wf.hold {h op held} (hs : s.wf) : (s.hold h op held).wf := hs.either .beside .beside
theorem State.wf.finish {h d} (hs : s.wf) : (s.finish h d).wf := hs.when .complete
theorem State.wf.dropWork {h} (hs : s.wf) : (s.dropWork h).wf := hs.foldl .abort |>.beside
theorem State.wf.modTensor {job id f} (hs : s.wf) : (s.modTensor job id f).wf := hs.beside

theorem State.wf.freeBytes {a n} (hs : s.wf) : (s.freeBytes a n).wf := by
  induction n with
  | zero => exact hs
  | succ n ih => exact ih.takeFree.showLost.write

theorem State.wf.undefineTensor {t} (hs : s.wf) : (s.undefineTensor t).wf := by
  unfold State.undefineTensor
  split
  · exact hs
  · refine hs.foldl (·.foldl fun hs => ?_)
    split
    · exact hs.freeBytes
    · exact hs

theorem State.wf.undefineOutputs {h} (hs : s.wf) : (s.undefineOutputs h).wf := by
  unfold State.undefineOutputs
  split
  · exact hs
  · refine hs.unless (·.foldl fun hs => ?_)
    split
    · exact hs.undefineTensor
    · exact hs

theorem State.wf.stopCommand {h status detail} (hs : s.wf) : (s.stopCommand h status detail).wf := hs.dropWork.complete
theorem State.wf.cancelCommand {h status detail} (hs : s.wf) : (s.cancelCommand h status detail).wf :=
  hs.undefineOutputs.stopCommand
theorem State.wf.markRecovered {h} (hs : s.wf) : (s.markRecovered h).wf := hs.beside

theorem State.wf.rdStop {h op e} (hs : s.wf) : (s.rdStop h op e).wf := by
  fun_cases s.rdStop h op e
  · exact hs.memUncorr.raise.hold
  · exact hs.unmapped.fail
  · exact hs.fail

/-! ### Collectives -/

theorem State.wf.collStore {x es} (hs : s.wf) : (s.collStore x es).wf := by
  fun_cases s.collStore x es
  · exact hs.storeAll
  · exact hs

theorem State.wf.putColl {c} (hs : s.wf) : (s.putColl c).wf := hs.beside
theorem State.wf.collProgress {job seq} (hs : s.wf) : (s.collProgress job seq).wf := hs.beside
theorem State.wf.collProto (hs : s.wf) : s.collProto.wf := hs.flag
theorem State.wf.sendColl {j rank ckind step chunk seq pktIndex offset count fmt payload} (hs : s.wf) :
    (s.sendColl j rank ckind step chunk seq pktIndex offset count fmt payload).wf := hs.unless .inject
theorem State.wf.collStop {job seq rec'} (hs : s.wf) : (s.collStop job seq rec').wf := hs.putColl
theorem State.wf.collDetect {j seq reason step late} (hs : s.wf) : (s.collDetect j seq reason step late).wf :=
  hs.unless (·.collStop.foldl .sendColl)
theorem State.wf.collCancel {j seq} (hs : s.wf) : (s.collCancel j seq).wf := hs.collDetect

theorem State.wf.collUndefined {c r} (hs : s.wf) : (s.collUndefined c r).wf := by
  refine hs.unless fun hs => State.wf.unless ?_ .bump
  split
  · exact hs.undefineTensor
  · exact hs

theorem State.wf.collAborted {c r} (hs : s.wf) : (s.collAborted c r).wf := by
  fun_cases s.collAborted c r
  · exact hs.collUndefined.store.log.bump.flag.hostEvent.modJob.putColl.fail
  · exact hs.collUndefined.store.log.bump.flag.hostEvent.modJob.putColl
  · exact hs.collUndefined.store.log.bump.flag.hostEvent.modJob.putColl

theorem State.wf.sendPiece {x c p o} (hs : s.wf) : (s.sendPiece x c p o).wf := hs.foldl .sendColl |>.when .sendColl

theorem State.wf.collFlush {x job seq} (hs : s.wf) : (s.collFlush x job seq).wf := by
  refine hs.foldl fun hs => ?_
  dsimp only
  split
  · exact hs.unless (·.putColl.collProgress.sendPiece)
  · exact hs

theorem State.wf.collConvert {x job seq} (hs : s.wf) : (s.collConvert x job seq).wf := hs.putColl.unless .collStore
theorem State.wf.readTensor {t} (hs : s.wf) : (s.readTensor t).wf := hs.unless (·.foldl .readRange)
theorem State.wf.collBegin {x job seq k p} (hs : s.wf) : (s.collBegin x job seq k p).wf :=
  hs.when .readTensor |>.when .collConvert |>.putColl.unless .sendColl

theorem State.wf.collOk {x c} (hs : s.wf) : (s.collOk x c).wf := by
  fun_cases s.collOk x c
  · exact hs.unless .collConvert |>.modTensor.modJob.beside.bump.finish
  · exact hs.unless .collConvert |>.modTensor.modJob.beside.bump

theorem State.wf.collAdvance {job seq fuel} (hs : s.wf) : (s.collAdvance job seq fuel).wf := by
  induction fuel generalizing s with
  | zero => exact hs
  | succ fuel ih =>
    unfold State.collAdvance
    extract_lets c
    split
    · exact hs
    · refine hs.unless fun hs => ?_
      extract_lets before
      split
      · exact hs.either (fun hs => ih hs.collBegin.collFlush) .collFlush
      · exact hs.collFlush.when .collOk

theorem State.wf.collReceive {job n} (hs : s.wf) : (s.collReceive job n).wf := by
  induction n generalizing s with
  | zero => exact hs
  | succ fuel ih =>
    unfold State.collReceive
    split
    · exact hs
    split
    · exact hs.when fun hs => ih hs.modJob
    · exact hs

theorem State.wf.collective {h opcode p} (hs : s.wf) : nextWf (s.collective h opcode p) := by
  fun_cases s.collective h opcode p
  · exact hs
  iterate 3 exact hs.fail
  · exact hs.rdStop
  · exact hs.hold.putColl.collReceive.putColl.fail
  · exact hs.hold.putColl.collReceive
  · exact hs.hold.putColl.collReceive.refetchTensors.restoreMarks.markRecovered.when .collDetect
  · exact hs.hold.putColl.collReceive

theorem execAllReduce_wf {h p} (hs : s.wf) : nextWf (execAllReduce h p s) := hs.collective
theorem execReduceScatter_wf {h p} (hs : s.wf) : nextWf (execReduceScatter h p s) := hs.collective
theorem execAllGather_wf {h p} (hs : s.wf) : nextWf (execAllGather h p s) := hs.collective
theorem execBroadcast_wf {h p} (hs : s.wf) : nextWf (execBroadcast h p s) := hs.collective

theorem execClaimGrant_wf {job} (hs : s.wf) : nextWf (execClaimGrant job s) := by
  fun_cases Machine.execClaimGrant job s
  iterate 4 exact hs
  · exact hs.modJob.bump.putColl.log.collProgress.foldl .sendColl |>.collAdvance

theorem State.wf.collTakes {k} {f : Job → Coll → State} (hs : s.wf) (hf : ∀ {j c}, (f j c).wf) :
    nextWf (s.collTakes k f) := by
  fun_cases s.collTakes k f
  · exact hs.collProto
  · exact hs
  · exact hs
  · exact hf

theorem execClaim_wf {k} (hs : s.wf) : nextWf (execClaim k s) :=
  hs.collTakes (hs.either .collDetect (·.putColl.collProgress.collAdvance))

theorem execPiece_wf {k} (hs : s.wf) : nextWf (execPiece k s) := by
  refine hs.collTakes fun {j c} => ?_
  split
  · exact hs
  split
  · exact hs
  · exact hs.either .bump (·.putColl.when .collStore |>.collProgress.either .collAdvance
      (·.putColl.bump.log.when .sendColl |>.when .sendColl |>.collAdvance))

theorem execCredit_wf {k} (hs : s.wf) : nextWf (execCredit k s) := hs.collTakes (hs.putColl.collProgress.collAdvance)
theorem execDone_wf {k} (hs : s.wf) : nextWf (execDone k s) := hs.collTakes (hs.putColl.collProgress.collAdvance)

theorem execAbortPacket_wf {k} (hs : s.wf) : nextWf (execAbortPacket k s) := by
  fun_cases Machine.execAbortPacket k s
  · exact hs.collProto
  · exact hs
  · exact hs
  · exact hs.collStop

theorem execCollProgressTimeout_wf {job collSeq} (hs : s.wf) : nextWf (execCollProgressTimeout job collSeq s) := by
  fun_cases Machine.execCollProgressTimeout job collSeq s
  iterate 3 exact hs
  · exact hs.putColl.collDetect

theorem State.wf.probeLate {c r} (hs : s.wf) : (s.probeLate c r).wf := by
  fun_cases s.probeLate c r
  · exact hs
  · exact hs.beside.sendMgmt
  · exact hs

theorem execAbortCompletion_wf {job collSeq} (hs : s.wf) : nextWf (execAbortCompletion job collSeq s) := by
  fun_cases Machine.execAbortCompletion job collSeq s
  · exact hs
  · exact hs
  · exact hs.collAborted.probeLate
  · exact hs

/-! ### Queues -/

theorem State.wf.fetch {q} (hs : s.wf) : (s.fetch q).wf := by
  fun_cases s.fetch q
  · exact hs.modQueue.unless .beside |>.log.modQueue.reply
  · exact hs.modQueue.unless .beside |>.log.modQueue.modQueue.beside.fail
  · exact hs.modQueue.unless .beside |>.log.modQueue.reply
  · exact hs.modQueue.unless .beside |>.log.modQueue.beside.fail
  · exact hs.modQueue.unless .beside |>.log.modQueue.beside

theorem execCommandFetch_wf (hs : s.wf) : nextWf (execCommandFetch s) := by
  fun_cases Machine.execCommandFetch s
  · exact hs
  · exact hs
  · exact hs.fetch.when .flag

theorem State.wf.startCmd {o} (hs : s.wf) : (s.startCmd o).wf := hs.beside.log

theorem execCommandStart_wf {h} (hs : s.wf) : nextWf (execCommandStart h s) := by
  fun_cases Machine.execCommandStart h s
  · exact hs
  · exact hs
  · exact hs.fail
  · exact hs
  · exact hs.startCmd
  · exact hs
  · exact hs.fail
  · exact hs.beside

theorem execDepFuture_wf {h dep} (hs : s.wf) : nextWf (execDepFuture h dep s) := by
  fun_cases Machine.execDepFuture h dep s
  · exact hs
  · exact hs
  · exact hs.fail
  · exact hs

theorem execCommandTimeout_wf {h} (hs : s.wf) : nextWf (execCommandTimeout h s) := by
  fun_cases Machine.execCommandTimeout h s
  iterate 3 exact hs
  · exact hs.cancelCommand

theorem execCounterDependencyTimeout_wf {h} (hs : s.wf) : nextWf (execCounterDependencyTimeout h s) := by
  fun_cases Machine.execCounterDependencyTimeout h s
  iterate 3 exact hs
  · exact hs.fail

theorem State.wf.cancelOne {h by'} (hs : s.wf) : (s.cancelOne h by').wf := by
  fun_cases s.cancelOne h by'
  · exact hs.collCancel
  · exact hs.cancelCommand
  · exact hs.cancelCommand

theorem State.wf.cancelQueue {q by'} (hs : s.wf) : (s.cancelQueue q by').wf := hs.foldl .cancelOne

theorem State.wf.cancel {h target} (hs : s.wf) : (s.cancel h target).2.wf := by
  fun_cases s.cancel h target
  · exact hs.fail
  · exact hs.cancelOne
  · exact hs
  · exact hs.beside

theorem State.wf.tryAbsent {q} (hs : s.wf) : (s.tryAbsent q).wf := by
  fun_cases s.tryAbsent q
  · exact hs
  · exact hs.modQueue.finish
  · exact hs.modQueue

theorem State.wf.queueInterrupt {q} (hs : s.wf) : (s.queueInterrupt q).wf := hs.modQueue.msix
theorem State.wf.clearErrors {status detail} (hs : s.wf) : (s.clearErrors status detail).wf := hs.unless (·.foldl .put)
theorem State.wf.writeReply {q r} (hs : s.wf) : (s.writeReply q r).wf :=
  hs.hostWrite.modQueue.when .queueInterrupt |>.clearErrors.tryAbsent

theorem execStatusEntryWrite_wf {q} (hs : s.wf) : nextWf (execStatusEntryWrite q s) := by
  fun_cases Machine.execStatusEntryWrite q s
  · exact hs
  · exact hs.tryAbsent
  · exact hs.writeReply

theorem execInterruptCoalescing_wf {q} (hs : s.wf) : nextWf (execInterruptCoalescing q s) := by
  fun_cases Machine.execInterruptCoalescing q s
  · exact hs
  · exact hs.queueInterrupt

theorem State.wf.pciIgnored (hs : s.wf) : s.pciIgnored.wf := hs.flag

theorem execSqTail_wf {q value} (hs : s.wf) : nextWf (execSqTail q value s) := by
  fun_cases Machine.execSqTail q value s
  · exact hs.pciIgnored
  · exact hs.modQueue
  · exact hs.modQueue.when .flag
  · exact hs

theorem execStqHead_wf {q value} (hs : s.wf) : nextWf (execStqHead q value s) := by
  fun_cases Machine.execStqHead q value s
  · exact hs.pciIgnored
  · exact hs.when .modQueue

theorem execAqEnable_wf {value} (hs : s.wf) : nextWf (execAqEnable value s) := by
  fun_cases Machine.execAqEnable value s
  · exact hs.put
  · exact hs.pciIgnored
  · exact hs.put
  · exact hs.put.beside.modQueue.put

theorem State.wf.silence {q} (hs : s.wf) : (s.silence q).wf := hs.modQueue.cancelQueue.tryAbsent
theorem execAqReset_wf (hs : s.wf) : nextWf (execAqReset s) := hs.silence.put.put.put
theorem State.wf.sendReports (hs : s.wf) : s.sendReports.wf := hs.beside.foldl (·.when (·.hostWrite.finish))
theorem execBusMasterEnable_wf {value} (hs : s.wf) : nextWf (execBusMasterEnable value s) :=
  hs.beside.when .sendReports |>.beside.foldl .send

/-! ### Admin and memory commands -/

theorem execQueueCreate_wf {h p} (hs : s.wf) : nextWf (execQueueCreate h p s) := hs.run (hs.beside.modQueue.ok)
theorem execQueueDelete_wf {h queueId mode} (hs : s.wf) : nextWf (execQueueDelete h queueId mode s) :=
  hs.run (hs.modQueue.when .cancelQueue |>.unless .hold |>.tryAbsent)
theorem execCancel_wf {h queueId seq} (hs : s.wf) : nextWf (execCancel h queueId seq s) := hs.run (hs.cancel.unless .ok)

theorem execMemAlloc_wf {h size space place} (hs : s.wf) : nextWf (execMemAlloc h size space place s) := by
  refine hs.run ?_
  split
  · exact hs.takeFree.beside.ok
  · exact hs.takeFree.fail

theorem execMemFree_wf {h addr} (hs : s.wf) : nextWf (execMemFree h addr s) := hs.run (hs.beside.ok)
theorem State.wf.addrFail {h a} (hs : s.wf) : (s.addrFail h a).wf := hs.unmapped.fail
theorem execMemWrite_wf {h addr data} (hs : s.wf) : nextWf (execMemWrite h addr data s) :=
  hs.run (hs.either (·.store.ok) .addrFail)

theorem execMemRead_wf {h addr len hostAddr} (hs : s.wf) : nextWf (execMemRead h addr len hostAddr s) := by
  fun_cases Machine.execMemRead h addr len hostAddr s
  · exact hs
  · exact hs.run (hs.either .addrFail (·.refetchFirst.either .rdStop (·.readRange.hostWrite.ok)))

theorem execMemFill_wf {h addr len pattern} (hs : s.wf) : nextWf (execMemFill h addr len pattern s) :=
  hs.run (hs.either (·.store.ok) .addrFail)
theorem execCounterSignal_wf {h ctrAddr increment} (hs : s.wf) : nextWf (execCounterSignal h ctrAddr increment s) :=
  hs.run (hs.either (·.counterAdd.ok) .addrFail)
theorem execNop_wf {h} (hs : s.wf) : nextWf (execNop h s) := hs.run (hs.ok)

theorem execPtUpdate_wf {h header first mode entries} (hs : s.wf) : nextWf (execPtUpdate h header first mode entries s) := by
  unfold execPtUpdate
  extract_lets n checks
  split
  · exact hs.run hs.rdStop
  · refine hs.run ?_
    split
    · exact hs.addrFail
    · exact hs.storeAll.ok
  · exact hs.run hs

theorem execTensorCreate_wf {h p} (hs : s.wf) : nextWf (execTensorCreate h p s) := hs.run (hs.beside.ok)

theorem execTensorDestroy_wf {h id} (hs : s.wf) : nextWf (execTensorDestroy h id s) := by
  fun_cases Machine.execTensorDestroy h id s
  · exact hs
  · exact hs.run (hs.beside.ok)

theorem execScaleSet_wf {h id scale} (hs : s.wf) : nextWf (execScaleSet h id scale s) := hs.run (hs.modTensor.ok)

/-! ### Plans -/

theorem State.wf.passChamber {job c} (hs : s.wf) : (s.passChamber job c).wf := hs.modChamber.unless (·.foldl .put)
theorem State.wf.setGroup {g} (hs : s.wf) : (s.setGroup g).wf := hs.foldl .passChamber |>.either .beside .beside
theorem State.wf.setPlans {ps} (hs : s.wf) : (s.setPlans ps).wf := hs.beside
theorem State.wf.operandState {g} (hs : s.wf) : (StageGroup.operandState g s).wf := hs.when (·.foldl .write)
theorem State.wf.addWork {c w} (hs : s.wf) : (s.addWork c w).wf := hs.foldl (·.unless .bump)
theorem State.wf.openBump {f u scale i} (hs : s.wf) : (s.openBump f u scale i).wf := hs.takeFree.bump

theorem State.wf.openTraffic {cs ks} (hs : s.wf) : (s.openTraffic cs ks).wf :=
  hs.unless (·.foldl (·.openBump.openBump.openBump.unless (·.openBump.setSharer)) |>.foldl (·.openBump.unless
    (·.openBump.openBump.setCache)) |>.foldl (·.openBump.openBump))

theorem State.wf.runPlans {p ks} (hs : s.wf) : (s.runPlans p ks).wf := hs.setPlans.foldl .addWork |>.openTraffic

/-! ### Edge mode -/

theorem State.wf.readEdge {p} (hs : s.wf) : (s.readEdge p).wf := hs.either (·.beside.unmapped) (·.modPort.beside)

theorem execEdgeCommit_wf {p} (hs : s.wf) : nextWf (execEdgeCommit p s) := by
  fun_cases Machine.execEdgeCommit p s
  · exact hs.flag
  · exact hs.readEdge

theorem State.wf.modFlow {p id dir k} (hs : s.wf) : (s.modFlow p id dir k).wf := hs.beside
theorem State.wf.sendFlow {f type flags psn ackPsn off xferId payload} (hs : s.wf) :
    (s.sendFlow f type flags psn ackPsn off xferId payload).wf := hs.send
theorem State.wf.edgeDrop {p} (hs : s.wf) : (s.edgeDrop p).wf := hs.bump
theorem State.wf.faultDone {h cls unit} (hs : s.wf) : (s.faultDone h cls unit).wf := hs.errRecord.finish

theorem State.wf.failFlow {f} (hs : s.wf) : (s.failFlow f).wf := by
  fun_cases s.failFlow f
  · exact hs.modFlow.faultDone
  · exact hs.modFlow

theorem State.wf.resetFlow {f reason} (hs : s.wf) : (s.resetFlow f reason).wf := hs.sendFlow.failFlow

theorem State.wf.sendPart {f psn i} (hs : s.wf) : (s.sendPart f psn i).wf := by
  fun_cases s.sendPart f psn i
  · exact hs
  · exact hs.readRange.sendFlow

theorem State.wf.pumpFlow {p id n} (hs : s.wf) : (s.pumpFlow p id n).wf := by
  induction n generalizing s with
  | zero => exact hs
  | succ n ih =>
    unfold State.pumpFlow
    split
    · exact hs
    split
    · exact hs
    · exact hs.when fun hs => ih hs.sendPart.modFlow

theorem State.wf.egressDone {p id} (hs : s.wf) : (s.egressDone p id).wf := by
  fun_cases s.egressDone p id
  · exact hs
  · exact hs
  · exact hs.modFlow.finish
  · exact hs

theorem State.wf.egressStart {h p id src dst n} (hs : s.wf) : (s.egressStart h p id src dst n).wf := hs.modFlow.pumpFlow

theorem State.wf.retransmit {p id psn} (hs : s.wf) : (s.retransmit p id psn).wf := by
  fun_cases s.retransmit p id psn
  iterate 3 exact hs
  · exact hs.resetFlow
  · exact hs.sendPart.bump.modFlow

theorem execTransportAck_wf {p k} (hs : s.wf) : nextWf (execTransportAck p k s) := by
  fun_cases Machine.execTransportAck p k s
  · exact hs.edgeDrop
  · exact hs
  · exact hs.modFlow.foldl .retransmit |>.pumpFlow.egressDone

theorem execEdgeRto_wf {p flowId psn} (hs : s.wf) : nextWf (execEdgeRto p flowId psn s) := by
  fun_cases Machine.execEdgeRto p flowId psn s
  · exact hs
  · exact hs.retransmit
  · exact hs

theorem execTransportReset_wf {p k} (hs : s.wf) : nextWf (execTransportReset p k s) := by
  fun_cases Machine.execTransportReset p k s
  · exact hs.edgeDrop
  · exact hs.failFlow
  · exact hs.failFlow
  · exact hs.failFlow.failFlow

theorem State.wf.sendAck {f} (hs : s.wf) : (s.sendAck f).wf := hs.sendFlow.modFlow

theorem State.wf.ingestDone {f n} (hs : s.wf) : (s.ingestDone f n).wf := by
  induction n generalizing s with
  | zero => exact hs
  | succ n ih => exact ih (hs.unless (·.either .counterAdd .unmapped))

theorem State.wf.ingest {f k} (hs : s.wf) : (s.ingest f k).wf :=
  hs.either .store .unmapped |>.modFlow.ingestDone.when .sendAck

theorem execTransportData_wf {p k} (hs : s.wf) : nextWf (execTransportData p k s) := by
  fun_cases Machine.execTransportData p k s
  · exact hs
  · exact hs.edgeDrop
  · exact hs
  · exact hs.sendAck
  · exact hs.resetFlow
  · exact hs.ingest

theorem execAckTimer_wf {p flowId} (hs : s.wf) : nextWf (execAckTimer p flowId s) := by
  fun_cases Machine.execAckTimer p flowId s
  · exact hs
  · exact hs
  · exact hs.sendAck

theorem execNeighborSolicitation_wf {p iface target} (hs : s.wf) : nextWf (execNeighborSolicitation p iface target s) := by
  fun_cases Machine.execNeighborSolicitation p iface target s
  · exact hs.send
  · exact hs

theorem execEchoRequest_wf {p iface target body} (hs : s.wf) : nextWf (execEchoRequest p iface target body s) := by
  fun_cases Machine.execEchoRequest p iface target body s
  · exact hs.send
  · exact hs

theorem execPriorityFlowControl_wf {p iface priorities} (hs : s.wf) :
    nextWf (execPriorityFlowControl p iface priorities s) := by
  fun_cases Machine.execPriorityFlowControl p iface priorities s
  · exact hs.edgeDrop
  · exact hs.modPort
  · exact hs.modPort.foldl (·.when .pumpFlow)

theorem execFrameDiscard_wf {p} (hs : s.wf) : nextWf (execFrameDiscard p s) := hs.edgeDrop

/-! ### Transfers -/

theorem State.wf.sendPackets {x id off len is} (hs : s.wf) (e : s.sendPackets x id off len is = some t) : t.wf := by
  induction is generalizing s with
  | nil =>
    cases e
    exact hs
  | cons i is ih =>
    unfold State.sendPackets at e
    split at e
    · cases e
    · next hf => exact ih (hs.forward hf) e

theorem State.wf.sendSegment {x id off len} (hs : s.wf) (e : s.sendSegment x id off len = some t) : t.wf :=
  hs.readRange.sendPackets e
theorem State.wf.dropXfer {h} (hs : s.wf) : (s.dropXfer h).wf := hs.beside
theorem State.wf.setSeg {h id st} (hs : s.wf) : (s.setSeg h id st).wf := hs.beside
theorem State.wf.xferOver {h} (hs : s.wf) : (s.xferOver h).wf := hs.either (·.bump.flag.beside.complete) .finish
theorem State.wf.xferLost {h} (hs : s.wf) : (s.xferLost h).wf := hs.dropXfer.when .put

theorem State.wf.launch {x g} (hs : s.wf) : (s.launch x g).wf := by
  unfold State.launch
  split
  · next e => exact (hs.sendSegment e).setSeg
  · exact hs.xferLost.faultDone

theorem State.wf.pumpXfer {h} (hs : s.wf) : (s.pumpXfer h).wf := by
  fun_cases s.pumpXfer h
  · exact hs
  · exact hs.foldl (·.when .launch)

theorem State.wf.localXfer {h p} (hs : s.wf) : (s.localXfer h p).wf :=
  hs.either .addrFail (·.either .addrFail (·.readRange.store.when .beside |>.unless .counterAdd |>.ok))

theorem State.wf.edgeXfer {h p} (hs : s.wf) : (s.edgeXfer h p).wf := by
  fun_cases s.edgeXfer h p
  · exact hs.bad
  · exact hs.hold.faultDone
  · exact hs
  · exact hs.hold.egressStart

theorem execXfer_wf {h p} (hs : s.wf) : nextWf (execXfer h p s) :=
  hs.when .refetchFirst |>.run (hs.when .refetchFirst |>.either .addrFail (·.either .rdStop (·.either .edgeXfer
    (·.either .localXfer (·.hold.beside.pumpXfer)))))

theorem State.wf.restoreHist (hs : s.wf) : s.restoreHist.wf := hs.beside

theorem State.wf.mirror {h p flags} (hs : s.wf) : (s.mirror h p flags).wf := by
  fun_cases s.mirror h p flags
  · exact hs.complete
  · exact hs.complete
  · exact hs.hold.beside.write.beside.pumpXfer

theorem State.wf.mirrorCommit {k e} (hs : s.wf) : (s.mirrorCommit k e).wf := by
  fun_cases s.mirrorCommit k e
  · exact hs
  · exact hs.beside.put
  · exact hs.restoreHist
  · exact hs

theorem State.wf.sendMirror {j m dst addr cut} (hs : s.wf) : (s.sendMirror j m dst addr cut).wf :=
  hs.unless (·.beside.pumpXfer)

theorem State.wf.sendRestart {old j lostRank step} (hs : s.wf) : (s.sendRestart old j lostRank step).wf := by
  fun_cases s.sendRestart old j lostRank step
  · exact hs
  · exact hs.sendMirror
  · exact hs.foldl .sendMirror
  · exact hs.sendMirror
  · exact hs

theorem State.wf.restartJob {j} (hs : s.wf) : (s.restartJob j).wf := by
  fun_cases s.restartJob j
  · exact hs
  · exact hs
  · exact hs.modJob.modJob.when .put |>.sendRestart

theorem State.wf.takeData {k e g others} (hs : s.wf) : (s.takeData k e g others).wf :=
  hs.unless (·.store.mirrorCommit.when .beside |>.either .beside (·.unless .counterAdd |>.beside.sendDone))

theorem execData_wf {k e} (hs : s.wf) : nextWf (execData k e s) := by
  fun_cases Machine.execData k e s
  · exact hs
  · exact hs.sendNack
  · exact hs.bump.sendNack
  · exact hs.sendDone
  · exact hs
  · exact hs.unmapped.sendNack
  · exact hs.takeData
  · exact hs.sendNack
  · exact hs
  · exact hs.unmapped.sendNack
  · exact hs.takeData

theorem execSegmentEntryExpiry_wf {src xferId} (hs : s.wf) : nextWf (execSegmentEntryExpiry src xferId s) := hs.beside

theorem execXferDone_wf {k} (hs : s.wf) : nextWf (execXferDone k s) := by
  fun_cases Machine.execXferDone k s
  · exact hs
  · exact hs.dropXfer.xferOver
  · exact hs.setSeg.pumpXfer

theorem State.wf.xferRefused {x id reason} (hs : s.wf) : (s.xferRefused x id reason).wf := by
  fun_cases s.xferRefused x id reason
  · exact hs.setSeg.beside
  · exact hs.xferLost.finish
  · exact hs.xferLost.finish
  · exact hs.xferLost.faultDone

theorem execXferNack_wf {k} (hs : s.wf) : nextWf (execXferNack k s) := by
  fun_cases Machine.execXferNack k s
  · exact hs
  · exact hs.xferRefused

theorem execSegmentResend_wf {xferId} (hs : s.wf) : nextWf (execSegmentResend xferId s) := by
  fun_cases Machine.execSegmentResend xferId s
  · exact hs
  · exact hs
  · exact hs.launch

theorem State.wf.forwardOr {k from?} (hs : s.wf) : (s.forwardOr k from?).wf := by
  unfold State.forwardOr
  split
  · next e => exact hs.forward e
  · refine hs.unless (·.either (fun hs => ?_) .sendNack)
    split
    · exact hs.xferRefused
    · exact hs

theorem execPacketRoute_wf {p k} (hs : s.wf) : nextWf (execPacketRoute p k s) := by
  fun_cases Machine.execPacketRoute p k s
  · exact hs
  · exact hs.forwardOr

/-! ### Jobs -/

theorem State.wf.admitJob {a version} (hs : s.wf) : (s.admitJob a version).wf :=
  hs.either .fail (·.put.unless .bump |>.beside.restartJob.complete)

theorem State.wf.settleJob {a} (hs : s.wf) : (s.settleJob a).wf := by
  fun_cases s.settleJob a
  · exact hs
  · exact hs.beside.fail
  · exact hs.beside.fail
  · exact hs.beside.bad
  · exact hs.beside.admitJob

theorem State.wf.sendHellos {a} (hs : s.wf) : (s.sendHellos a).wf := hs.beside.foldl .sendMgmt |>.foldl .sendMgmt |>.beside

theorem execJobAdmit_wf {h p} (hs : s.wf) : nextWf (execJobAdmit h p s) := by
  unfold execJobAdmit
  extract_lets alone
  split
  · exact hs.run hs.settleJob
  split
  · exact hs.run hs.rdStop
  · exact hs.run hs.bad
  · refine hs.run ?_
    split
    · exact hs.hold.sendHellos.settleJob
    · exact hs.hold.sendHellos

theorem State.wf.takeRecord {a src r} (hs : s.wf) : (s.takeRecord a src r).wf := hs.beside.settleJob

theorem execJobHello_wf {k} (hs : s.wf) : nextWf (execJobHello k s) := by
  fun_cases Machine.execJobHello k s
  · exact hs.sendMgmt.takeRecord
  · exact hs.beside

theorem execJobHelloAck_wf {k} (hs : s.wf) : nextWf (execJobHelloAck k s) := by
  fun_cases Machine.execJobHelloAck k s
  · exact hs.takeRecord
  · exact hs

theorem execJobHelloTimeout_wf {h} (hs : s.wf) : nextWf (execJobHelloTimeout h s) := by
  fun_cases Machine.execJobHelloTimeout h s
  · exact hs
  · exact hs
  · exact hs.beside.fail

theorem State.wf.releaseJob {id} (hs : s.wf) : (s.releaseJob id).wf := by
  fun_cases s.releaseJob id
  · exact hs
  · exact hs
  · exact hs.put.unless .put |>.beside

theorem State.wf.abortColls {id} (hs : s.wf) : (s.abortColls id).wf := by
  fun_cases s.abortColls id
  · exact hs
  · exact hs.foldl .collCancel

theorem execJobEnd_wf {h} (hs : s.wf) : nextWf (execJobEnd h s) := hs.run (hs.abortColls.unless (·.releaseJob.complete))

theorem State.wf.forMode {c job} (hs : s.wf) : (s.forMode c job).wf := by
  fun_cases s.forMode c job
  · exact hs
  · exact hs.loadPublished
  · exact hs

theorem execStageBind_wf {h stageId layout stale mask} (hs : s.wf) : nextWf (execStageBind h stageId layout stale mask s) :=
  hs.run (hs.foldl .passChamber |>.beside.ok)
theorem execStageRun_wf {h chamber strand prio header} (hs : s.wf) : nextWf (execStageRun h chamber strand prio header s) :=
  hs.run (hs.when (·.forMode.passChamber.hold.setReg.setReg.setReg.setReg.modStrand.go))

/-! ### CONTRACT and CONVOLVE -/

theorem State.wf.dropEntry {h op} (hs : s.wf) : (s.dropEntry h op).wf := by
  fun_cases s.dropEntry h op
  · exact hs.beside
  · exact hs

theorem State.wf.countPart {x} (hs : s.wf) : (s.countPart x).wf :=
  hs.foldl (·.when .put) |>.when .flag |>.when (·.flag.bump) |>.when .flag |>.foldl (·.unless .bump)
theorem State.wf.countFlagOps {xs} (hs : s.wf) : (s.countFlagOps xs).wf := hs.foldl .bumpSat
theorem State.wf.countParts {xs} (hs : s.wf) : (s.countParts xs).wf := hs.foldl .countPart |>.countFlagOps

theorem State.wf.produce {h op t stream rnd r gauss fin shows} (hs : s.wf) :
    (s.produce h op t stream rnd r gauss fin shows).wf := by
  fun_cases s.produce h op t stream rnd r gauss fin shows
  · exact hs.rdStop
  · exact hs.countParts.fail
  · exact hs.storeAll.countParts.modTensor.dropEntry.complete

theorem State.wf.contractRun {h p batched} (hs : s.wf) : (s.contractRun h p batched).wf := by
  fun_cases s.contractRun h p batched
  · exact hs.bad
  · exact hs.fail
  · exact hs.rdStop
  · exact hs.rdStop
  · exact hs.fail
  · exact hs.fail
  · exact hs.rdStop
  · exact hs.setGroup.runPlans.produce

theorem State.wf.runBatch {b} (hs : s.wf) : (s.runBatch b).wf := hs.when (·.beside.foldl .contractRun)

theorem State.wf.joinBatch {h p m n k} (hs : s.wf) : (s.joinBatch h p m n k).wf := by
  fun_cases s.joinBatch h p m n k
  · exact hs.hold.beside.runBatch
  iterate 3 exact hs.hold.beside

theorem execContract_wf {h p} (hs : s.wf) : nextWf (execContract h p s) := by
  refine hs.refetchTensors.run ?_
  split
  · exact hs.refetchTensors.either .joinBatch (·.when .contractRun)
  · exact hs.refetchTensors.when .contractRun

theorem execBatchDeadline_wf {h} (hs : s.wf) : nextWf (execBatchDeadline h s) := by
  fun_cases Machine.execBatchDeadline h s
  · exact hs
  · exact hs.runBatch
  · exact hs

theorem execConvolve_wf {h p} (hs : s.wf) : nextWf (execConvolve h p s) := by
  refine hs.refetchTensors.run (hs.refetchTensors.unless fun hs => ?_)
  split
  · split
    · exact hs.rdStop
    split
    · exact hs.rdStop
    · exact hs.setGroup.runPlans.produce
  · exact hs.bad

/-! ### ATTEND -/

theorem execAttend_wf {h p} (hs : s.wf) : nextWf (execAttend h p s) := by
  refine hs.refetchTensors.run (hs.refetchTensors.unless fun hs => ?_)
  split
  · split
    · exact hs.fail
    refine hs.either .bad fun hs => ?_
    split
    · exact hs.fail
    split
    · exact hs.rdStop
    split
    · exact hs.addrFail
    · exact hs.storeAll.setGroup.runPlans.produce
  · exact hs.rdStop
  · exact hs.bad

/-! ### Module time -/

theorem State.wf.rootNow (hs : s.wf) : s.rootNow.wf := hs.put.when (·.put.put)
theorem State.wf.tryConverge (hs : s.wf) : s.tryConverge.wf := hs.unless (·.flag.put.log.hostEvent)
theorem State.wf.loseTime (hs : s.wf) : s.loseTime.wf := hs.beside.unless (·.put.flag.log.hostEvent)
theorem State.wf.setRef {p} (hs : s.wf) : (s.setRef p).wf := hs.when .beside |>.put.put

theorem State.wf.follow (hs : s.wf) : s.follow.wf := by
  fun_cases State.follow s
  · exact hs
  · exact hs.setRef
  · exact hs.setRef.beside
  · exact hs
  · exact hs.loseTime.put.put

theorem State.wf.setTimeRoot {root valid} (hs : s.wf) : (s.setTimeRoot root valid).wf :=
  hs.put.put.loseTime.put.put.rootNow.follow.tryConverge
theorem State.wf.addrChanged (hs : s.wf) : s.addrChanged.wf :=
  hs.rootNow.unless (·.either (·.loseTime.put.put.follow) .tryConverge)
theorem State.wf.shiftTime {x} (hs : s.wf) : (s.shiftTime x).wf := hs.beside.put
theorem State.wf.stepTime {x} (hs : s.wf) : (s.stepTime x).wf := hs.unless (·.shiftTime.flag.bump.log)
theorem State.wf.exchange {f} (hs : s.wf) : (s.exchange f).wf :=
  hs.takeFree.put.beside.either (·.stepTime.tryConverge) (·.either .loseTime .beside)

theorem execTimeFlit_wf {p f} (hs : s.wf) : nextWf (execTimeFlit p f s) := by
  fun_cases Machine.execTimeFlit p f s
  · exact hs
  · exact hs.modPort.follow.exchange
  · exact hs.modPort.follow.tryConverge

theorem execTimeFlitSend_wf {p} (hs : s.wf) : nextWf (execTimeFlitSend p s) := by
  fun_cases Machine.execTimeFlitSend p s
  · exact hs
  · exact hs.modPort.send

theorem execDieTimeExchange_wf {d errorSixteenths} (hs : s.wf) : nextWf (execDieTimeExchange d errorSixteenths s) := by
  fun_cases Machine.execDieTimeExchange d errorSixteenths s
  · exact hs.tryConverge
  · exact hs.beside.tryConverge

/-! ### Links -/

theorem State.wf.historyReady (hs : s.wf) : s.historyReady.wf := hs.put
theorem State.wf.clearLink {p} (hs : s.wf) : (s.clearLink p).wf := hs.put.put.put.put
theorem State.wf.leaveActive {p ks} (hs : s.wf) : (s.leaveActive p ks).wf :=
  hs.bumpSat.put.historyReady.foldl .forwardOr |>.follow

theorem State.wf.linkState {p new} (hs : s.wf) : (s.linkState p new).wf :=
  hs.unless (·.modPort.put.log.hostEvent.when (·.modPort.clearLink) |>.when .modPort |>.either .leaveActive (·.either
    (·.beside.bumpSat.send) (·.when .follow)))

theorem State.wf.leaveDown {p} (hs : s.wf) : (s.leaveDown p).wf := hs.when .linkState
theorem State.wf.setEnable {p v} (hs : s.wf) : (s.setEnable p v).wf := hs.put.either .linkState .leaveDown
theorem State.wf.retrain {p} (hs : s.wf) : (s.retrain p).wf := hs.unless (·.modPort.when .linkState |>.linkState)
theorem State.wf.setMode {p v} (hs : s.wf) : (s.setMode p v).wf := hs.either (·.put.put) .flag
theorem State.wf.setInService {p} (hs : s.wf) : (s.setInService p).wf := hs.flag.when .linkState |>.historyReady
theorem execRetrain_wf {p} (hs : s.wf) : nextWf (execRetrain p s) := hs.retrain
theorem execInService_wf {p} (hs : s.wf) : nextWf (execInService p s) := hs.setInService
theorem execMode_wf {p value} (hs : s.wf) : nextWf (execMode p value s) := hs.setMode

theorem execDetectSignal_wf {p} (hs : s.wf) : nextWf (execDetectSignal p s) := by
  fun_cases Machine.execDetectSignal p s
  · exact hs.linkState
  · exact hs

theorem execDetectRetry_wf {p} (hs : s.wf) : nextWf (execDetectRetry p s) := hs.leaveDown

theorem execEqualiseComplete_wf {p lowOk highOk} (hs : s.wf) : nextWf (execEqualiseComplete p lowOk highOk s) := by
  fun_cases Machine.execEqualiseComplete p lowOk highOk s
  · exact hs
  · exact hs.put.put.linkState
  · exact hs.flag.put.linkState
  · exact hs

theorem execLockAcquired_wf {p} (hs : s.wf) : nextWf (execLockAcquired p s) := by
  fun_cases Machine.execLockAcquired p s
  · exact hs.put.linkState
  · exact hs

theorem execTrainFail_wf {p} (hs : s.wf) : nextWf (execTrainFail p s) := by
  fun_cases Machine.execTrainFail p s
  · exact hs.flag.linkState
  · exact hs
  · exact hs

theorem State.wf.settleLink {p r} (hs : s.wf) : (s.settleLink p r).wf := by
  fun_cases s.settleLink p r
  · exact hs.put.put.flag.linkState.modPort
  · exact hs.put.put.linkState
  · exact hs.put.put.linkState
  · exact hs.put.put.modPort.linkState
  · exact hs.put.put.flag.linkState
  · exact hs.put.put.put.linkState.linkState
  · exact hs.put.put.put.linkState

theorem State.wf.trySettle {p} (hs : s.wf) : (s.trySettle p).wf := by
  fun_cases s.trySettle p
  · exact hs.settleLink
  · exact hs
  · exact hs

theorem execCapsFlit_wf {p r} (hs : s.wf) : nextWf (execCapsFlit p r s) := by
  fun_cases Machine.execCapsFlit p r s
  · exact hs
  · exact hs.modPort.trySettle

theorem execCapsFlitSend_wf {p} (hs : s.wf) : nextWf (execCapsFlitSend p s) := by
  fun_cases Machine.execCapsFlitSend p s
  · exact hs.send.modPort.trySettle
  · exact hs.send
  · exact hs

theorem State.wf.ackFlits {p ack} (hs : s.wf) : (s.ackFlits p ack).wf := hs.modPort
theorem State.wf.takeCredits {p vc n} (hs : s.wf) : (s.takeCredits p vc n).wf := hs.modPort
theorem State.wf.declareFailed {p} (hs : s.wf) : (s.declareFailed p).wf := hs.beside.modPort.flag.linkState.raise
theorem State.wf.replay {p} (hs : s.wf) : (s.replay p).wf :=
  hs.unless (·.modPort.foldl .send |>.bump.bump.when .declareFailed)
theorem State.wf.takeFlit {p f} (hs : s.wf) : (s.takeFlit p f).wf :=
  hs.when .ackFlits |>.takeCredits.when .replay |>.unless (·.either (·.modPort.bump) .send) |>.drainPort

theorem execDataFlit_wf {p f} (hs : s.wf) : nextWf (execDataFlit p f s) := by
  fun_cases Machine.execDataFlit p f s
  · exact hs
  · exact hs.bump.when .send
  · exact hs
  · exact hs.modPort.takeFlit
  · exact hs.modPort

theorem execPortFailure_wf {p} (hs : s.wf) : nextWf (execPortFailure p s) := by
  fun_cases Machine.execPortFailure p s
  · exact hs
  · exact hs.declareFailed

theorem execPortHistoryReady_wf {p} (hs : s.wf) : nextWf (execPortHistoryReady p s) := by
  fun_cases Machine.execPortHistoryReady p s
  · exact hs.modPort.historyReady
  · exact hs

/-! ### The non-volatile memory -/

theorem State.wf.nvPut {line bs} (hs : s.wf) : (s.nvPut line bs).wf := hs.beside.bump
theorem State.wf.nvWrite {prio tag line bs} (hs : s.wf) : (s.nvWrite prio tag line bs).wf := hs.beside
theorem State.wf.putSlotState {x} (hs : s.wf) : (s.putSlotState x).wf := hs.nvPut

theorem execFwActivate_wf {h imageAddr} (hs : s.wf) : nextWf (execFwActivate h imageAddr s) := by
  refine hs.run (hs.either .addrFail (·.either .addrFail (·.either (·.refetchFirst.rdStop) fun hs => ?_)))
  split
  · exact hs.refetchFirst.readRange.complete
  · exact hs.refetchFirst.readRange.hold.beside.foldl .nvWrite

theorem State.wf.slotWritten (hs : s.wf) : s.slotWritten.wf := by
  fun_cases State.slotWritten s
  · exact hs
  · exact hs.nvWrite
  · exact hs.beside.finish

theorem State.wf.slotPending (hs : s.wf) : s.slotPending.wf := by
  fun_cases State.slotPending s
  · exact hs
  · exact hs.beside.put.finish

theorem execSettingsStore_wf {h offset data} (hs : s.wf) : nextWf (execSettingsStore h offset data s) :=
  hs.run (hs.hold.beside.foldl .nvWrite |>.nvWrite)

theorem State.wf.settingsStored (hs : s.wf) : s.settingsStored.wf := by
  unfold State.settingsStored
  split
  · exact hs
  · refine .finish (.beside ?_)
    split
    · exact hs.put
    · exact hs

theorem State.wf.nextSign (hs : s.wf) : s.nextSign.wf := by
  fun_cases State.nextSign s
  · exact hs
  · exact hs
  · exact hs.beside.flag.finish
  · exact hs.beside.nvWrite

theorem State.wf.keyTree (hs : s.wf) : s.keyTree.wf := hs.unless (·.either (·.beside.write) (·.beside.put))

theorem State.wf.keyInForce (hs : s.wf) : s.keyInForce.wf := by
  fun_cases State.keyInForce s
  · exact hs
  · exact hs.beside.put.when .flag |>.unless (·.bump.either (·.hostWrite.finish) .beside) |>.keyTree.nextSign

theorem execAttest_wf {h nonce hostAddr} (hs : s.wf) : nextWf (execAttest h nonce hostAddr s) :=
  hs.when .flag |>.run (hs.hold.put.beside.nextSign)

theorem execKeyTreeRebuild_wf {next} (hs : s.wf) : nextWf (execKeyTreeRebuild next s) := by
  fun_cases Machine.execKeyTreeRebuild next s
  · exact hs
  · exact hs.beside
  · exact hs
  · exact hs.beside.put.write.nextSign

theorem execAttestTokenRefill_wf (hs : s.wf) : nextWf (execAttestTokenRefill s) := hs.put

theorem State.wf.nvDone {tag} (hs : s.wf) : (s.nvDone tag).wf := by
  fun_cases s.nvDone tag
  · exact hs.keyInForce
  · exact hs.slotPending
  · exact hs.settingsStored
  · exact hs.slotWritten
  · exact hs

theorem State.wf.nvAbandon {tag} (hs : s.wf) : (s.nvAbandon tag).wf := by
  fun_cases s.nvAbandon tag
  · exact hs.unless .beside |>.beside.nextSign
  · exact hs.unless .beside |>.beside
  · exact hs.unless .beside
  · exact hs.unless .beside |>.beside.finish
  · exact hs.unless .beside

theorem execNvLineWrite_wf {ok} (hs : s.wf) : nextWf (execNvLineWrite ok s) := by
  unfold execNvLineWrite
  split
  · exact hs
  split
  · exact hs.beside.nvPut.unless .nvDone
  · exact nextWf_ite hs.beside (State.wf.nvAbandon (.flag hs.beside))

theorem State.wf.retireEntry {k block kind} (hs : s.wf) : (s.retireEntry k block kind).wf := hs.takeFree.either .flag .nvWrite
theorem State.wf.retireBlock {block kind} (hs : s.wf) : (s.retireBlock block kind).wf :=
  hs.unless (·.beside.bump.flag.retireEntry.log.hostEvent)

/-! ### Power -/

theorem State.wf.powerOff (hs : s.wf) : s.powerOff.wf := ⟨Memory.wf_reset.1, hs.hostMem, rfl, State.wf_reset.regs⟩

theorem execInputPowerUp_wf {addrSel} (hs : s.wf) : nextWf (execInputPowerUp addrSel s) := by
  fun_cases Machine.execInputPowerUp addrSel s
  · exact hs
  · exact hs.beside.put

theorem State.wf.shutdown (hs : s.wf) : s.shutdown.wf := hs.when .powerOff
theorem execUnderVoltageShutdown_wf (hs : s.wf) : nextWf (execUnderVoltageShutdown s) := hs.shutdown
theorem execOverVoltageShutdown_wf (hs : s.wf) : nextWf (execOverVoltageShutdown s) := hs.shutdown
theorem execInputRemoval_wf (hs : s.wf) : nextWf (execInputRemoval s) := hs.powerOff.beside
theorem execThermalTrip_wf (hs : s.wf) : nextWf (execThermalTrip s) := hs.shutdown.beside
theorem State.wf.onset {f u} {k : State → State} (hs : s.wf) (hk : ∀ {s}, s.wf → (k s).wf) : (s.onset f u k).wf :=
  hs.unless fun hs => hk hs.flag
theorem State.wf.setCap (hs : s.wf) : s.setCap.wf := hs.unless (·.put.log)
theorem State.wf.emergencyDivide (hs : s.wf) : s.emergencyDivide.wf := hs.unless (·.foldl .flag |>.bump.onset .hostEvent)

theorem execInputSample_wf {vin iin pin} (hs : s.wf) : nextWf (execInputSample vin iin pin s) :=
  hs.put.put.put.beside.bump.when (·.onset (·.hostEvent.alert)) |>.when (·.onset (·.hostEvent.alert))
    |>.setCap.when .emergencyDivide

theorem State.wf.retarget {g} (hs : s.wf) : (s.retarget g).wf := hs.put.put
theorem State.wf.switchClock {g} (hs : s.wf) : (s.switchClock g).wf := hs.unless (·.put.log)
theorem State.wf.settlePoint {g} (hs : s.wf) : (s.settlePoint g).wf := hs.when (·.put.bump)
theorem State.wf.setMv {g mv} (hs : s.wf) : (s.setMv g mv).wf := hs.modGalPower

theorem execPointChangeStep_wf {g} (hs : s.wf) : nextWf (execPointChangeStep g s) := by
  fun_cases Machine.execPointChangeStep g s
  · exact hs
  · exact hs.switchClock.settlePoint
  · exact hs.when .setMv |>.settlePoint

theorem State.wf.keeperLimits {g} (hs : s.wf) : (s.keeperLimits g).wf := hs.unless (·.modGalPower.flag.bump)
theorem execKeeperRound_wf {d} (hs : s.wf) : nextWf (execKeeperRound d s) :=
  hs.foldl .put |>.foldl (·.retarget.keeperLimits) |>.foldl .setMv |>.foldl .settlePoint
theorem execPowerCap_wf {h cap} (hs : s.wf) : nextWf (execPowerCap h cap s) := hs.run (hs.put.setCap.beside.hold)
theorem State.wf.capMet (hs : s.wf) : s.capMet.wf := hs.beside.foldl .finish
theorem State.wf.showDuty (hs : s.wf) : s.showDuty.wf := hs.either .put (·.takeFree.put)
theorem State.wf.setCapPoint {idx} (hs : s.wf) : (s.setCapPoint idx).wf := hs.put.foldl (·.put.retarget)
theorem State.wf.capWindow {pin} (hs : s.wf) : (s.capWindow pin).wf := hs.beside.either (·.when .capMet) (·.when .capMet)

theorem State.wf.capOver {pch excess} (hs : s.wf) : (s.capOver pch excess).wf := by
  unfold State.capOver
  extract_lets idx new power s1 lowered s2
  have h2 : s2.wf := .setCapPoint hs.beside
  clear_value s2
  split
  next duty s3 e =>
  have h3 : s3.wf := .ofSnd
    (p := if pch = 0 then (some (s2.takeFree.1 % 101, 100), s2.takeFree.2) else (capDuty idx pch excess, s2))
    (.snd_ite h2.takeFree h2) e
  split
  · exact h3.beside.showDuty.onset .alert
  · exact h3.when (·.onset .alert)

theorem State.wf.capUnder {low} (hs : s.wf) : (s.capUnder low).wf :=
  hs.beside.unless (·.either (·.beside.showDuty) (·.when .setCapPoint))
theorem execCapLoop_wf {pin chamberRail} (hs : s.wf) : nextWf (execCapLoop pin chamberRail s) :=
  hs.put.setCap.when .bump |>.either .capOver .capUnder |>.foldl .put |>.capWindow

theorem execDutyHold_wf {on} (hs : s.wf) : nextWf (execDutyHold on s) := by
  fun_cases Machine.execDutyHold on s
  · exact hs
  · exact hs.foldl (·.flag.reachStop.syncIdles) |>.beside
  · exact hs.foldl (·.put.leaveStop.syncIdles) |>.beside

theorem State.wf.enterPower {st} (hs : s.wf) : (s.enterPower st).wf :=
  hs.put.foldl (·.put.when .put |>.retarget.switchClock.setMv.when .settlePoint)
theorem State.wf.takePower {h target} (hs : s.wf) : (s.takePower h target).wf :=
  hs.either .finish (·.either .put (·.when .put) |>.beside.either .finish .beside)

theorem State.wf.nextPower {n} (hs : s.wf) : (s.nextPower n).wf := by
  induction n generalizing s with
  | zero => exact hs
  | succ n ih =>
    unfold State.nextPower
    split
    · exact hs
    split
    · exact hs
    · exact ih hs.beside.takePower

theorem execPowerState_wf {h target} (hs : s.wf) : nextWf (execPowerState h target s) := hs.run (hs.hold.beside.nextPower)

theorem execPowerTransitionComplete_wf (hs : s.wf) : nextWf (execPowerTransitionComplete s) := by
  unfold execPowerTransitionComplete
  split
  · exact hs
  extract_lets st goal s1 power s2 s3
  have h1 : State.wf s1 := hs.enterPower
  have h3 : State.wf s3 := by
    unfold s3
    split
    · exact h1.beside.finish
    · exact h1.beside
  exact nextWf_ite hs (nextWf_ite h1 h3.nextPower)

theorem execIdleToReady_wf (hs : s.wf) : nextWf (execIdleToReady s) := by
  fun_cases Machine.execIdleToReady s
  · exact hs.beside
  · exact hs

theorem State.wf.stewardRequest {g} (hs : s.wf) : (s.stewardRequest g).wf := hs.put.retarget
theorem State.wf.thermalHold {g stack} (hs : s.wf) : (s.thermalHold g stack).wf := hs.unless (·.modGalPower.stop.raise.alert)
theorem State.wf.thermalRelease {g stack} (hs : s.wf) : (s.thermalRelease g stack).wf := hs.modGalPower.when .start
theorem State.wf.acted {before} (hs : s.wf) : (s.acted before).wf := hs.unless .hostEvent
theorem State.wf.thermalState {g} (hs : s.wf) : (s.thermalState g).wf := hs.unless (·.put.log)
theorem State.wf.stackTemp {g} (hs : s.wf) : (s.stackTemp g).wf := hs.put.put

theorem State.wf.stackActions {g} (hs : s.wf) : (s.stackActions g).wf :=
  hs.stackTemp.either (·.put.raise.hostEvent) (·.when .put) |>.either (·.modGalPower.acted) (·.when .modGalPower) |>.either
    (·.thermalHold.acted) (·.when .thermalRelease) |>.stewardRequest.thermalState

theorem State.wf.stackPrediction {g pred index} (hs : s.wf) : (s.stackPrediction g pred index).wf :=
  hs.either (·.modGalPower.acted) (·.when .modGalPower)

theorem State.wf.dieActions {g t pred index} (hs : s.wf) : (s.dieActions g t pred index).wf :=
  hs.either (·.modGalPower.flag.acted) (·.when .modGalPower) |>.either (·.modGalPower.flag.acted) (·.when .modGalPower)
    |>.either (·.thermalHold.flag.acted) (·.when .thermalRelease)

theorem State.wf.adjActions {g} (hs : s.wf) : (s.adjActions g).wf :=
  hs.either (·.modGalPower.flag.when (·.onset .raise)) (·.modGalPower.unless .modGalPower)
theorem execPredictorUpdate_wf {g t} (hs : s.wf) : nextWf (execPredictorUpdate g t s) :=
  hs.put.put.put.put.bump.when .flag |>.modGalPower.stackPrediction.dieActions.stackActions.adjActions.stewardRequest
theorem execCoolantRead_wf {inlet outlet} (hs : s.wf) : nextWf (execCoolantRead inlet outlet s) :=
  hs.put.put.when (·.onset (·.raise.hostEvent.alert))
theorem execHbmTemperatureReadout_wf {stack temp} (hs : s.wf) : nextWf (execHbmTemperatureReadout stack temp s) :=
  hs.put.stackActions
theorem execHbmRefresh_wf {_stack} (hs : s.wf) : nextWf (execHbmRefresh _stack s) := hs

/-! ### Boot and resets -/

theorem State.wf.runImage {x slot trial} (hs : s.wf) : (s.runImage x slot trial).wf :=
  hs.put.put.put.put.put.put.put.put.put.put

theorem State.wf.chooseSlot (hs : s.wf) (e : s.chooseSlot = some t) : t.wf := by
  have hp : State.wf (if s.slotState.tried = s.slotState then s else s.putSlotState s.slotState.tried) :=
    hs.unless .putSlotState
  unfold State.chooseSlot at e
  extract_lets before x slot s1 at e
  refine someWf_ite (p := if s1.slotPasses x (1 - slot) = true then some (s1.runImage x (1 - slot) false) else none)
    hp.runImage.of_some (someWf_ite hp.runImage.of_some ?_) t e
  intro _ h
  cases h

theorem State.wf.bootStops {err} (hs : s.wf) : (s.bootStops err).wf := hs.put.put.alert

theorem State.wf.bootSlot (hs : s.wf) : s.bootSlot.wf := by
  unfold State.bootSlot
  cases e : s.chooseSlot with
  | none => exact hs.bootStops
  | some t => exact (hs.chooseSlot e).put

theorem State.wf.trainPcie (hs : s.wf) : s.trainPcie.wf := hs.unless (·.beside.put)
theorem execPerstDeassert_wf (hs : s.wf) : nextWf (execPerstDeassert s) := hs.beside.when .trainPcie
theorem State.wf.bootFailed {cls unit} (hs : s.wf) : (s.bootFailed cls unit).wf := hs.beside
theorem State.wf.dieFails {d} (hs : s.wf) : (s.dieFails d).wf :=
  hs.foldl .retireChamber |>.foldl .flag |>.foldl .modPort |>.bootFailed
theorem State.wf.stackFails {k} (hs : s.wf) : (s.stackFails k).wf := hs.beside.put.bootFailed
theorem State.wf.chamberBootFails {c} (hs : s.wf) : (s.chamberBootFails c).wf := hs.retireChamber.bootFailed
theorem State.wf.bootRecord {cls unit} (hs : s.wf) : (s.bootRecord cls unit).wf := hs.errRecord
theorem State.wf.loadRetired {e} (hs : s.wf) : (s.loadRetired e).wf :=
  hs.either (·.unless (·.beside.bump)) (·.when (·.unless (·.either (·.flag.put) (·.unless (·.beside.put)))))
theorem State.wf.zeroMemory (hs : s.wf) : s.zeroMemory.wf := ⟨rfl, hs.hostMem, rfl, hs.regs⟩
theorem State.wf.loadNative {c} (hs : s.wf) : (s.loadNative c).wf := hs.unless .loadPublished
theorem State.wf.setting {img off n} {f : Nat → State} (hs : s.wf) (hf : ∀ {v}, s.wf → (f v).wf) : (s.setting img off n f).wf :=
  hs.unless hf

theorem State.wf.applySettings {img} (hs : s.wf) : (s.applySettings img).wf := by
  unfold State.applySettings
  extract_lets s1 s2 s3 s4 s5 s6 s7 s8 s9
  have h1 : s1.wf := hs.when (·.setting (·.put.put))
  have h2 : s2.wf := h1.setting (·.put.put.put.put.put.put)
  have h3 : s3.wf := h2.setting .setTimeRoot
  have h4 : s4.wf := h3.setting (·.put.setCap)
  have h6 : s6.wf := h4.foldl (·.when .setMode) |>.foldl (·.when .setEnable)
  have h8 : s8.wf := h6.setting .put |>.setting .put
  have h9 : s9.wf := h8.setting (·.foldl .put)
  exact h9.setting (·.foldl .put)

theorem State.wf.bootSettings (hs : s.wf) : s.bootSettings.wf := by
  fun_cases State.bootSettings s
  · exact hs.beside
  · exact hs.beside.put.flag
  · exact hs.beside.put.applySettings

theorem State.wf.bootKeys (hs : s.wf) : s.bootKeys.wf := hs.put.put.put
theorem State.wf.placeRings (hs : s.wf) : s.placeRings.wf := hs.put.put.foldl (·.put.modChamber)
theorem State.wf.releaseHolds (hs : s.wf) : s.releaseHolds.wf := hs.foldl .start |>.foldl .start |>.foldl .start
theorem State.wf.endBoot (hs : s.wf) : s.endBoot.wf :=
  hs.putSlotState.put.put.put.releaseHolds.foldl .leaveDown |>.put.put.put.enterPower.beside

theorem State.wf.bootStage {f} (hs : s.wf) : (s.bootStage f).wf := by
  fun_cases s.bootStage f
  · exact hs.either .bootStops .put |>.trainPcie
  · exact hs.bootStops
  · exact hs.bootSlot
  · exact hs.foldl .dieFails |>.put
  · exact hs.foldl (·.either .stackFails .flag) |>.put
  · exact hs.zeroMemory.foldl .loadRetired |>.put
  · exact hs.foldl .chamberBootFails |>.foldl .loadNative |>.put
  · exact hs.bootSettings.bootKeys.placeRings.rootNow.beside.foldl .bootRecord |>.put
  · exact hs.endBoot
  · exact hs

theorem execBootStageEnd_wf {f} (hs : s.wf) : nextWf (execBootStageEnd f s) := by
  fun_cases Machine.execBootStageEnd f s
  · exact hs
  · exact hs.bootStage

theorem State.wf.clearBar0 (hs : s.wf) : s.clearBar0.wf := hs.foldl .put |>.foldl (·.foldl .setReg) |>.beside
theorem State.wf.functionReset (hs : s.wf) : s.functionReset.wf :=
  hs.foldl .abortColls |>.foldl .silence |>.foldl .stopCommand |>.foldl .tryAbsent |>.foldl .releaseJob |>.clearBar0
theorem execPcieReset_wf (hs : s.wf) : nextWf (execPcieReset s) := hs.functionReset

theorem State.wf.resetKeeping (hs : s.wf) : s.resetKeeping.wf := by
  unfold State.resetKeeping
  extract_lets
  refine State.wf.foldl ?_ .put
  exact ⟨hs.mem, hs.hostMem, hs.poison, State.wf_reset.regs⟩

theorem State.wf.moduleReset (hs : s.wf) : s.moduleReset.wf := hs.unless (·.functionReset.resetKeeping.either .bootSlot .put)

theorem execBootLimit_wf (hs : s.wf) : nextWf (execBootLimit s) := by
  fun_cases Machine.execBootLimit s
  · exact hs
  · exact hs.moduleReset

theorem execMgtResetKey_wf {value} (hs : s.wf) : nextWf (execMgtResetKey value s) := hs.either .moduleReset .flag

theorem State.wf.jtagInstr {i} {k : State → State} (hs : s.wf) (hk : ∀ {s}, s.wf → (k s).wf) : nextWf (s.jtagInstr i k) := by
  fun_cases s.jtagInstr i k
  · exact hs
  · exact hk hs.beside

theorem execTrstN_wf (hs : s.wf) : nextWf (execTrstN s) := hs.beside
theorem execBypass_wf (hs : s.wf) : nextWf (execBypass s) := hs.jtagInstr .send
theorem execIdcode_wf (hs : s.wf) : nextWf (execIdcode s) := hs.jtagInstr .send
theorem execSamplePreload_wf (hs : s.wf) : nextWf (execSamplePreload s) := hs.jtagInstr id

theorem execExtest_wf (hs : s.wf) : nextWf (execExtest s) := by
  fun_cases Machine.execExtest s
  · exact hs
  · exact hs.jtagInstr .beside

theorem execSvlStatus_wf (hs : s.wf) : nextWf (execSvlStatus s) := hs.jtagInstr .send

theorem execSvlImgLoad_wf {data} (hs : s.wf) : nextWf (execSvlImgLoad data s) := by
  fun_cases Machine.execSvlImgLoad data s
  · exact hs
  · exact hs.jtagInstr .beside

theorem execSvlImgCommit_wf (hs : s.wf) : nextWf (execSvlImgCommit s) := by
  fun_cases Machine.execSvlImgCommit s
  · exact hs
  · exact hs.jtagInstr (·.unless (·.foldl .nvPut |>.putSlotState.moduleReset))

theorem execSvlKeyProv_wf (hs : s.wf) : nextWf (execSvlKeyProv s) := by
  fun_cases Machine.execSvlKeyProv s
  · exact hs
  · exact hs.jtagInstr (·.takeFree.nvPut.nvPut.nvPut.beside)

/-! ### Contexts -/

theorem State.wf.contextPlace {dest size} (hs : s.wf) : (s.contextPlace dest size).2.wf := by
  fun_cases s.contextPlace dest size
  · exact hs
  · exact hs.takeFree.ofSnd.beside
  · exact hs.takeFree.ofSnd

theorem State.wf.writeContext {h j dest} (hs : s.wf) : (s.writeContext h j dest).wf := by
  unfold State.writeContext
  extract_lets bs
  split
  · exact hs.rdStop
  split
  · next e => exact (State.wf.ofSnd hs.contextPlace e).fail
  next a s1 e =>
  have h1 : s1.wf := .ofSnd hs.contextPlace e
  exact h1.either .addrFail fun h1 => .complete h1.store.beside

theorem State.wf.trySave {h job dest} (hs : s.wf) : (s.trySave h job dest).wf := by
  fun_cases s.trySave h job dest
  · exact hs.fail
  · exact hs.writeContext
  · exact hs

theorem State.wf.trySaves (hs : s.wf) : s.trySaves.wf := hs.foldl .trySave
theorem State.wf.saveIdle {h job} (hs : s.wf) : (s.saveIdle h job).wf := hs.foldl (·.beside.stopCommand)
theorem execContextSave_wf {h jobId dest} (hs : s.wf) : nextWf (execContextSave h jobId dest s) :=
  hs.run (hs.hold.modJob.saveIdle.trySave)
theorem State.wf.restoreTensor {job src ctx off} (hs : s.wf) : (s.restoreTensor job src ctx off).2.wf := hs.unless .beside

theorem State.wf.bindTensors {job src ctx offs} (hs : s.wf) : (s.bindTensors job src ctx offs).wf := by
  induction offs generalizing s with
  | nil => exact hs
  | cons off offs ih =>
    have ht : (s.restoreTensor job src ctx off).2.wf := hs.restoreTensor
    exact ih ht.beside

theorem State.wf.restoreJob {h src ctx} (hs : s.wf) : (s.restoreJob h src ctx).wf :=
  hs.either .fail (·.put.unless .bump |>.beside.bindTensors.complete)

theorem execContextRestore_wf {h src} (hs : s.wf) : nextWf (execContextRestore h src s) := by
  unfold execContextRestore
  extract_lets a hd n s1 ctx
  have h1 : s1.wf := hs.when (·.refetchFirst.refetchFirst)
  exact h1.run (h1.either .addrFail (·.either .rdStop (·.either .bad (·.either .addrFail (·.either .rdStop (·.either .bad
    (·.either .fail (·.readRange.restoreJob))))))))

/-! ### MAP, OPT_STEP and SAMPLE -/

theorem State.wf.openPart {h p d r} (hs : s.wf) : (s.openPart h p d r).2.wf := by
  fun_cases s.openPart h p d r
  · exact hs.takeFree.ofSnd
  · exact hs

theorem execMap_wf {h p} (hs : s.wf) : nextWf (execMap h p s) := by
  refine hs.refetchTensors.run (hs.refetchTensors.unless fun hs => ?_)
  split
  · exact hs.rdStop
  · split
    · exact hs.rdStop
    · exact hs.openPart.setGroup.runPlans.produce
  · exact hs.bad

theorem State.wf.count {x : OptCtx} {s0 strict dr cs es} (hs : s.wf) : (x.count s0 strict dr cs es s).wf := hs.countParts

theorem execOptStep_wf {h p} (hs : s.wf) : nextWf (execOptStep h p s) := by
  unfold execOptStep
  extract_lets job s1 strict gr
  have h1 : s1.wf := hs.refetchTensors
  refine h1.run (h1.unless fun h1 => ?_)
  split
  · exact h1.rdStop
  · split
    · exact h1.rdStop
    · exact h1.fail
    split
    · exact h1.rdStop
    extract_lets dr
    split
    · exact h1.rdStop
    refine h1.either (.fail <| .count ·) fun h1 => ?_
    split
    next s2 e =>
    have h2 : s2.wf := .ofSnd (h1.takeFree.snd_ite h1) e
    exact (State.wf.count h2.setGroup.runPlans.storeAll).dropEntry.mirror
  · exact h1.bad

theorem execSample_wf {h reqAddr gallery} (hs : s.wf) : nextWf (execSample h reqAddr gallery s) := by
  unfold execSample
  extract_lets pick s0 bs q n reads
  have h0 : s0.wf := State.wf.when hs .beside
  split
  extract_lets img
  refine hs.run (hs.unless fun _ => h0.either .addrFail (·.either (·.flag.rdStop) (·.either (·.flag.fail) fun h0 => ?_)))
  split
  · exact h0.addrFail
  · exact h0.flag.rdStop
  refine h0.either .addrFail fun h0 => ?_
  exact State.wf.complete (.beside (h0.openBump.foldl .readRange |>.put.store.bump.bump.when .flag))

/-! ### Recoveries -/

theorem State.wf.beginRecovery {cls unit strands} (hs : s.wf) : (s.beginRecovery cls unit strands).wf := hs.beside.flag
theorem State.wf.endRecovery {r e} (hs : s.wf) : (s.endRecovery r e).wf := hs.errRecord.beside.put.bump.put
theorem State.wf.recoverNow {e} (hs : s.wf) : (s.recoverNow e).wf := hs.beginRecovery.endRecovery

theorem State.wf.dropInside {c i} (hs : s.wf) : (s.dropInside c i).wf := by
  fun_cases s.dropInside c i
  · exact hs.releaseBanks.modChamber.modGallery

theorem State.wf.replayStrand {c i} (hs : s.wf) : (s.replayStrand c i).wf := by
  unfold State.replayStrand
  extract_lets st t rows s1
  refine hs.unless fun hs => ?_
  have h1 : State.wf s1 := hs.dropInside.modStrand
  clear_value s1
  split
  extract_lets s2 resume s3 s4 s5 s6 s7
  have h2 : s2.wf := h1.foldl .setReg
  clear_value s2
  have h6 : s6.wf := h2.setReg.setReg.setReg.setReg.setReg.setReg.setReg.syncWrites.syncFeed.bump
  clear_value s6
  refine .switchPoint (.admitScan ?_)
  unfold s7
  split
  · exact h6.markRecovered
  · exact h6

theorem State.wf.replayChamber {c} (hs : s.wf) : (s.replayChamber c).wf := hs.foldl .replayStrand

theorem State.wf.refoldPlans {x} (hs : s.wf) : (s.refoldPlans x).wf := by
  fun_cases s.refoldPlans x
  · exact hs.beside.setGroup
  · exact hs.beside.setGroup.setPlans

theorem State.wf.faultEnds {hs1} (hs : s.wf) : (s.faultEnds hs1).wf := hs.foldl (·.when .stopCommand)
theorem State.wf.refold {g gone} (hs : s.wf) : (s.refold g gone).wf := hs.foldl (·.when (·.refoldPlans.when .faultEnds))
theorem State.wf.vacate {g cs} (hs : s.wf) : (s.vacate g cs).1.wf := hs.faultEnds.foldl (·.foldl .abort) |>.refold
theorem State.wf.retireCorrected {k} (hs : s.wf) : (s.retireCorrected k).wf := hs.foldl .retireBlock
theorem State.wf.correctedRead {k a} (hs : s.wf) : (s.correctedRead k a).wf := hs.corrRead.retireCorrected
theorem State.wf.scrubUncorr {cls g a n} (hs : s.wf) : (s.scrubUncorr cls g a n).wf := hs.markPoison.memUncorr.raise

theorem execHbmPatrolScrub_wf {g stack gallery odCorr odSevere passDone} (hs : s.wf) :
    nextWf (execHbmPatrolScrub g stack gallery odCorr odSevere passDone s) :=
  hs.unless (·.takeFree.request.bump.foldl .correctedRead |>.foldl .scrubUncorr |>.when .bump) |>.bumpSat.when .flag
    |>.bumpSat.foldl .scrubUncorr

theorem State.wf.channelFails {stack channel} (hs : s.wf) : (s.channelFails stack channel).wf :=
  hs.unless (·.flag.log.retireEntry.hostEvent.either .raise (·.flag.put.beside.modGallery.recoverNow))
theorem execChannelFailure_wf {stack channel} (hs : s.wf) : nextWf (execChannelFailure stack channel s) := hs.channelFails

theorem execStackWithdrawal_wf {stack} (hs : s.wf) : nextWf (execStackWithdrawal stack s) := by
  fun_cases Machine.execStackWithdrawal stack s
  · exact hs
  · exact hs.beside.put.modGallery.log.hostEvent.recoverNow

theorem execRefetch_wf {block} (hs : s.wf) : nextWf (execRefetch block s) := hs.refetchBlock

/-! ### Faults -/

theorem State.wf.strandEnds {c i status detail} (hs : s.wf) : (s.strandEnds c i status detail).wf := by
  fun_cases s.strandEnds c i status detail
  · exact hs
  · exact hs.stopCommand
  · exact hs.dropWork

theorem State.wf.refusalEnds {c i code} (hs : s.wf) : (s.refusalEnds c i code).wf := by
  fun_cases s.refusalEnds c i code
  · exact hs
  · exact hs.modStrand.finish

theorem State.wf.waitEnds {c i ctr} (hs : s.wf) : (s.waitEnds c i ctr).wf :=
  hs.either .modStrand (·.takeFree.strandEnds.errRecord)
theorem State.wf.galleryFails {g} (hs : s.wf) : (s.galleryFails g).wf := hs.stop.beginRecovery
theorem State.wf.chamberFails {c i} (hs : s.wf) : (s.chamberFails c i).wf :=
  hs.modGallery.stop.beginRecovery.unless .galleryFails
theorem State.wf.lineFails {c i a strand} (hs : s.wf) : (s.lineFails c i a strand).wf :=
  hs.either (·.stop.beginRecovery) .beginRecovery
theorem State.wf.readFails {c i a strand} (hs : s.wf) : (s.readFails c i a strand).wf := hs.either .chamberFails .lineFails
theorem State.wf.ringReport {axis} (hs : s.wf) : (s.ringReport axis).wf := hs.unless (·.log.hostEvent)

theorem State.wf.keepLoss {id ts detect rank step} (hs : s.wf) : (s.keepLoss id ts detect rank step).wf := by
  fun_cases s.keepLoss id ts detect rank step
  · exact hs
  · exact hs
  · exact hs.modJob.flag.hostEvent

theorem State.wf.declareLoss {j rank step} (hs : s.wf) : (s.declareLoss j rank step).wf := hs.foldl .sendMgmt |>.keepLoss

theorem State.wf.restartStep {owner} (hs : s.wf) : (s.restartStep owner).2.wf := by
  fun_cases s.restartStep owner
  · exact hs.takeFree
  · exact hs

theorem State.wf.lossByPorts {m} (hs : s.wf) : (s.lossByPorts m).wf :=
  hs.unless (·.foldl (·.when (·.restartStep.declareLoss)))

theorem State.wf.portFails {p} (hs : s.wf) : (s.portFails p).wf := by
  fun_cases s.portFails p
  · exact hs.unless (·.foldl .sendMgmt) |>.recoverNow.put.ringReport.lossByPorts
  · exact hs.unless (·.foldl .sendMgmt) |>.recoverNow.put.ringReport

theorem State.wf.chamberEvent {e} (hs : s.wf) : (s.chamberEvent e).wf :=
  hs.either .strandEnds (·.either .strandEnds (·.either .strandEnds (·.either .strandEnds (·.either .strandEnds
    (·.either .refusalEnds (·.either .strandEnds (·.either .waitEnds (·.either .chamberFails (·.when .readFails)))))))))

theorem State.wf.arrive {e} (hs : s.wf) : (s.arrive e).wf :=
  hs.either .chamberEvent (·.either .readFails (·.either .channelFails (·.when .portFails)))

theorem execEventEscalation_wf {fromClass fromUnit kind ts} (hs : s.wf) :
    nextWf (execEventEscalation fromClass fromUnit kind ts s) := by
  fun_cases Machine.execEventEscalation fromClass fromUnit kind ts s
  · exact hs
  · exact hs.beside.arrive

theorem State.wf.releaseChamber {c} (hs : s.wf) : (s.releaseChamber c).wf := hs.start.restart.foldl .put

theorem execChamberFaultRecovery_wf {c} (hs : s.wf) : nextWf (execChamberFaultRecovery c s) := by
  unfold execChamberFaultRecovery
  split
  · exact hs
  extract_lets cmds i e lo s1 s2
  have h2 : s2.wf := (State.wf_filterPoison hs _).modChamber
  clear_value s2 e
  refine nextWf_ite ?_ h2.replayChamber.releaseChamber.endRecovery
  split
  next hv => exact (State.wf.ofFst hs.retireChamber.vacate hv).endRecovery

theorem execGalleryHeartbeatMiss_wf {g} (hs : s.wf) : nextWf (execGalleryHeartbeatMiss g s) := hs.galleryFails

theorem execGalleryFault_wf {g} (hs : s.wf) : nextWf (execGalleryFault g s) := by
  fun_cases Machine.execGalleryFault g s
  · exact hs
  · exact hs.stop.foldl .retireChamber |>.vacate.ofFst.beside.endRecovery

theorem execThermalHoldTimeout_wf {g} (hs : s.wf) : nextWf (execThermalHoldTimeout g s) := by
  fun_cases Machine.execThermalHoldTimeout g s
  · exact hs
  · exact hs.modGalPower.vacate.ofFst.recoverNow

theorem State.wf.resumeWaiters {hs1} (hs : s.wf) : (s.resumeWaiters hs1).wf := hs.beside
theorem State.wf.replayAll {xs} (hs : s.wf) : (s.replayAll xs).wf := hs.foldl .replayStrand |>.foldl .releaseChamber

theorem State.wf.lineDone {r action outcome job} (hs : s.wf) : (s.lineDone r action outcome job).wf := by
  refine State.wf.when ?_ .retireBlock
  split
  · exact hs.endRecovery.put
  · exact hs.endRecovery

theorem execMemoryDataRecovery_wf {addr} (hs : s.wf) : nextWf (execMemoryDataRecovery addr s) := by
  fun_cases Machine.execMemoryDataRecovery addr s
  · exact hs
  · exact hs.replayAll.resumeWaiters.lineDone
  · exact hs.beside.replayAll
  · exact hs.showLost.restoreMarks.replayAll.resumeWaiters.lineDone
  · exact hs.lineDone.foldl (·.when .stopCommand) |>.foldl .releaseChamber

theorem execDieLinkFailure_wf {a b} (hs : s.wf) : nextWf (execDieLinkFailure a b s) := by
  fun_cases Machine.execDieLinkFailure a b s
  · exact hs
  · exact hs.beside.recoverNow

theorem execDieLinkTrained_wf {a b} (hs : s.wf) : nextWf (execDieLinkTrained a b s) := hs.beside
theorem execProbe_wf {k} (hs : s.wf) : nextWf (execProbe k s) := hs.sendMgmt

theorem execProbeAck_wf {k} (hs : s.wf) : nextWf (execProbeAck k s) := by
  fun_cases Machine.execProbeAck k s
  · exact hs
  · exact hs.beside

theorem execProbeTimeout_wf {job rank restartStep} (hs : s.wf) : nextWf (execProbeTimeout job rank restartStep s) := by
  fun_cases Machine.execProbeTimeout job rank restartStep s
  · exact hs
  · exact hs.beside.declareLoss
  · exact hs

theorem execLoss_wf {k} (hs : s.wf) : nextWf (execLoss k s) := by
  fun_cases Machine.execLoss k s
  · exact hs
  · exact hs.keepLoss

theorem execLossCompletion_wf {job} (hs : s.wf) : nextWf (execLossCompletion job s) := by
  fun_cases Machine.execLossCompletion job s
  iterate 3 exact hs
  · exact hs.errRecord.modJob.foldl .stopCommand |>.beside

theorem execLinkDown_wf {k} (hs : s.wf) : nextWf (execLinkDown k s) := by
  fun_cases Machine.execLinkDown k s
  · exact hs
  · exact hs.beside.when .ringReport |>.lossByPorts
  · exact hs.beside.when .ringReport

/-! ### Module management -/

theorem execIdentify_wf {h hostAddr} (hs : s.wf) : nextWf (execIdentify h hostAddr s) := by
  fun_cases Machine.execIdentify h hostAddr s
  · exact hs
  · exact hs.run (hs.hostWrite.ok)

theorem State.wf.logReturned {lo hi} (hs : s.wf) : (s.logReturned lo hi).wf := hs.beside.put

theorem execLogRead_wf {h hostAddr maxBytes earliest} (hs : s.wf) : nextWf (execLogRead h hostAddr maxBytes earliest s) := by
  unfold execLogRead
  extract_lets es s1
  split
  · exact hs
  · refine hs.run (State.wf.ok (s := s1) ?_)
    unfold s1
    split
    · exact hs.hostWrite.logReturned
    · exact hs

theorem execSlotTableSet_wf {h gallery table} (hs : s.wf) : nextWf (execSlotTableSet h gallery table s) :=
  hs.run (hs.foldl (·.foldl .setReg |>.flag) |>.hold)
theorem State.wf.splitGallery {steps g} (hs : s.wf) : (s.splitGallery steps g).wf := hs.stop.setSteps.unless .start
theorem execCacheSplit_wf {h mask steps} (hs : s.wf) : nextWf (execCacheSplit h mask steps s) :=
  hs.run (hs.either .complete (·.either .complete (·.foldl .splitGallery |>.ok)))

theorem State.wf.configPort {bs} (hs : s.wf) : (s.configPort bs).wf := by
  fun_cases s.configPort bs
  · exact hs.unless .setMode |>.put.put.put.unless .put |>.unless .put |>.unless .put |>.setEnable.when .retrain |>.readEdge
  · exact hs.unless .setMode |>.put.put.put.unless .put |>.unless .put |>.unless .put |>.setEnable.when .retrain

theorem State.wf.configTorus {bs} (hs : s.wf) : (s.configTorus bs).wf := by
  fun_cases s.configTorus bs
  · exact hs.put.put.put.put.put.put.put.put.put.put.addrChanged

theorem execFabricConfig_wf {h bytes} (hs : s.wf) : nextWf (execFabricConfig h bytes s) := by
  refine hs.run (.ok ?_)
  split
  · exact hs.configPort
  · exact hs.foldl (·.setReg.setReg)
  · exact hs.configTorus
  · exact hs.setTimeRoot

/-! ### Register writes, the management view and PMBus -/

theorem State.wf.writeField {f u i v} (hs : s.wf) : (s.writeField f u i v).wf := by
  fun_cases s.writeField f u i v
  iterate 3 exact hs.setReg
  · exact hs
  · exact hs

theorem State.wf.refusedEncoding {f u} (hs : s.wf) : (s.refusedEncoding f u).wf := by
  fun_cases s.refusedEncoding f u
  · exact hs.flag
  · exact hs

theorem State.wf.stateOf {o} (hs : s.wf) (ho : nextWf o) : (stateOf s o).wf := by
  cases o with
  | next t => exact ho
  | fault _ => exact hs
  | refused _ => exact hs

theorem State.wf.trigger {f u i} (hs : s.wf) : (s.trigger f u i).wf := by
  fun_cases s.trigger f u i
  · exact hs.go
  · exact hs.abort
  · exact hs.stateOf (execTableLoad_wf hs)
  · exact hs.flag
  · exact hs.retrain
  · exact hs.stateOf (execEdgeCommit_wf hs)
  · exact hs

theorem State.wf.writeHold {e v} (hs : s.wf) : (s.writeHold e v).wf := hs.either .stop .start

theorem State.wf.complexWrite {f u i v} (hs : s.wf) : (s.complexWrite f u i v).wf := by
  have hw : (s.writeField f u i v).wf := hs.writeField
  refine State.wf.either hs .flag fun hs => hs.either .flag fun hs => ?_
  split
  iterate 3 exact hs.writeHold
  · exact hw.when fun _ => hs.flag
  iterate 2 exact hw.modChamber
  · exact hs.stateOf (execCacheStepsWrite_wf hs)
  · exact hw.retarget
  · exact hw.setCap
  iterate 2 exact hs.setTimeRoot
  iterate 2 exact hw.addrChanged
  · exact hs.setEnable
  · exact hs.setMode
  · exact hs.either .setInService fun _ => hw.historyReady
  · exact hw.when fun _ => hs.when .trigger

theorem State.wf.writeHalf {f i v} (hs : s.wf) : (s.writeHalf f i v).wf := hs.either .beside (·.beside.put)
theorem State.wf.unmask {v} (hs : s.wf) : (s.unmask v).wf := hs.when (·.beside.send)

theorem State.wf.hostRegWrite {f i v} (hs : s.wf) : (s.hostRegWrite f i v).wf := by
  fun_cases s.hostRegWrite f i v
  · exact hs.pciIgnored
  · exact hs.writeHalf
  · exact hs.writeHalf
  · exact hs.stateOf (execAqEnable_wf hs)
  · exact hs.stateOf (execAqReset_wf hs)
  · exact hs
  · exact hs.stateOf (execSqTail_wf hs)
  · exact hs.stateOf (execStqHead_wf hs)
  · exact hs.writeField.unmask
  · exact hs.writeField

theorem State.wf.setMgtCap {v} (hs : s.wf) : (s.setMgtCap v).wf := hs.either (·.put.put.setCap) .flag
theorem execMgtCap_wf {value} (hs : s.wf) : nextWf (execMgtCap value s) := hs.setMgtCap

theorem State.wf.boardWrite {f v} (hs : s.wf) : (s.boardWrite f v).wf := by
  unfold State.boardWrite
  split
  · exact hs.setMgtCap
  · exact hs.stateOf (execMgtResetKey_wf hs)
  iterate 2 exact hs.writeField.alertPin
  · exact hs.either .writeField .flag
  · exact hs.writeField
  · exact hs.flag

theorem execRegisterWrite_wf {who f unit idx value} (hs : s.wf) : nextWf (execRegisterWrite who f unit idx value s) := by
  fun_cases Machine.execRegisterWrite who f unit idx value s
  · exact hs
  · exact hs.refusedEncoding
  · exact hs.complexWrite
  · exact hs.pciIgnored
  · exact hs
  · exact hs.pciIgnored
  · exact hs.hostRegWrite
  · exact hs.pciIgnored
  · exact hs.boardWrite
  · exact hs.flag
  iterate 3 exact hs

theorem State.wf.regDataRead (hs : s.wf) : s.regDataRead.2.wf := by
  unfold State.regDataRead
  extract_lets a
  split
  · split <;> exact hs
  · exact hs.beside

theorem State.wf.mgtRead {off} (hs : s.wf) : (s.mgtRead off).2.wf := by
  fun_cases s.mgtRead off
  · exact hs.regDataRead
  · exact hs.beside
  · exact hs
  · exact hs

theorem State.wf.mgtWrite {off v} (hs : s.wf) : (s.mgtWrite off v).wf := by
  fun_cases s.mgtWrite off v
  · exact hs.boardWrite
  · exact hs.flag

theorem State.wf.pmbus {k : State → State} (hs : s.wf) (hk : ∀ {s}, s.wf → (k s).wf) : nextWf (s.pmbus k) := by
  fun_cases s.pmbus k
  · exact hk hs
  · exact hs

theorem State.wf.linear11 {num den} (hs : s.wf) : (s.linear11 num den).2.wf := by
  fun_cases s.linear11 num den
  · exact hs
  · exact hs.takeFree.ofSnd

theorem State.wf.sendWord {v} (hs : s.wf) : (s.sendWord v).wf := hs.send
theorem State.wf.sendReading {num den} (hs : s.wf) : (s.sendReading num den).wf := hs.linear11.sendWord
theorem State.wf.sendBlock {bs} (hs : s.wf) : (s.sendBlock bs).wf := hs.send
theorem execStatusByte_wf (hs : s.wf) : nextWf (execStatusByte s) := hs.pmbus .send
theorem execStatusWord_wf (hs : s.wf) : nextWf (execStatusWord s) := hs.pmbus .sendWord
theorem execStatusInput_wf (hs : s.wf) : nextWf (execStatusInput s) := hs.pmbus .send
theorem execStatusTemperature_wf (hs : s.wf) : nextWf (execStatusTemperature s) := hs.pmbus .send
theorem execReadVin_wf (hs : s.wf) : nextWf (execReadVin s) := hs.pmbus .sendReading
theorem execReadIin_wf (hs : s.wf) : nextWf (execReadIin s) := hs.pmbus .sendReading
theorem execReadPin_wf (hs : s.wf) : nextWf (execReadPin s) := hs.pmbus .sendReading
theorem execReadTemperature1_wf (hs : s.wf) : nextWf (execReadTemperature1 s) := hs.pmbus .sendReading
theorem execReadTemperature2_wf (hs : s.wf) : nextWf (execReadTemperature2 s) := hs.pmbus .sendReading
theorem execReadTemperature3_wf (hs : s.wf) : nextWf (execReadTemperature3 s) := hs.pmbus .sendReading
theorem execPmbusRevision_wf (hs : s.wf) : nextWf (execPmbusRevision s) := hs.pmbus .send
theorem execMfrId_wf (hs : s.wf) : nextWf (execMfrId s) := hs.pmbus .sendBlock
theorem execMfrModel_wf (hs : s.wf) : nextWf (execMfrModel s) := hs.pmbus .sendBlock
theorem execMfrSerial_wf (hs : s.wf) : nextWf (execMfrSerial s) := hs.pmbus .sendBlock
theorem execMfrMgtAddr_wf {addr} (hs : s.wf) : nextWf (execMfrMgtAddr addr s) := hs.pmbus .beside

theorem execMfrMgtData_wf {write} (hs : s.wf) : nextWf (execMfrMgtData write s) := by
  refine hs.pmbus fun hs => ?_
  split
  · exact hs.beside.mgtWrite
  · exact hs.beside.mgtRead.sendBlock

theorem execPmbusRefused_wf {code} (hs : s.wf) : nextWf (execPmbusRefused code s) := by
  fun_cases Machine.execPmbusRefused code s
  · exact hs
  · exact hs.pmbus (·.beside.send)

theorem execAlertResponse_wf (hs : s.wf) : nextWf (execAlertResponse s) := hs.pmbus (·.when .send)

/-! ### A tick -/

theorem State.wf.slewTick (hs : s.wf) : s.slewTick.wf := hs.unless (·.either .beside (·.beside.shiftTime))
theorem State.wf.congestTick {p} (hs : s.wf) : (s.congestTick p).wf :=
  hs.either (·.unless .modPort) (·.unless .takeFree |>.modPort.put)
theorem State.wf.ackTick {p} (hs : s.wf) : (s.ackTick p).wf := hs.when .declareFailed
theorem State.wf.clockTick {g} (hs : s.wf) : (s.clockTick g).wf :=
  hs.unless (·.modGalPower.unless (·.foldl (·.bump.when (·.bump.bump) |>.when .bump)))
theorem State.wf.refreshTick {k} (hs : s.wf) : (s.refreshTick k).wf := hs.unless (·.modGalPower.when .bump)
theorem State.wf.retireTick (hs : s.wf) : s.retireTick.wf := hs.foldl .retireCorrected
theorem State.wf.drainQueues (hs : s.wf) : s.drainQueues.wf := hs.foldl .tryAbsent

theorem State.wf.tick (hs : s.wf) : s.tick.wf :=
  hs.unless (·.bump.slewTick.when .beside |>.foldl .congestTick |>.foldl .ackTick |>.when (·.foldl .clockTick)
    |>.foldl .refreshTick |>.retireTick.drainQueues.trySaves)

/-! ### Any command -/

/-- Every command keeps the invariant: the lemma of each arm of `exec`. (Four arms are unfolded first: there the unifier does
not find the arm's function through `exec`.) -/
theorem exec_wf {c : Instr} (hs : s.wf) : nextWf (exec c s) := by
  cases c with
  | identify => exact execIdentify_wf hs
  | queueCreate => exact execQueueCreate_wf hs
  | queueDelete => exact execQueueDelete_wf hs
  | cancel => exact execCancel_wf hs
  | jobAdmit => exact execJobAdmit_wf hs
  | jobEnd => exact execJobEnd_wf hs
  | stageBind => exact execStageBind_wf hs
  | memAlloc => exact execMemAlloc_wf hs
  | memFree => exact execMemFree_wf hs
  | memWrite => exact execMemWrite_wf hs
  | memRead => exact execMemRead_wf hs
  | memFill => exact execMemFill_wf hs
  | ptUpdate => exact execPtUpdate_wf hs
  | tensorCreate => exact execTensorCreate_wf hs
  | tensorDestroy => exact execTensorDestroy_wf hs
  | scaleSet => exact execScaleSet_wf hs
  | contract => exact execContract_wf hs
  | convolve => exact execConvolve_wf hs
  | attend => exact execAttend_wf hs
  | map => exact execMap_wf hs
  | sample => exact execSample_wf hs
  | optStep => exact execOptStep_wf hs
  | stageRun => exact execStageRun_wf hs
  | xfer => exact execXfer_wf hs
  | counterSignal => exact execCounterSignal_wf hs
  | allReduce => exact execAllReduce_wf hs
  | reduceScatter => exact execReduceScatter_wf hs
  | allGather => exact execAllGather_wf hs
  | broadcast => exact execBroadcast_wf hs
  | powerState => exact execPowerState_wf hs
  | powerCap => exact execPowerCap_wf hs
  | settingsStore => exact execSettingsStore_wf hs
  | attest => exact execAttest_wf hs
  | contextSave => exact execContextSave_wf hs
  | contextRestore => exact execContextRestore_wf hs
  | logRead => exact execLogRead_wf hs
  | slotTableSet => exact execSlotTableSet_wf hs
  | cacheSplit => exact execCacheSplit_wf hs
  | fwActivate => exact execFwActivate_wf hs
  | fabricConfig => exact execFabricConfig_wf hs
  | nop => exact execNop_wf hs
  | commandFetch => exact execCommandFetch_wf hs
  | commandStart => exact execCommandStart_wf hs
  | depFuture => exact execDepFuture_wf hs
  | commandTimeout => exact execCommandTimeout_wf hs
  | counterDependencyTimeout => exact execCounterDependencyTimeout_wf hs
  | batchDeadline => exact execBatchDeadline_wf hs
  | statusEntryWrite => exact execStatusEntryWrite_wf hs
  | programNop => exact execProgramNop_wf hs
  | load => exact execLoad_wf hs
  | copy => dsimp only [exec]; exact execCopy_wf hs
  | vload => dsimp only [exec]; exact execVload_wf hs
  | sweep => exact execSweep_wf hs
  | bind => exact execBind_wf hs
  | vop => exact execVop_wf hs
  | sfop => exact execSfop_wf hs
  | smxSum => exact execSmxSum_wf hs
  | smxProb => exact execSmxProb_wf hs
  | rsClear => exact execRsClear_wf hs
  | rsFinish => exact execRsFinish_wf hs
  | rsOut => exact execRsOut_wf hs
  | rsIn => exact execRsIn_wf hs
  | rsAcc => exact execRsAcc_wf hs
  | gauss => exact execGauss_wf hs
  | vstore => dsimp only [exec]; exact execVstore_wf hs
  | wait => exact execWait_wf hs
  | signal => exact execSignal_wf hs
  | ldlen => exact execLdlen_wf hs
  | nest => exact execNest_wf hs
  | boundary => exact execBoundary_wf hs
  | fence => exact execFence_wf hs
  | endWord => exact execEndWord_wf hs
  | strandDone => exact execStrandDone_wf hs
  | bankDrain => exact execBankDrain_wf hs
  | bankRefill => exact execBankRefill_wf hs
  | checkVerdict => exact execCheckVerdict_wf hs
  | go => exact execGo_wf hs
  | admissionScan => exact execAdmissionScan_wf hs
  | abort => exact execAbort_wf hs
  | waitTimeout => exact execWaitTimeout_wf hs
  | counterWatchWake => exact execCounterWatchWake_wf hs
  | waitPoll => exact execWaitPoll_wf hs
  | pocketPatrolScrub => exact execPocketPatrolScrub_wf hs
  | tableLoad => exact execTableLoad_wf hs
  | tableLoadComplete => exact execTableLoadComplete_wf hs
  | sfEpochSwitch => exact execSfEpochSwitch_wf hs
  | oldBankRelease => exact execOldBankRelease_wf hs
  | slotCommit => exact execSlotCommit_wf hs
  | slotFrameBoundary => exact execSlotFrameBoundary_wf hs
  | cacheStepsWrite => exact execCacheStepsWrite_wf hs
  | stop => exact execStop_wf hs
  | start => exact execStart_wf hs
  | restart => exact execRestart_wf hs
  | retire => exact execRetire_wf hs
  | retrain => exact execRetrain_wf hs
  | edgeCommit => exact execEdgeCommit_wf hs
  | inService => exact execInService_wf hs
  | mode => exact execMode_wf hs
  | aqEnable => exact execAqEnable_wf hs
  | aqReset => exact execAqReset_wf hs
  | sqTail => exact execSqTail_wf hs
  | stqHead => exact execStqHead_wf hs
  | registerWrite => exact execRegisterWrite_wf hs
  | mgtCap => exact execMgtCap_wf hs
  | mgtResetKey => exact execMgtResetKey_wf hs
  | statusByte => exact execStatusByte_wf hs
  | statusWord => exact execStatusWord_wf hs
  | statusInput => exact execStatusInput_wf hs
  | statusTemperature => exact execStatusTemperature_wf hs
  | readVin => exact execReadVin_wf hs
  | readIin => exact execReadIin_wf hs
  | readPin => exact execReadPin_wf hs
  | readTemperature1 => exact execReadTemperature1_wf hs
  | readTemperature2 => exact execReadTemperature2_wf hs
  | readTemperature3 => exact execReadTemperature3_wf hs
  | pmbusRevision => exact execPmbusRevision_wf hs
  | mfrId => exact execMfrId_wf hs
  | mfrModel => exact execMfrModel_wf hs
  | mfrSerial => exact execMfrSerial_wf hs
  | mfrMgtAddr => exact execMfrMgtAddr_wf hs
  | mfrMgtData => exact execMfrMgtData_wf hs
  | pmbusRefused => exact execPmbusRefused_wf hs
  | alertResponse => exact execAlertResponse_wf hs
  | inputPowerUp => exact execInputPowerUp_wf hs
  | bootStageEnd => exact execBootStageEnd_wf hs
  | bootLimit => exact execBootLimit_wf hs
  | inputSample => exact execInputSample_wf hs
  | underVoltageShutdown => exact execUnderVoltageShutdown_wf hs
  | overVoltageShutdown => exact execOverVoltageShutdown_wf hs
  | inputRemoval => exact execInputRemoval_wf hs
  | thermalTrip => exact execThermalTrip_wf hs
  | capLoop => exact execCapLoop_wf hs
  | dutyHold => exact execDutyHold_wf hs
  | idleToReady => exact execIdleToReady_wf hs
  | pointChangeStep => exact execPointChangeStep_wf hs
  | keeperRound => exact execKeeperRound_wf hs
  | predictorUpdate => exact execPredictorUpdate_wf hs
  | coolantRead => exact execCoolantRead_wf hs
  | hbmTemperatureReadout => exact execHbmTemperatureReadout_wf hs
  | hbmRefresh => dsimp only [exec]; exact execHbmRefresh_wf hs
  | hbmPatrolScrub => exact execHbmPatrolScrub_wf hs
  | eventEscalation => exact execEventEscalation_wf hs
  | chamberFaultRecovery => exact execChamberFaultRecovery_wf hs
  | galleryHeartbeatMiss => exact execGalleryHeartbeatMiss_wf hs
  | galleryFault => exact execGalleryFault_wf hs
  | thermalHoldTimeout => exact execThermalHoldTimeout_wf hs
  | memoryDataRecovery => exact execMemoryDataRecovery_wf hs
  | channelFailure => exact execChannelFailure_wf hs
  | stackWithdrawal => exact execStackWithdrawal_wf hs
  | refetch => exact execRefetch_wf hs
  | dieLinkFailure => exact execDieLinkFailure_wf hs
  | detectSignal => exact execDetectSignal_wf hs
  | detectRetry => exact execDetectRetry_wf hs
  | equaliseComplete => exact execEqualiseComplete_wf hs
  | lockAcquired => exact execLockAcquired_wf hs
  | trainFail => exact execTrainFail_wf hs
  | capsFlit => exact execCapsFlit_wf hs
  | dataFlit => exact execDataFlit_wf hs
  | portFailure => exact execPortFailure_wf hs
  | portHistoryReady => exact execPortHistoryReady_wf hs
  | packetRoute => exact execPacketRoute_wf hs
  | data => exact execData_wf hs
  | xferDone => exact execXferDone_wf hs
  | xferNack => exact execXferNack_wf hs
  | segmentResend => exact execSegmentResend_wf hs
  | segmentEntryExpiry => exact execSegmentEntryExpiry_wf hs
  | timeFlitSend => exact execTimeFlitSend_wf hs
  | timeFlit => exact execTimeFlit_wf hs
  | dieTimeExchange => exact execDieTimeExchange_wf hs
  | claimGrant => exact execClaimGrant_wf hs
  | claim => exact execClaim_wf hs
  | piece => exact execPiece_wf hs
  | credit => exact execCredit_wf hs
  | done => exact execDone_wf hs
  | abortPacket => exact execAbortPacket_wf hs
  | collProgressTimeout => exact execCollProgressTimeout_wf hs
  | abortCompletion => exact execAbortCompletion_wf hs
  | probe => exact execProbe_wf hs
  | probeAck => exact execProbeAck_wf hs
  | probeTimeout => exact execProbeTimeout_wf hs
  | loss => exact execLoss_wf hs
  | lossCompletion => exact execLossCompletion_wf hs
  | linkDown => exact execLinkDown_wf hs
  | jobHello => exact execJobHello_wf hs
  | jobHelloAck => exact execJobHelloAck_wf hs
  | jobHelloTimeout => exact execJobHelloTimeout_wf hs
  | transportData => exact execTransportData_wf hs
  | transportAck => exact execTransportAck_wf hs
  | transportReset => exact execTransportReset_wf hs
  | edgeRto => exact execEdgeRto_wf hs
  | ackTimer => exact execAckTimer_wf hs
  | neighborSolicitation => exact execNeighborSolicitation_wf hs
  | echoRequest => exact execEchoRequest_wf hs
  | priorityFlowControl => exact execPriorityFlowControl_wf hs
  | frameDiscard => exact execFrameDiscard_wf hs
  | pcieReset => exact execPcieReset_wf hs
  | perstDeassert => exact execPerstDeassert_wf hs
  | trstN => exact execTrstN_wf hs
  | bypass => exact execBypass_wf hs
  | idcode => exact execIdcode_wf hs
  | samplePreload => exact execSamplePreload_wf hs
  | extest => exact execExtest_wf hs
  | svlStatus => exact execSvlStatus_wf hs
  | svlImgLoad => exact execSvlImgLoad_wf hs
  | svlImgCommit => exact execSvlImgCommit_wf hs
  | svlKeyProv => exact execSvlKeyProv_wf hs
  | keyTreeRebuild => exact execKeyTreeRebuild_wf hs
  | attestTokenRefill => exact execAttestTokenRefill_wf hs
  | nvLineWrite => exact execNvLineWrite_wf hs
  | interruptCoalescing => exact execInterruptCoalescing_wf hs
  | powerTransitionComplete => exact execPowerTransitionComplete_wf hs
  | busMasterEnable => exact execBusMasterEnable_wf hs
  | capsFlitSend => exact execCapsFlitSend_wf hs
  | dieLinkTrained => exact execDieLinkTrained_wf hs

theorem step_wf (hs : s.wf) : nextWf (step s) := by
  unfold step
  split
  · exact hs.tick
  · exact exec_wf hs.beside

end Sys2Proof.Machine

open Sys2Proof Sys2Proof.Machine

/-- Settles O58: by the command in front of the queue (`exec_wf`), or by the tick where the queue is empty. -/
theorem stepKeepsWf : Obligations.StepKeepsWf := by
  intro s t hs e
  have h : nextWf (step s) := step_wf hs
  rw [e] at h
  exact h
end

section
/-!
What the reads of memory move, said once (`readsOnly`, `readEffect`), in the manner of `State.wf.op`: each operation of a read has a
lemma `readEffect.op`, whose proof is the body of the definition read from left to right.
-/
namespace Sys2Proof.Machine

/-! ### Tables whose values all have a property -/

section
variable {V : Type} {d : V} {P : V → Prop} {tbl : Tbl V}

theorem tget_of_forall (h : ∀ e ∈ tbl, P e.2) (hd : P d) (x : Nat) : P (tget d tbl x) := by
  induction tbl with
  | nil => exact hd
  | cons e tbl ih =>
    obtain ⟨hv, ht⟩ := List.forall_mem_cons.1 h
    rw [tget_cons]
    split
    · exact hv
    · exact ih ht

theorem forall_tset [DecidableEq V] (h : ∀ e ∈ tbl, P e.2) (x : Nat) {v : V} (hv : P v) : ∀ e ∈ tset d tbl x v, P e.2 := by
  induction tbl with
  | nil => unfold tset; split <;> simp [hv]
  | cons e tbl ih =>
    have del : ∀ {l : Tbl V}, (∀ e ∈ l, P e.2) → ∀ e ∈ tdel l x, P e.2 := fun hl e he => hl e (List.mem_filter.1 he).1
    obtain ⟨he, ht⟩ := List.forall_mem_cons.1 h
    unfold tset
    split
    · split
      · exact del h
      · exact List.forall_mem_cons.2 ⟨hv, h⟩
    · split
      · split
        · exact del ht
        · exact List.forall_mem_cons.2 ⟨hv, ht⟩
      · exact List.forall_mem_cons.2 ⟨he, ih ht⟩

end

/-! ### Blocks that are marked for refetching (R343) -/

theorem State.refetching_eq_false {s : State} :
    s.refetching = false ↔ s.lost = [] ∧ ∀ e ∈ s.gmem, e.2.refetch = [] := by
  simp [State.refetching]

/-- An update of a Gallery that keeps its bitmap marks no block. -/
theorem State.refetching_modGallery {s : State} {g : Nat} {f : GalleryMem → GalleryMem} (hf : ∀ x, (f x).refetch = x.refetch)
    (h : s.refetching = false) : (s.modGallery g f).refetching = false := by
  rw [State.refetching_eq_false] at h ⊢
  refine ⟨h.1, forall_tset (P := fun x : GalleryMem => x.refetch = []) h.2 g ?_⟩
  rw [hf]
  exact tget_of_forall (P := fun x : GalleryMem => x.refetch = []) h.2 rfl g

/-! ### Frames: what follows what -/

section
variable {s t u : State} {c i : Nat} {q : Field → Nat → Nat → Prop}

theorem sameRegs.trans {p : Field → Nat → Nat → Prop} (h : sameRegs p s t) (k : sameRegs p t u) : sameRegs p s u :=
  fun f v j hn => (k f v j hn).trans (h f v j hn)

theorem sameRegs.mono {p p' : Field → Nat → Nat → Prop} (h : sameRegs p s t) (hp : ∀ f v j, p f v j → p' f v j) :
    sameRegs p' s t := fun f v j hn => h f v j fun x => hn (hp f v j x)

theorem chamberFrame.trans (h : chamberFrame c i s t) (k : chamberFrame c i t u) : chamberFrame c i s u :=
  ⟨fun d hd => (k.others d hd).trans (h.others d hd), fun j hj => (k.strands j hj).trans (h.strands j hj),
    k.banks.trans h.banks, k.store.trans h.store, k.ring.trans h.ring,
    ⟨k.tables.1.trans h.tables.1, k.tables.2.trans h.tables.2⟩⟩

/-- A change of strand `i` alone. -/
theorem chamberFrame_modStrand (s : State) (c i : Nat) (f : Strand → Strand) : chamberFrame c i s (s.modStrand c i f) := by
  refine ⟨fun d hd => ?_, fun j hj => ?_, ?_, ?_, ?_, ?_⟩
  · exact State.chamber_modChamber_ne s _ hd
  · exact State.strand_modStrand_ne s f fun h => hj h.2
  all_goals simp [State.modStrand, Chamber.setStrand]

theorem chamberFrame_setReg (s : State) (c i : Nat) {f u j v} : chamberFrame c i s (s.setReg f u j v) :=
  ⟨fun _ _ => rfl, fun _ _ => rfl, rfl, rfl, rfl, rfl, rfl⟩

theorem outsideSame_modStrand {j f} : outsideSame s (s.modStrand c j f) := rfl

theorem outsideSame_setReg_iff {f u j v} : outsideSame s (t.setReg f u j v) ↔ outsideSame s t := Iff.rfl

/-- What an operation that reads memory may have moved, its Chamber left aside: what `outsideReads` lists, the registers of
`trafficReg` and those that `q` names. Where no block is marked for refetching, none becomes marked, so such operations compose. -/
structure readsOnly (q : Field → Nat → Nat → Prop) (s t : State) : Prop where
  outside : { t with regs := s.regs, chambers := s.chambers, soft := s.soft, gmem := s.gmem, caches := s.caches
                     sharers := s.sharers, fresh := s.fresh, poison := s.poison, lost := s.lost } = s
  galleries : ∀ g, { t.gallery g with corrected := (s.gallery g).corrected, refetch := (s.gallery g).refetch } = s.gallery g
  regs : sameRegs (fun f v j => trafficReg f ∨ q f v j) s t
  still : s.refetching = false → t.refetching = false ∧ t.poison = s.poison ∧ t.lost = s.lost

theorem readsOnly.outsideReads (h : readsOnly q s t) : outsideReads s t := ⟨h.outside, h.galleries, fun hs => (h.still hs).2⟩

theorem readsOnly.trans (h : readsOnly q s t) (k : readsOnly q t u) : readsOnly q s u where
  outside := (congrArg (fun x : State =>
    { x with regs := s.regs, chambers := s.chambers, soft := s.soft, gmem := s.gmem, caches := s.caches, sharers := s.sharers
             fresh := s.fresh, poison := s.poison, lost := s.lost }) k.outside).trans h.outside
  galleries g := (congrArg (fun x : GalleryMem =>
    { x with corrected := (s.gallery g).corrected, refetch := (s.gallery g).refetch }) (k.galleries g)).trans (h.galleries g)
  regs := h.regs.trans k.regs
  still hs := by
    obtain ⟨ht, hp, hl⟩ := h.still hs
    obtain ⟨hu, kp, kl⟩ := k.still ht
    exact ⟨hu, kp.trans hp, kl.trans hl⟩

theorem readsOnly.mono {q' : Field → Nat → Nat → Prop} (h : readsOnly q s t) (hq : ∀ f v j, q f v j → q' f v j) :
    readsOnly q' s t := { h with regs := h.regs.mono fun f v j => Or.imp_right (hq f v j) }

/-- What moves registers and Chambers only is among it. -/
theorem readsOnly.of_outsideSame (h : outsideSame s t) (hr : sameRegs q s t) : readsOnly q s t := by
  have e : t = { s with regs := t.regs, chambers := t.chambers } := by
    unfold outsideSame at h
    exact congrArg (fun x : State => { x with regs := t.regs, chambers := t.chambers }) h
  refine ⟨?_, fun g => ?_, hr.mono fun _ _ _ => .inr, fun hs => ?_⟩
  · rw [e]
  · rw [e]; rfl
  · rw [e]; exact ⟨hs, rfl, rfl⟩

/-- What reads of memory by Chamber `c` do: of the Chambers, they move only the decoded-block cache and the list of formed check
values of `c` (R79, R200). -/
structure readEffect (c : Nat) (q : Field → Nat → Nat → Prop) (s t : State) : Prop extends reads : readsOnly q s t where
  others : ∀ d, d ≠ c → t.chamber d = s.chamber d
  kept : { t.chamber c with formed := (s.chamber c).formed, decoded := (s.chamber c).decoded } = s.chamber c

theorem readEffect.refl : readEffect c q s s :=
  ⟨⟨rfl, fun _ => rfl, fun _ _ _ _ => rfl, fun hs => ⟨hs, rfl, rfl⟩⟩, fun _ _ => rfl, rfl⟩

/-- A part of the Chamber that reads do not move. -/
theorem readEffect.part {A : Type} (h : readEffect c q s t) (g : Chamber → A)
    (hg : ∀ x y : Chamber, g { x with formed := y.formed, decoded := y.decoded } = g x) : g (t.chamber c) = g (s.chamber c) :=
  (hg _ _).symm.trans (congrArg g h.kept)

theorem readEffect.strand (h : readEffect c q s t) (j : Nat) : t.strand c j = s.strand c j := h.part (·.strand j) fun _ _ => rfl

theorem readEffect.bank (h : readEffect c q s t) (b : Nat) : (t.chamber c).bank b = (s.chamber c).bank b :=
  h.part (·.bank b) fun _ _ => rfl

theorem readEffect.chamberFrame (h : readEffect c q s t) : Machine.chamberFrame c i s t :=
  ⟨h.others, fun j _ => h.strand j, h.part Chamber.banks fun _ _ => rfl, h.part Chamber.store fun _ _ => rfl,
    h.part Chamber.boundaryPos fun _ _ => rfl, h.part Chamber.sf0 fun _ _ => rfl, h.part Chamber.sf1 fun _ _ => rfl⟩

/-! Updates that make up the operations of a read. -/

/-- An update of what a read moves outside registers, Chambers, Galleries and marks. -/
theorem readEffect.beside {soft fresh caches sharers} (h : readEffect c q s t) :
    readEffect c q s { t with soft := soft, fresh := fresh, caches := caches, sharers := sharers } :=
  ⟨⟨h.outside, h.galleries, h.regs, h.still⟩, h.others, h.kept⟩

/-- An update of the marks, where some block may be marked. -/
theorem readEffect.marks {poison lost} (h : readEffect c q s t) (hs : s.refetching = true) :
    readEffect c q s { t with poison := poison, lost := lost } :=
  ⟨⟨h.outside, h.galleries, h.regs, fun x => absurd hs (by simp [x])⟩, h.others, h.kept⟩

theorem readEffect.modGallery {g f} (h : readEffect c q s t)
    (hf : ∀ x y : GalleryMem, { f x with corrected := y.corrected, refetch := y.refetch } =
      { x with corrected := y.corrected, refetch := y.refetch })
    (hr : s.refetching = false → ∀ x, (f x).refetch = x.refetch) : readEffect c q s (t.modGallery g f) := by
  refine ⟨⟨h.outside, fun k => ?_, h.regs, fun hs => ?_⟩, h.others, h.kept⟩
  · by_cases hk : k = g
    · subst hk
      rw [State.gallery_modGallery_same, hf]
      exact h.galleries k
    · rw [State.gallery_modGallery_ne _ _ hk]
      exact h.galleries k
  · obtain ⟨ht, hp, hl⟩ := h.still hs
    exact ⟨State.refetching_modGallery (hr hs) ht, hp, hl⟩

theorem readEffect.setReg {f u j v} (h : readEffect c q s t) (hf : trafficReg f ∨ q f u j) : readEffect c q s (t.setReg f u j v) :=
  ⟨⟨h.outside, h.galleries, h.regs.trans (sameRegs_setReg.mono (by rintro _ _ _ ⟨rfl, rfl, rfl⟩; exact hf)), h.still⟩,
    h.others, h.kept⟩

/-- An update of the two parts of the Chamber that reads move. -/
theorem readEffect.modChamber {f} (h : readEffect c q s t)
    (hf : ∀ x y : Chamber, { f x with formed := y.formed, decoded := y.decoded } =
      { x with formed := y.formed, decoded := y.decoded }) : readEffect c q s (t.modChamber c f) := by
  refine ⟨⟨h.outside, h.galleries, h.regs, h.still⟩, fun d hd => ?_, ?_⟩
  · rw [State.chamber_modChamber_ne _ _ hd]; exact h.others d hd
  · rw [State.chamber_modChamber_same, hf]; exact h.kept

/-! Rules for the shapes of a body. -/

theorem readEffect.unless {p : Prop} [Decidable p] (h : readEffect c q s t) (hu : readEffect c q s t → readEffect c q s u) :
    readEffect c q s (if p then t else u) := by
  split
  · exact h
  · exact hu h

theorem readEffect.when {p : Prop} [Decidable p] (h : readEffect c q s t) (hu : readEffect c q s t → readEffect c q s u) :
    readEffect c q s (if p then u else t) := by
  split
  · exact hu h
  · exact h

theorem readEffect.foldl {A : Type} {k : State → A → State} {l : List A} (h : readEffect c q s t)
    (hk : ∀ {t a}, readEffect c q s t → readEffect c q s (k t a)) : readEffect c q s (l.foldl k t) :=
  List.foldlRecOn l k (motive := readEffect c q s) h fun _ ht _ _ => hk ht

theorem readEffect.ofSnd {A : Type} {p : A × State} {a : A} (h : readEffect c q s p.2) (e : p = (a, t) := by assumption) :
    readEffect c q s t := by
  subst e
  exact h

/-! Requests, the Gallery caches and the sharer filters (R224, R230 to R232). -/

/-- A counter of the traffic. -/
theorem readEffect.count {f u j v} (h : readEffect c q s t) (hf : trafficReg f := by simp [trafficReg]) :
    readEffect c q s (t.setReg f u j v) := h.setReg (.inl hf)

theorem readEffect.request {k cls n} (h : readEffect c q s t) : readEffect c q s (t.request k cls n) := h.count
theorem readEffect.takeFree (h : readEffect c q s t) : readEffect c q s t.takeFree.2 := h.beside
theorem readEffect.setCache {g x} (h : readEffect c q s t) : readEffect c q s (t.setCache g x) := h.beside
theorem readEffect.setSharer {k x} (h : readEffect c q s t) : readEffect c q s (t.setSharer k x) := h.beside
theorem readEffect.dropLine {line g} (h : readEffect c q s t) : readEffect c q s (t.dropLine line g) := h.setCache

theorem readEffect.recordSharer {line g} (h : readEffect c q s t) : readEffect c q s (t.recordSharer line g) := by
  fun_cases t.recordSharer line g
  · exact h.takeFree.ofSnd.count
  · exact h.setSharer
  · exact h.setSharer
  · exact h.foldl .dropLine |>.setSharer.count

theorem readEffect.install {g line mask} (h : readEffect c q s t) : readEffect c q s (t.install g line mask) := by
  fun_cases t.install g line mask
  · exact h.setCache
  · exact h.setCache
  · exact h.takeFree.ofSnd.setCache

theorem readEffect.cached {g line mask} (h : readEffect c q s t) : readEffect c q s (t.cached g line mask).2 := by
  fun_cases t.cached g line mask
  · exact h
  · exact h.takeFree.ofSnd
  · exact h

theorem readEffect.readLine {who cls mask a} (h : readEffect c q s t) : readEffect c q s (t.readLine who cls mask a).2 := by
  fun_cases t.readLine who cls mask a
  · exact h.request.count
  · exact h.cached.ofSnd.count.setCache
  · exact h.cached.ofSnd.request.count
  · exact h.cached.ofSnd.count.recordSharer.request.count.unless .install

/-! Corrected errors, the line path, the Drip path and page walks (R87, R157, R172, R234, R236, R237). -/

theorem readEffect.corrRead {a} (h : readEffect c q s t) : readEffect c q s (t.corrRead a) := by
  fun_cases t.corrRead a
  · exact h.count.modGallery (fun _ _ => rfl) (fun _ _ => rfl)
  iterate 3 exact h.count
  · exact h

theorem readEffect.noteRead {a n} (h : readEffect c q s t) : readEffect c q s (t.noteRead a n) := h.beside.foldl .corrRead

theorem readEffect.dripRead {g a n} (h : readEffect c q s t) : readEffect c q s (t.dripRead g a n).2 := by
  fun_cases t.dripRead g a n
  · exact (h.unless .noteRead).count
  · exact (h.unless .noteRead).count.readLine

theorem readEffect.readLines {d cls xs} (h : readEffect c q s t) : readEffect c q s (t.readLines d cls xs) :=
  (h.unless fun h => h.foldl .noteRead).foldl .readLine

theorem readEffect.walkPages {d r lps} (h : readEffect c q s t) : readEffect c q s (t.walkPages d r lps) :=
  h.count.foldl fun h => h.dripRead.unless .count

theorem readEffect.walkView {d v lps} (h : readEffect c q s t) : readEffect c q s (t.walkView d v lps) := by
  fun_cases t.walkView d v lps
  · exact h.walkPages
  · exact h

/-! Blocks that are fetched again (R343). -/

theorem readEffect.showBlock {b} (h : readEffect c q s t) (hs : s.refetching = true) : readEffect c q s (t.showBlock b) := by
  fun_cases t.showBlock b
  · exact h
  · exact (h.foldl (.marks · hs)).marks hs

theorem readEffect.restoreMarks {lo hi} (h : readEffect c q s t) (hs : s.refetching = true) :
    readEffect c q s (t.restoreMarks lo hi) := h.marks hs

theorem readEffect.refetchBlock {b} (h : readEffect c q s t) (hs : s.refetching = true) : readEffect c q s (t.refetchBlock b) := by
  refine h.when fun h => .marks (.modGallery ((h.showBlock hs).restoreMarks hs) (fun _ _ => rfl) fun x => ?_) hs
  exact absurd hs (by simp [x])

theorem readEffect.refetchAt {as} (h : readEffect c q s t) (hs : s.refetching = true) : readEffect c q s (t.refetchAt as) :=
  h.unless fun h => h.foldl (.refetchBlock · hs)

/-- The elements of a read: what is fetched again first, and only where a block may be marked. -/
theorem readEffect.readFetched (v : View) (s : State) (ps : List (Nat × Nat)) : readEffect c q s (v.readFetched s ps).1 := by
  fun_cases Machine.View.readFetched v s ps
  · exact .refl
  · exact .refl
  · exact readEffect.refl.refetchAt (by simp_all)

/-! The counters of a Chamber's reads (R106, R198, R202) and its check values (R79). -/

theorem readEffect.decodeBlocks {v xs} (h : readEffect c q s t) (hq : q .chFsDecBlocks c 0) :
    readEffect c q s (t.decodeBlocks c v xs) := by
  fun_cases t.decodeBlocks c v xs
  exact .modChamber (h.setReg (.inr hq)) fun _ _ => rfl

theorem readEffect.countRead {v xs} (h : readEffect c q s t)
    (hq : ∀ f ∈ [Field.chLoadBytes, .chConvZeroElems, .chFsDecBlocks], q f c 0) :
    readEffect c q s (t.countRead c v xs) :=
  ((h.readLines.setReg (.inr (hq _ (by simp)))).setReg (.inr (hq _ (by simp)))).decodeBlocks (hq _ (by simp))

theorem readEffect.formCheck {v sp} (h : readEffect c q s t) (hq : q .chVecCycles c 0) : readEffect c q s (t.formCheck c v sp) :=
  h.unless fun h => (h.setReg (.inr hq)).when (·.modChamber fun _ _ => rfl)

theorem readEffect.numFlags {i mask} (h : readEffect c q s t) (hq : ∀ f u k, flagReg c i f u k → q f u k) :
    readEffect c q s (t.numFlags c i mask) := by
  obtain ⟨r, e, hr⟩ := t.numFlags_spec c i mask
  have hs : readsOnly q t (t.numFlags c i mask) := .of_outsideSame (by unfold outsideSame; rw [e]) (hr.mono hq)
  have hc : ∀ d, (t.numFlags c i mask).chamber d = t.chamber d := fun d => by rw [e]; rfl
  exact ⟨h.reads.trans hs, fun d hd => (hc d).trans (h.others d hd), by rw [hc]; exact h.kept⟩

end

/-! ### Words that pass -/

section
variable {s s1 : State} {c i : Nat}

/-- A strand with no word of a NEST may issue any word of its program. -/
theorem mayIssue_of_program (h : issues c i s) (e : Option EWord) : s.mayIssue c i e = true := by
  have he := emit_of_mayIssue h.2
  rw [← h.2]
  simp only [State.mayIssue, he]

theorem State.noteIssue_strand (s : State) (c i : Nat) (b : Bool) :
    (s.noteIssue c i b).strand c i = { s.strand c i with lastIssue := (s.chamber c).issues + 1 } := by
  have e : (s.noteIssue c i b).chambers = ((s.modChamber c fun x => { x with issues := x.issues + 1 }).modStrand c i fun t =>
      { t with lastIssue := ((s.modChamber c fun x => { x with issues := x.issues + 1 }).chamber c).issues }).chambers := by
    simp only [State.noteIssue]
    split <;> split <;> rfl
  have k : ∀ u v : State, u.chambers = v.chambers → u.strand c i = v.strand c i := fun u v h => by
    unfold State.strand State.chamber; rw [h]
  rw [k _ _ e, State.strand_modStrand_same]
  simp only [State.strand, State.chamber_modChamber_same]
  rfl

theorem State.passWord_eq (he : (s.strand c i).emit = []) (b : Bool) :
    s.passWord c i b = (s.setReg .chPc c i (s.reg .chPc c i + 1)).noteIssue c i b := by
  have em := congrArg Strand.emit ((s.setReg .chPc c i (s.reg .chPc c i + 1)).noteIssue_strand c i b)
  rw [State.strand_setReg, he] at em
  simp only [State.passWord, he, State.nestStop, em]

/-- Beside the count of issued words, a word that is skipped passes as one that issues does (R106, R139). -/
theorem State.passWord_true_eq (he : (s.strand c i).emit = []) :
    s.passWord c i true = (s.passWord c i false).bump .chIssued c 1 i := by
  rw [State.passWord_eq he, State.passWord_eq he]
  rfl

/-- What passing a word does whether it has issued or is skipped. -/
theorem State.passWord_either (he : (s.strand c i).emit = [])
    (hs : s.reg .chState c i = psReady ∨ s.reg .chState c i = psRunning) (b : Bool) :
    outsideSame s (s.passWord c i b) ∧ (s.passWord c i b).reg .chPc c i = (s.reg .chPc c i + 1) % 2 ^ 16 ∧
      (s.passWord c i b).strand c i = { s.strand c i with lastIssue := (s.chamber c).issues + 1 } := by
  obtain ⟨⟨hpc, -, -⟩, -, ho, -, -, hk⟩ := s.passWord_passed he hs
  cases b with
  | true => exact ⟨ho, hpc, hk⟩
  | false =>
    rw [State.passWord_true_eq he, State.bump_eq] at ho hpc hk
    rw [State.reg_setReg_field _ _ _ _ _ _ (by simp)] at hpc
    rw [State.strand_setReg] at hk
    exact ⟨outsideSame_setReg_iff.1 ho, hpc, hk⟩

theorem State.passWord_skipped_issued (he : (s.strand c i).emit = []) :
    (s.passWord c i false).reg .chIssued c i = s.reg .chIssued c i := by
  rw [State.passWord_eq he]
  simp only [State.noteIssue, Bool.false_eq_true, if_false]
  split <;> simp [State.reg_setReg]

/-- The registers of a word's issue are none of those that its reads move. -/
theorem readsOnly.issue_reg {fs : List Field} {f : Field}
    (hr : readsOnly (fun f u k => flagReg c i f u k ∨ (u = c ∧ k = 0 ∧ f ∈ fs)) s s1)
    (hf : f ∈ [Field.chPc, .chIssued, .chState]) (hfs : ∀ f ∈ fs, f ∉ [Field.chPc, .chIssued, .chState]) :
    s1.reg f c i = s.reg f c i := by
  refine hr.regs f c i fun x => ?_
  have notIn : ∀ l : List Field, (∀ g ∈ l, g ∉ [Field.chPc, .chIssued, .chState]) → f ∉ l := fun l hl h => hl f h hf
  obtain x | ⟨-, ⟨-, x⟩ | ⟨-, x⟩⟩ | ⟨-, -, x⟩ := x
  · exact notIn _ (by decide) x
  · exact notIn _ (by decide) x
  · exact notIn [.chStrandNumFlags] (by decide) (List.mem_singleton.2 x)
  · exact notIn _ hfs x

/-- A word that reads tensors, whose work is `s1` from `s` and that then passes, as a frame. -/
theorem readFrame_of {fs : List Field} (h : issues c i s)
    (hr : readsOnly (fun f u k => flagReg c i f u k ∨ (u = c ∧ k = 0 ∧ f ∈ fs)) s s1) (hf : chamberFrame c i s s1)
    (he : (s1.strand c i).emit = []) (hfs : ∀ f ∈ fs, f ∉ [Field.chPc, .chIssued, .chState]) :
    readFrame c i fs s (s1.passWord c i true) := by
  have live := state_of_live (live_of_mayIssue h.2)
  rw [← hr.issue_reg (by simp) hfs] at live
  obtain ⟨⟨hpc, hi, hst⟩, hregs, ho, hch, -, -⟩ := s1.passWord_passed he live
  have all : readsOnly (fun f u k => issueReg c i f u k ∨ flagReg c i f u k ∨ (u = c ∧ k = 0 ∧ f ∈ fs)) s
      (s1.passWord c i true) :=
    (hr.mono fun _ _ _ => .inr).trans (.of_outsideSame ho (hregs.mono fun _ _ _ => .inl))
  refine ⟨⟨?_, ?_, hst⟩, all.outsideReads, hf.trans hch, all.regs.mono ?_⟩
  · rw [hpc, hr.issue_reg (by simp) hfs]
  · rw [hi, hr.issue_reg (by simp) hfs]
  · rintro f u k (x | x | x | x)
    · exact .inr (.inr (.inr x))
    · exact .inl x
    · exact .inr (.inl x)
    · exact .inr (.inr (.inl x))

end

end Sys2Proof.Machine
end

section
/-!
LOAD and the refill of a bank.
-/
namespace Sys2Proof.Machine

/-! ### A tile for a feed queue (R58, R63, R88) -/

section
variable {s : State} {c i target : Nat} {tile : Tile}

theorem State.deliver_strand : (s.deliver c i target tile).strand c i =
    if target = 0 then { s.strand c i with feedA := (s.strand c i).feedA ++ [tile] }
    else { s.strand c i with feedB := (s.strand c i).feedB ++ [tile] } := by
  unfold State.deliver State.syncFeed
  simp [State.put_eq]

theorem State.deliver_emit : ((s.deliver c i target tile).strand c i).emit = (s.strand c i).emit := by
  rw [State.deliver_strand]; split <;> rfl

theorem State.deliver_outside : outsideSame s (s.deliver c i target tile) := rfl

theorem State.deliver_regs :
    sameRegs (fun f u k => u = c ∧ k = 0 ∧ f ∈ [Field.chAfeedLevel, .chBfeedLevel]) s (s.deliver c i target tile) := by
  unfold State.deliver State.syncFeed
  refine .trans (t := s.modStrand c i _) (fun _ _ _ _ => rfl) ((sameRegs_setReg.mono ?_).trans (sameRegs_setReg.mono ?_)) <;>
  · rintro _ _ _ ⟨rfl, rfl, rfl⟩; simp

theorem State.deliver_reg {f : Field} {u k : Nat} (hf : f ∉ [Field.chAfeedLevel, .chBfeedLevel]) :
    (s.deliver c i target tile).reg f u k = s.reg f u k := State.deliver_regs f u k fun h => hf h.2.2

theorem State.deliver_state (hs : s.reg .chState c i = psReady ∨ s.reg .chState c i = psRunning) :
    (s.deliver c i target tile).reg .chState c i = psReady ∨ (s.deliver c i target tile).reg .chState c i = psRunning := by
  rwa [State.deliver_reg (by simp)]

theorem State.deliver_frame : chamberFrame c i s (s.deliver c i target tile) :=
  ((chamberFrame_modStrand s c i _).trans (chamberFrame_setReg _ c i)).trans (chamberFrame_setReg _ c i)

/-- The feed queues after a tile has been delivered and its LOAD has passed. -/
theorem State.deliver_passWord_feeds (he : (s.strand c i).emit = [])
    (hs : s.reg .chState c i = psReady ∨ s.reg .chState c i = psRunning) (b : Bool) :
    (((s.deliver c i target tile).passWord c i b).strand c i).feedA =
        (if target = 0 then (s.strand c i).feedA ++ [tile] else (s.strand c i).feedA) ∧
      (((s.deliver c i target tile).passWord c i b).strand c i).feedB =
        (if target = 0 then (s.strand c i).feedB else (s.strand c i).feedB ++ [tile]) := by
  obtain ⟨-, -, hst⟩ := State.passWord_either (State.deliver_emit.trans he) (State.deliver_state hs) b
  rw [hst, State.deliver_strand]
  split <;> exact ⟨rfl, rfl⟩

end

/-- What a LOAD delivers of an element: the Load's conversion of its stored code, or the zero code beyond a length (R58, R88). -/
def deliveredCode (strict : Bool) (stored deliver : Nat) (x : Elem1) : Nat :=
  match x.code with | some code => (loadConvert strict stored deliver code).1 | none => zeroCode deliver

theorem feedWord_codes (strict : Bool) (stored deliver : Nat) (xs : List Elem1) :
    (feedWord strict stored deliver xs).1 = xs.map (deliveredCode strict stored deliver) := by
  simp only [feedWord, List.map_map]
  refine List.map_congr_left fun x _ => ?_
  cases hx : x.code <;> simp [deliveredCode, hx]

/-- Element `j` of word `k` of a list that is cut into 128 words of 128. -/
theorem getD_getD_words {A B : Type} (f : A → B) (d : B) (xs : List A) {k j : Nat} (hk : k < 128) (hj : j < 128) :
    ((((List.range 128).map fun r => ((xs.drop (128 * r)).take 128).map f).getD k []).getD j d) =
      (xs[128 * k + j]?.map f).getD d := by
  simp [List.getD_eq_getElem?_getD, hk, hj]

theorem poisonGrains_eq_nil {xs : List Elem1} (h : ∀ x ∈ xs, x.poisoned = false) : poisonGrains xs = [] := by
  unfold poisonGrains
  induction xs with
  | nil => rfl
  | cons x xs ih =>
    obtain ⟨hx, hxs⟩ := List.forall_mem_cons.1 h
    rw [List.foldl_cons, hx]
    exact ih hxs

theorem State.feedUncorr_of_clean {s : State} {c i : Nat} {xs : List Elem1} (h : ∀ x ∈ xs, x.poisoned = false) :
    s.feedUncorr c i xs = s := by
  rw [State.feedUncorr, poisonGrains_eq_nil h]
  rfl

/-- The Chamber's registers that a feed LOAD writes beside those of its issue and of the numeric flags. -/
def feedFields : List Field :=
  [.chLoadBytes, .chConvZeroElems, .chFsDecBlocks, .chPrismTiles, .chVecCycles, .chAfeedLevel, .chBfeedLevel]

/-- A tile that a LOAD has read without meeting poison: its bounds are those of its operand, and its words are the elements read,
converted, 128 to a word. -/
structure readTile (strict : Bool) (v : View) (o : OpInfo) (xs : List Elem1) (tile : Tile) : Prop where
  poison : tile.poison = []
  kEnd : tile.kEnd = o.kEnd
  mnEnd : tile.mnEnd = o.mnEnd
  words : ∀ k j, k < 128 → j < 128 →
    (tile.words.getD k []).getD j 0 = (xs[128 * k + j]?.map (deliveredCode strict v.d.format v.d.deliver)).getD 0

/-- What a feed LOAD that reads does, whole: its reads, then the tile into its queue, and the word has issued. -/
theorem State.loadFeed_spec {s s' : State} {c i desc target : Nat} {v : View} {o : OpInfo} {sp : Span} {xs : List Elem1}
    (hrd : v.readFetched s ((List.range 128).flatMap (feedPlaces v.role o.blkK o.blkMN)) = (s', .ok xs))
    (hx : ∀ x ∈ xs, x.poisoned = false) :
    ∃ s1 tile, s.loadFeed c i desc target v o sp = (s1.deliver c i target tile).passWord c i true ∧
      readEffect c (fun f u k => flagReg c i f u k ∨ (u = c ∧ k = 0 ∧ f ∈ feedFields)) s s1 ∧
      readTile (s.strandStrict c i) v o xs tile := by
  have h0 := readEffect.readFetched (c := c)
    (q := fun f u k => flagReg c i f u k ∨ (u = c ∧ k = 0 ∧ f ∈ feedFields)) v s
      ((List.range 128).flatMap (feedPlaces v.role o.blkK o.blkMN))
  rw [hrd] at h0
  unfold State.loadFeed
  simp only [hrd, State.feedUncorr_of_clean hx]
  refine ⟨_, _, rfl, ?_, ?_, rfl, rfl, fun k j hk hj => ?_⟩
  · refine .walkView (.when (.when ((h0.numFlags fun _ _ _ => .inl).countRead ?_) ?_) ?_)
    · intro f hf
      exact .inr ⟨rfl, rfl, (by decide : [Field.chLoadBytes, .chConvZeroElems, .chFsDecBlocks] ⊆ feedFields) hf⟩
    · exact fun h => h.setReg (.inr (.inr ⟨rfl, rfl, by simp [feedFields]⟩))
    · exact (·.formCheck (.inr ⟨rfl, rfl, by simp [feedFields]⟩))
  · refine List.filter_eq_nil_iff.2 fun k hk => ?_
    simp only [List.mem_range] at hk
    simp only [List.getD_eq_getElem?_getD, List.getElem?_map, List.getElem?_range hk, Option.map_some, Option.getD_some,
      List.any_eq_true, not_exists, not_and, Bool.not_eq_true]
    exact fun x hm => hx x (List.mem_of_mem_drop (List.mem_of_mem_take hm))
  · rw [← getD_getD_words _ _ _ hk hj]
    simp only [List.map_map]
    congr 3
    exact funext fun r => feedWord_codes _ _ _ _

/-! ### A LOAD by its target -/

section
variable {s : State} {c i desc target bank blkK blkMN : Nat}

theorem execLoad_feed (h : issues c i s) (hp : s.entryPoison c i [desc] = none) (ht : target < 2) :
    exec (.load c i desc target bank blkK blkMN) s = .next (s.loadOperand c i desc target blkK blkMN) := by
  show execLoad c i desc target bank blkK blkMN s = _
  simp [execLoad, settle_of_mayIssue h.1 h.2, mayIssue_of_program h, hp, Nat.le_of_lt_succ ht]

theorem execLoad_refill (h : issues c i s) (hp : s.entryPoison c i [desc] = none) :
    exec (.load c i desc 2 bank blkK blkMN) s = .next (s.loadRefill c i desc bank blkK blkMN) := by
  show execLoad c i desc 2 bank blkK blkMN s = _
  simp [execLoad, settle_of_mayIssue h.1 h.2, mayIssue_of_program h, hp]

/-- The number, among the SWEEPs ahead, of the one that a LOAD feeds: that of the tiles of its target that wait. -/
def State.feedCount (s : State) (c i target : Nat) : Nat :=
  if target = 0 then (s.strand c i).feedA.length else (s.strand c i).feedB.length

/-- A LOAD of a SWEEP that is skipped delivers a tile that nothing has been read for. -/
theorem State.loadOperand_skipped (he : (s.strand c i).emit = []) (hr : s.sweepReads c i (s.feedCount c i target) = false) :
    ∃ tile, s.loadOperand c i desc target blkK blkMN = (s.deliver c i target tile).passWord c i false := by
  unfold State.feedCount at hr
  simp only [State.loadOperand, he, hr, Bool.not_false, Bool.or_true, if_true]
  exact ⟨_, rfl⟩

/-- The range that a feed LOAD reads (R101). -/
def feedSpan (v : View) (target blkK blkMN : Nat) : Span :=
  if target = 0 then v.span (128 * blkMN) 128 (128 * blkK) 128 else v.span (128 * blkK) 128 (128 * blkMN) 128

theorem State.loadOperand_read {v : View} {o : OpInfo} (he : (s.strand c i).emit = [])
    (hr : s.sweepReads c i (s.feedCount c i target) = true)
    (hv : (mkView s c desc (s.descBytes c i desc) (if target = 0 then .opA else .opB) (s.wordCtx c i)).map
      (s.jointK c i (s.feedCount c i target) target) = .ok v) (ho : v.info s blkK blkMN = .ok o)
    (hw : s.mustWait c i (feedSpan v target blkK blkMN) = false) :
    s.loadOperand c i desc target blkK blkMN = s.loadFeed c i desc target v o (feedSpan v target blkK blkMN) := by
  unfold State.feedCount at hr hv
  unfold feedSpan at hw ⊢
  unfold State.loadOperand
  cases hm : mkView s c desc (s.descBytes c i desc) (if target = 0 then .opA else .opB) (s.wordCtx c i) with
  | error e => rw [hm] at hv; cases hv
  | ok v0 =>
    rw [hm] at hv
    obtain rfl : s.jointK c i _ target v0 = v := Except.ok.inj hv
    simp only [he, hr, hm, ho, hw, Bool.not_true, Bool.or_false, Bool.false_eq_true, if_false]

/-- The view of a LOAD that refills, and the range that the refill reads. -/
def State.refillView (s : State) (c i desc : Nat) : View := boundsView s c desc (s.descBytes c i desc) .out (s.wordCtx c i)

theorem State.loadRefill_spec (hb : ∀ r ∈ (s.strand c i).runs, r.bank ≠ bank)
    (hw : s.mustWait c i ((s.refillView c i desc).span (128 * blkK) 128 (128 * blkMN) 128) = false)
    (hc : s.pocketCheck (s.refillView c i desc) ((s.refillView c i desc).span (128 * blkK) 128 (128 * blkMN) 128) = none) :
    ∃ r : Run, s.loadRefill c i desc bank blkK blkMN =
        (s.modStrand c i fun t => { t with runs := t.runs ++ [r] }).passWord c i r.refill.isSome ∧
      r.bank = bank ∧ r.refilled = true ∧ r.kept = false := by
  have hno : (s.strand c i).runs.any (fun r => r.bank == bank) = false := by simpa using hb
  unfold State.refillView at hw hc
  simp only [State.loadRefill, hno, hw, hc, ite_self, Bool.false_eq_true, if_false]
  refine ⟨_, congrArg (State.passWord _ c i) ?_, rfl, rfl, rfl⟩
  split <;> simp_all

end

/-! ### The refill of a bank (R68, R69, R78) -/

@[simp] theorem Chamber.bank_setBank_same (x : Chamber) (b : Nat) (y : BankData) : (x.setBank b y).bank b = y := by
  simp [Chamber.bank, Chamber.setBank]

/-- What a bank of strand `i` holds after a refill with the elements read. -/
def refillBank (strict : Bool) (i : Nat) (xs : List Elem1) : BankData :=
  let rows := refillRows xs
  { owner := i, rows := rows, v := rows.map (fun row => accSum strict (row.map accNum)), sAbs := List.replicate 128 accZero
    z := rows.map (fun row => accSum strict (row.map (fun a => (accNum a).abs))), refilled := true }

/-- The state after the refill of a bank, before the counts of what it has read. -/
def State.refilled (s : State) (c bank i : Nat) (b : BankData) : State :=
  ((s.modBank c bank fun _ => b).put (bankField bank) c 1).modStrand c i fun t =>
    { t with runs := t.runs.map fun x => if x.bank = bank then { x with refill := none } else x }

section
variable {s : State} {c bank i : Nat} {b : BankData}

theorem State.refilled_bank : ((s.refilled c bank i b).chamber c).bank bank = b := by
  simp [State.refilled, State.modStrand, State.modBank, State.put_eq]

theorem State.refilled_outside : outsideSame s (s.refilled c bank i b) := rfl

theorem State.refilled_regs :
    sameRegs (fun f u k => u = c ∧ k = 0 ∧ f = bankField bank) s (s.refilled c bank i b) :=
  .trans (t := s.modBank c bank fun _ => b) (fun _ _ _ _ => rfl) (sameRegs_setReg.mono fun _ _ _ ⟨hf, hu, hk⟩ => ⟨hu, hk, hf⟩)

theorem State.refilled_live : (s.refilled c bank i b).reg (bankField bank) c = 1 := by
  have hw : 1 % 2 ^ (fieldInfo (bankField bank)).width = 1 := by unfold bankField; split <;> rfl
  simp [State.refilled, State.put_eq, hw]

/-- A refill that its bank is FREE for and that meets no poison. -/
theorem execBankRefill_spec {s' : State} {v : View} {r : Run} {d k mn : Nat} {bs : List Byte} {xs : List Elem1}
    (hr : s.refillOf c bank = some (i, r)) (hrr : r.refill = some (d, bs, k, mn)) (hfree : s.reg (bankField bank) c = 0)
    (hf : s.reg .chFaultFreeze c ≠ 1) (hv : mkView s c d bs .out r.ctx = .ok v)
    (hrd : v.readFetched s ((List.range 16384).map (fun n => (128 * k + n / 128, 128 * mn + n % 128))) = (s', .ok xs))
    (hx : ∀ x ∈ xs, x.poisoned = false) :
    exec (.bankRefill c bank) s =
      .next ((s'.refilled c bank i (refillBank (s'.strandStrict c i) i xs)).countRead c v xs) := by
  have hclean : xs.find? (·.poisoned) = none := List.find?_eq_none.2 fun x hm => by simp [hx x hm]
  show execBankRefill c bank s = _
  simp only [execBankRefill, hr, hrr, hfree, hf, hv, hrd, hclean, ne_eq, not_true_eq_false, decide_false, Bool.or_self,
    Bool.false_eq_true, if_false]
  rfl

end

theorem refillRows_getD {xs : List Elem1} {row j : Nat} (hr : row < 128) (hj : j < 128) {x : Elem1}
    (hx : xs[128 * row + j]? = some x) :
    ((refillRows xs).getD row []).getD j accZero = (x.code.map accRefill).getD accZero := by
  unfold refillRows
  rw [getD_getD_words _ _ _ hr hj, hx]
  cases hc : x.code <;> simp [hc]

/-! ### What the words do -/

section
variable {s : State} {c i desc target bank blkK blkMN : Nat}

/-- R139: a LOAD of a SWEEP that is skipped reads nothing and is not issued. -/
theorem exec_load_skipped (h : issues c i s) (ht : target < 2) (hp : s.entryPoison c i [desc] = none)
    (hr : s.sweepReads c i (s.feedCount c i target) = false) :
    ∃ t tile, exec (.load c i desc target bank blkK blkMN) s = .next t ∧ outsideSame s t ∧
      (t.strand c i).feedA = (if target = 0 then (s.strand c i).feedA ++ [tile] else (s.strand c i).feedA) ∧
      (t.strand c i).feedB = (if target = 0 then (s.strand c i).feedB else (s.strand c i).feedB ++ [tile]) ∧
      t.reg .chPc c i = (s.reg .chPc c i + 1) % 2 ^ 16 ∧ t.reg .chIssued c i = s.reg .chIssued c i := by
  have he := emit_of_mayIssue h.2
  have live := state_of_live (live_of_mayIssue h.2)
  obtain ⟨tile, e⟩ := s.loadOperand_skipped (desc := desc) (blkK := blkK) (blkMN := blkMN) he hr
  have he' : ((s.deliver c i target tile).strand c i).emit = [] := State.deliver_emit.trans he
  obtain ⟨hA, hB⟩ := State.deliver_passWord_feeds (target := target) (tile := tile) he live false
  obtain ⟨ho, hpc, -⟩ := State.passWord_either he' (State.deliver_state live) false
  refine ⟨_, tile, (execLoad_feed h hp ht).trans (congrArg _ e), State.deliver_outside.trans ho, hA, hB, ?_, ?_⟩
  · rw [hpc, State.deliver_reg (by simp)]
  · rw [State.passWord_skipped_issued he', State.deliver_reg (by simp)]

/-- R58, R63, R88: a LOAD that reads its block adds a tile of its elements to its queue. -/
theorem exec_load_reads {v : View} {o : OpInfo} {s' : State} {xs : List Elem1} (h : issues c i s) (ht : target < 2)
    (hp : s.entryPoison c i [desc] = none) (hr : s.sweepReads c i (s.feedCount c i target) = true)
    (hv : (mkView s c desc (s.descBytes c i desc) (if target = 0 then .opA else .opB) (s.wordCtx c i)).map
      (s.jointK c i (s.feedCount c i target) target) = .ok v) (ho : v.info s blkK blkMN = .ok o)
    (hw : s.mustWait c i (feedSpan v target blkK blkMN) = false)
    (hrd : v.readFetched s ((List.range 128).flatMap (feedPlaces v.role o.blkK o.blkMN)) = (s', .ok xs))
    (hx : ∀ x ∈ xs, x.poisoned = false) :
    ∃ t tile, exec (.load c i desc target bank blkK blkMN) s = .next t ∧ readFrame c i feedFields s t ∧
      (t.strand c i).feedA = (if target = 0 then (s.strand c i).feedA ++ [tile] else (s.strand c i).feedA) ∧
      (t.strand c i).feedB = (if target = 0 then (s.strand c i).feedB else (s.strand c i).feedB ++ [tile]) ∧
      readTile (s.strandStrict c i) v o xs tile := by
  have he := emit_of_mayIssue h.2
  obtain ⟨s1, tile, e, heff, htile⟩ := s.loadFeed_spec (c := c) (i := i) (desc := desc) (target := target)
    (sp := feedSpan v target blkK blkMN) hrd hx
  have he1 : (s1.strand c i).emit = [] := by rw [heff.strand, he]
  have live1 := state_of_live (live_of_mayIssue h.2)
  rw [← heff.reads.issue_reg (by simp) (by simp [feedFields])] at live1
  have hdel : readsOnly (fun f u k => flagReg c i f u k ∨ (u = c ∧ k = 0 ∧ f ∈ feedFields)) s1 (s1.deliver c i target tile) := by
    refine .of_outsideSame State.deliver_outside (State.deliver_regs.mono fun f u k ⟨hu, hk, hf⟩ => .inr ⟨hu, hk, ?_⟩)
    exact (by decide : [Field.chAfeedLevel, .chBfeedLevel] ⊆ feedFields) hf
  obtain ⟨hA, hB⟩ := State.deliver_passWord_feeds (target := target) (tile := tile) he1 live1 true
  rw [heff.strand] at hA hB
  exact ⟨_, tile, (execLoad_feed h hp ht).trans (congrArg _ ((s.loadOperand_read he hr hv ho hw).trans e)),
    readFrame_of h (heff.reads.trans hdel) (heff.chamberFrame.trans State.deliver_frame) (State.deliver_emit.trans he1)
      (by simp [feedFields]), hA, hB, htile⟩

/-- R67, R69, R78: a LOAD with `TARGET` 2 opens the run of a refill, and has issued where it is not skipped. -/
theorem exec_load_refill (h : issues c i s) (hp : s.entryPoison c i [desc] = none)
    (hb : ∀ r ∈ (s.strand c i).runs, r.bank ≠ bank)
    (hw : s.mustWait c i ((s.refillView c i desc).span (128 * blkK) 128 (128 * blkMN) 128) = false)
    (hc : s.pocketCheck (s.refillView c i desc) ((s.refillView c i desc).span (128 * blkK) 128 (128 * blkMN) 128) = none) :
    ∃ t, ∃ r : Run, exec (.load c i desc 2 bank blkK blkMN) s = .next t ∧ outsideSame s t ∧
      (t.strand c i).runs = (s.strand c i).runs ++ [r] ∧ r.bank = bank ∧ r.refilled = true ∧ r.kept = false ∧
      t.reg .chPc c i = (s.reg .chPc c i + 1) % 2 ^ 16 ∧
      (r.refill.isSome = true → t.reg .chIssued c i = (s.reg .chIssued c i + 1) % 2 ^ 64) := by
  obtain ⟨r, e, hbank, hrefilled, hkept⟩ := s.loadRefill_spec hb hw hc
  have he : ((s.modStrand c i fun t => { t with runs := t.runs ++ [r] }).strand c i).emit = [] := by
    rw [State.strand_modStrand_same]; exact emit_of_mayIssue h.2
  have live := state_of_live (live_of_mayIssue h.2)
  obtain ⟨ho, hpc, hst⟩ := State.passWord_either he live r.refill.isSome
  refine ⟨_, r, (execLoad_refill h hp).trans (congrArg _ e), .trans outsideSame_modStrand ho, ?_, hbank, hrefilled, hkept, hpc,
    fun hs => ?_⟩
  · rw [hst, State.strand_modStrand_same]
  · rw [hs]
    exact (State.passWord_passed _ he live).1.2.1

/-- R68, R69, R78: a refill leaves its bank LIVE with the spilled values. -/
theorem exec_bankRefill {s' : State} {v : View} {r : Run} {d k mn : Nat} {bs : List Byte} {xs : List Elem1}
    (hr : s.refillOf c bank = some (i, r)) (hrr : r.refill = some (d, bs, k, mn)) (hfree : s.reg (bankField bank) c = 0)
    (hf : s.reg .chFaultFreeze c ≠ 1) (hv : mkView s c d bs .out r.ctx = .ok v)
    (hrd : v.readFetched s ((List.range 16384).map (fun n => (128 * k + n / 128, 128 * mn + n % 128))) = (s', .ok xs))
    (hx : ∀ x ∈ xs, x.poisoned = false) :
    ∃ t, exec (.bankRefill c bank) s = .next t ∧ t.reg (bankField bank) c = 1 ∧
      readsOnly (fun f u k => u = c ∧ k = 0 ∧ f ∈ [bankField bank, .chLoadBytes, .chConvZeroElems, .chFsDecBlocks]) s t ∧
      ((t.chamber c).bank bank).rows = refillRows xs := by
  have hread : readEffect c (fun _ _ _ => False) s s' := by
    have := readEffect.readFetched (c := c) (q := fun _ _ _ => False) v s
      ((List.range 16384).map fun n => (128 * k + n / 128, 128 * mn + n % 128))
    rwa [hrd] at this
  generalize hb : refillBank (s'.strandStrict c i) i xs = b
  have hcount : readEffect c (fun f u k => u = c ∧ k = 0 ∧ f ∈ [Field.chLoadBytes, .chConvZeroElems, .chFsDecBlocks])
      (s'.refilled c bank i b) ((s'.refilled c bank i b).countRead c v xs) := readEffect.refl.countRead fun f hf => ⟨rfl, rfl, hf⟩
  refine ⟨_, (execBankRefill_spec hr hrr hfree hf hv hrd hx).trans (by rw [hb]), ?_, ?_, ?_⟩
  · rw [hcount.regs, State.refilled_live]
    unfold bankField
    split <;> simp [trafficReg]
  · refine ((hread.mono fun _ _ _ => False.elim).trans (.of_outsideSame State.refilled_outside (State.refilled_regs.mono ?_))).trans
      (hcount.mono fun f u k ⟨hu, hk, hf⟩ => ⟨hu, hk, List.mem_cons_of_mem _ hf⟩)
    rintro f u k ⟨hu, hk, rfl⟩
    exact ⟨hu, hk, List.mem_cons_self⟩
  · rw [hcount.bank, State.refilled_bank, ← hb]
    rfl

end

end Sys2Proof.Machine

open Sys2Proof Sys2Proof.Machine

/-- Settles O8: a feed LOAD is the delivery of a tile and the pass of its word, a LOAD with `TARGET` 2 the opening of a run, and
what reads of memory move is `readEffect`. -/
theorem loadAndRefill : Obligations.LoadAndRefill := by
  refine ⟨fun s c i desc target bank blkK blkMN n h ht hp hn => ⟨fun hr => ?_, fun v o s' xs hr hv ho hw hrd hx => ?_⟩,
    fun s c i desc bank blkK blkMN => ⟨fun v h hp hb hv hw hc => ?_, fun v r d bs k mn s' xs hr hrr _ hfree hf hv hrd hx => ?_⟩⟩
  · subst hn
    exact exec_load_skipped h ht hp hr
  · subst hn
    obtain ⟨t, tile, e, hframe, hA, hB, htile⟩ := exec_load_reads (bank := bank) h ht hp hr hv ho hw hrd hx
    refine ⟨t, tile, e, hframe, hA, hB, htile.poison, htile.kEnd, htile.mnEnd, fun k j hk hj => ?_⟩
    rw [htile.words k j hk hj]
    cases xs[128 * k + j]? with
    | none => rfl
    | some x => cases hc : x.code <;> simp [deliveredCode, hc]
  · subst hv
    obtain ⟨t, r, e, ho, hruns, hbank, hrefilled, hkept, hpc, hi⟩ := exec_load_refill h hp hb hw hc
    exact ⟨t, r, e, ho, hruns, hbank, hrefilled, hkept, hpc, fun hs => hi (by rw [hs]; rfl)⟩
  · obtain ⟨t, e, hlive, hreads, hrows⟩ := exec_bankRefill hr hrr hfree hf hv hrd hx
    refine ⟨t, e, hreads.outsideReads, hlive, hreads.regs.mono fun _ _ _ => Or.symm, fun row j hrow hj x hxs => ?_⟩
    rw [hrows, refillRows_getD hrow hj hxs]
    cases x.code <;> rfl
end

section
/-!
NEST: what the issue of the word leaves, with the words of its first problem or with the list entry that stops the strand.
-/
namespace Sys2Proof.Machine

/-! ### Words of an expansion (R133, R136) -/

/-- Words that go on: none of them is the one that stops the strand on a bad list entry (R145). -/
def goOn (ws : List Emit) : Prop := ∀ w ∈ ws, ∀ e, w.word ≠ .stop e

theorem goOn_append {ws vs : List Emit} (h : goOn ws) (k : goOn vs) : goOn (ws ++ vs) :=
  List.forall_mem_append.2 ⟨h, k⟩

theorem goOn_emitRun {x : NestCtx} {zero spill : Bool} {m n runs : Nat} {ws : List EWord} (h : ∀ w ∈ ws, ∀ e, w ≠ .stop e) :
    goOn (emitRun x zero spill m n runs ws) := List.forall_mem_map.2 h

/-- A bank run is a BIND, LOADs and SWEEPs. -/
theorem runWords_ne_stop {top : NestDesc} {pair bank m n : Nat} {ks : List Nat} {init last : Bool} :
    ∀ w ∈ runWords top pair bank m n ks init last, ∀ e, w ≠ .stop e := by
  rintro _ h e rfl
  cases init <;> simp [runWords] at h

theorem goOn_add {e : Expansion} {top : NestDesc} {pair resume : Nat} {x : NestCtx} {it : NestItem} (h : goOn e.words) :
    goOn (e.add top pair resume x it).words := by
  fun_cases e.add top pair resume x it
  · exact h
  · exact h
  · exact h
  case case4 bnd =>
    refine goOn_append h (goOn_emitRun (List.forall_mem_append.2 ⟨runWords_ne_stop, ?_⟩))
    unfold bnd
    split <;> simp

theorem goOn_expand {s : State} {c i : Nat} {chain : List NestDesc} {top leaf : NestDesc} {pair resume : Nat} {x : NestCtx}
    {e : Expansion} (h : goOn e.words) : goOn (expand s c i chain top leaf pair resume x e).words :=
  List.foldlRecOn _ _ (motive := fun e : Expansion => goOn e.words) h fun _ he _ _ => goOn_add he

/-! ### What a NEST moves -/

/-- What an operation of the NEST's expansion moves: what reads move, the fields `fs` of Chamber `c`, and its strand `i`. -/
structure nestFrame (c i : Nat) (fs : List Field) (s t : State) : Prop where
  reads : readsOnly (fun f u _ => u = c ∧ f ∈ fs) s t
  chambers : chamberFrame c i s t

section
variable {s t u : State} {c i : Nat} {fs : List Field}

theorem nestFrame.refl : nestFrame c i fs s s :=
  have h : readEffect c (fun f u _ => u = c ∧ f ∈ fs) s s := .refl
  ⟨h.reads, h.chamberFrame⟩

theorem nestFrame.trans (h : nestFrame c i fs s t) (k : nestFrame c i fs t u) : nestFrame c i fs s u :=
  ⟨h.reads.trans k.reads, h.chambers.trans k.chambers⟩

theorem nestFrame.mono {gs : List Field} (h : nestFrame c i fs s t) (hs : fs ⊆ gs) : nestFrame c i gs s t :=
  ⟨h.reads.mono fun _ _ _ hf => ⟨hf.1, hs hf.2⟩, h.chambers⟩

/-- A register outside the traffic of reads and the named fields. -/
theorem nestFrame.reg (h : nestFrame c i fs s t) {f : Field} (v k : Nat) (hf : ¬ trafficReg f ∧ f ∉ fs := by simp [trafficReg]) :
    t.reg f v k = s.reg f v k := h.reads.regs f v k fun x => x.elim hf.1 fun y => hf.2 y.2

theorem nestFrame.mem (h : nestFrame c i fs s t) : t.mem = s.mem := (congrArg State.mem h.reads.outside :)

theorem nestFrame.setReg {f : Field} {k v : Nat} (h : nestFrame c i fs s t) (hf : f ∈ fs := by simp) :
    nestFrame c i fs s (t.setReg f c k v) :=
  h.trans ⟨.of_outsideSame rfl (sameRegs_setReg.mono (by rintro _ _ _ ⟨rfl, rfl, -⟩; exact ⟨rfl, hf⟩)), chamberFrame_setReg _ _ _⟩

theorem nestFrame.modStrand {f : Strand → Strand} (h : nestFrame c i fs s t) : nestFrame c i fs s (t.modStrand c i f) :=
  h.trans ⟨.of_outsideSame rfl fun _ _ _ _ => rfl, chamberFrame_modStrand _ _ _ _⟩

/-- The entry of a problem is read by the Drip path and counted, and no strand is touched (R144). -/
theorem State.readEntry_effect (s : State) (c i : Nat) (p : NestPlan) (n : Nat) :
    readEffect c (fun f u _ => u = c ∧ f ∈ [Field.chBatchEntries]) s (s.readEntry c i p n).2 :=
  readEffect.refl.when fun h => (h.foldl .dripRead).setReg (.inr ⟨rfl, by simp⟩)

theorem nestFrame.readEntry {p n} (h : nestFrame c i fs s t) (hf : Field.chBatchEntries ∈ fs := by simp) :
    nestFrame c i fs s (t.readEntry c i p n).2 :=
  h.trans (nestFrame.mono ⟨(t.readEntry_effect c i p n).reads, (t.readEntry_effect c i p n).chamberFrame⟩ (by simpa using hf))

/-! ### The plan of a NEST (R131 to R136) -/

theorem State.nestReady_frame (s : State) (c i desc : Nat) :
    nestFrame c i [.chNestResume, .chNestRuns, .chNestActive, .chBatchEntries] s (s.nestReady c i desc).2 :=
  nestFrame.refl.setReg.setReg.readEntry.modStrand.setReg

theorem State.nestReady_nest (s : State) (c i desc : Nat) :
    ((s.nestReady c i desc).2.strand c i).nest = some (s.nestReady c i desc).1 := by
  simp only [State.nestReady, State.strand_setReg, State.strand_modStrand_same]

theorem State.nestReady_active (s : State) (c i desc : Nat) : (s.nestReady c i desc).2.reg .chNestActive c i = 1 :=
  State.reg_setReg_same ..

/-- `NEST_RESUME` is used up (R136). -/
theorem State.nestReady_resume (s : State) (c i desc : Nat) : (s.nestReady c i desc).2.reg .chNestResume c i = 0 := by
  refine (State.reg_setReg_field _ _ _ _ _ _ (by decide)).trans ?_
  refine (nestFrame.reg (i := i) (fs := [.chBatchEntries]) (nestFrame.refl.readEntry) c i).trans ?_
  simp [State.reg_setReg]

/-! ### The next problem (R133, R144, R145) -/

section
variable {p : NestPlan} {ctx : NestCtx} {e : Expansion}

theorem State.nestStep_ok_frame :
    nestFrame c i [.chBatchEntries, .chSkipTiles, .chGroupSkips, .chNestRuns] s (s.nestStep c i p (.ok ctx)) := by
  unfold State.nestStep
  exact nestFrame.refl.readEntry.setReg.setReg.setReg.modStrand

variable (he : expand s c i p.descs p.top p.leaf p.pair p.resume ctx { runs := p.runs, bank := p.bank } = e)
include he

theorem State.nestStep_ok_emit : ((s.nestStep c i p (.ok ctx)).strand c i).emit = e.words := by
  subst he
  exact congrArg Strand.emit (State.strand_modStrand_same _ c i _)

/-- What the walk passes over is counted (R139, R191). -/
theorem State.nestStep_ok_skips :
    (s.nestStep c i p (.ok ctx)).reg .chSkipTiles c = (s.reg .chSkipTiles c + e.skips) % 2 ^ 64 ∧
      (s.nestStep c i p (.ok ctx)).reg .chGroupSkips c = (s.reg .chGroupSkips c + e.groupSkips) % 2 ^ 64 := by
  have w : (fieldInfo .chSkipTiles).width = 64 ∧ (fieldInfo .chGroupSkips).width = 64 := ⟨rfl, rfl⟩
  have hr : nestFrame c i [.chBatchEntries] s (s.readEntry c i { p with runs := e.runs, bank := e.bank } (p.next + 1)).2 :=
    nestFrame.refl.readEntry
  simp only [State.nestStep, he, State.bump_eq, State.reg_modStrand]
  constructor <;> simp [State.reg_setReg, w, hr.reg (f := .chSkipTiles) c 0, hr.reg (f := .chGroupSkips) c 0]

end

/-- A list entry that failed becomes the word that stops the strand. -/
theorem State.nestStep_bad_frame (p : NestPlan) (e : RdErr) : nestFrame c i fs s (s.nestStep c i p (.bad e)) := by
  unfold State.nestStep
  exact nestFrame.refl.modStrand

theorem State.nestStep_bad_emit (s : State) (c i : Nat) (p : NestPlan) (e : RdErr) :
    ∃ w, w.word = .stop e ∧ ((s.nestStep c i p (.bad e)).strand c i).emit = [w] :=
  ⟨{ word := .stop e, ctx := { lens := [] }, runs := p.runs }, rfl, congrArg Strand.emit (State.strand_modStrand_same _ c i _)⟩

/-- Problems are expanded up to the first that leaves a word. -/
theorem State.nestAdvance_eq_nestStep {p : NestPlan} {x : Entry} {n : Nat} (hn : n ≠ 0) (hp : (s.strand c i).nest = some p)
    (hx : p.entry = some x) (hw : ((s.nestStep c i p x).strand c i).emit ≠ []) :
    State.nestAdvance c i n s = s.nestStep c i p x := by
  obtain ⟨n, rfl⟩ := Nat.exists_eq_succ_of_ne_zero hn
  simp [State.nestAdvance, hp, hx, hw]

/-! ### Issue, and the stop of a strand (R100, R101, R145) -/

theorem State.noteIssue_frame (s : State) (c i : Nat) (b : Bool) : nestFrame c i [.chState, .chIssued] s (s.noteIssue c i b) := by
  have hc : nestFrame c i [.chState, .chIssued] s (s.modChamber c fun x => { x with issues := x.issues + 1 }) := by
    refine ⟨.of_outsideSame rfl fun _ _ _ _ => rfl, fun d hd => State.chamber_modChamber_ne s _ hd, fun j _ => ?_, ?_, ?_, ?_, ?_⟩
    all_goals simp [State.strand, Chamber.strand]
  unfold State.noteIssue
  extract_lets s1 s2 s3
  have h2 : nestFrame c i [.chState, .chIssued] s s2 := hc.modStrand
  have h3 : nestFrame c i [.chState, .chIssued] s s3 := by
    unfold s3
    split
    · exact h2.setReg
    · exact h2
  split
  · exact h3.setReg
  · exact h3

/-- Whether a strand's writes are complete shows in the banks and the Store's buffer alone, not in the memory that a bank will
write. -/
theorem State.quiet_iff : s.quiet c i = true ↔ (s.chamber c).store.filter (fun t => t.strand == i) = [] ∧
    ∀ b < 2, s.reg (bankField b) c = 2 → ((s.chamber c).bank b).owner = i → ((s.chamber c).bank b).bound = none := by
  have hb : ∀ b, s.bankSpan c b = [] ↔ b.bound = none := fun b => by
    unfold State.bankSpan
    split
    · simp [*]
    · split <;> simp [*]
  simp only [State.quiet, State.writesOut, List.isEmpty_iff, List.append_eq_nil_iff, List.map_eq_nil_iff, List.flatMap_eq_nil_iff,
    List.mem_filter, List.mem_range, Bool.and_eq_true, beq_iff_eq, hb, and_imp]

theorem nestFrame.quiet (h : nestFrame c i fs s t) (h0 : Field.chBank0State ∉ fs := by simp)
    (h1 : Field.chBank1State ∉ fs := by simp) : t.quiet c i = s.quiet c i := by
  have hb : ∀ b, (t.chamber c).bank b = (s.chamber c).bank b := fun b => by unfold Chamber.bank; rw [h.chambers.banks]
  have hr : ∀ b, t.reg (bankField b) c = s.reg (bankField b) c := fun b => by
    unfold bankField
    split
    · exact h.reg c 0 ⟨by simp [trafficReg], h0⟩
    · exact h.reg c 0 ⟨by simp [trafficReg], h1⟩
  rw [Bool.eq_iff_iff, State.quiet_iff, State.quiet_iff, h.chambers.store]
  simp only [hb, hr]

end

/-- Memory and the stops of strands are as they were. -/
structure stopsKept (s t : State) : Prop where
  mem : t.mem = s.mem
  stopped : ∀ c i, (t.strand c i).stopped = (s.strand c i).stopped

section
variable {s t u : State} {c i : Nat}

theorem stopsKept.refl : stopsKept s s := ⟨rfl, fun _ _ => rfl⟩

theorem stopsKept.setReg {f u j v} (h : stopsKept s t) : stopsKept s (t.setReg f u j v) := ⟨h.mem, h.stopped⟩

theorem stopsKept.modGallery {g f} (h : stopsKept s t) : stopsKept s (t.modGallery g f) := ⟨h.mem, h.stopped⟩

theorem stopsKept.beside {logs logSeq events fresh} (h : stopsKept s t) :
    stopsKept s { t with logs := logs, logSeq := logSeq, events := events, fresh := fresh } := ⟨h.mem, h.stopped⟩

theorem stopsKept.raise {cls unit kind info} (h : stopsKept s t) : stopsKept s (t.raise cls unit kind info) := h.beside

theorem stopsKept.log {cls idx kind payload cause} (h : stopsKept s t) : stopsKept s (t.log cls idx kind payload cause) := by
  obtain ⟨r, l, q, e, -⟩ := t.log_spec cls idx kind payload cause
  rw [e]
  exact ⟨h.mem, h.stopped⟩

/-- An update of a Chamber beside its strands. -/
theorem stopsKept.modChamber {f} (h : stopsKept s t) (hf : ∀ x i, ((f x).strand i).stopped = (x.strand i).stopped := by intros; rfl) :
    stopsKept s (t.modChamber c f) := by
  refine ⟨h.mem, fun d j => (h.stopped d j ▸ ?_)⟩
  simp only [State.strand, State.chamber_modChamber]
  split
  · rename_i hd; rw [hd, hf]
  · rfl

/-- An update of a strand that does not stop it. -/
theorem stopsKept.modStrand {f} (h : stopsKept s t) (hf : ∀ x, (f x).stopped = x.stopped := by intros; rfl) :
    stopsKept s (t.modStrand c i f) := by
  refine ⟨h.mem, fun d j => (h.stopped d j ▸ ?_)⟩
  by_cases hd : d = c ∧ j = i
  · obtain ⟨rfl, rfl⟩ := hd
    rw [State.strand_modStrand_same, hf]
  · rw [State.strand_modStrand_ne _ _ hd]

theorem stopsKept.unless {p : Prop} [Decidable p] (h : stopsKept s t) (hu : stopsKept s t → stopsKept s u) :
    stopsKept s (if p then t else u) := by
  split
  · exact h
  · exact hu h

theorem stopsKept.when {p : Prop} [Decidable p] (h : stopsKept s t) (hu : stopsKept s t → stopsKept s u) :
    stopsKept s (if p then u else t) := by
  split
  · exact hu h
  · exact h

theorem stopsKept.foldl {A : Type} {k : State → A → State} {l : List A} (h : stopsKept s t)
    (hk : ∀ {t a}, stopsKept s t → stopsKept s (k t a)) : stopsKept s (l.foldl k t) :=
  List.foldlRecOn l k (motive := stopsKept s) h fun _ ht _ _ => hk ht

/-! The scheduler (R100). -/

theorem stopsKept.park {ctr a target} (h : stopsKept s t) : stopsKept s (t.park c i ctr a target) :=
  h.setReg.setReg.modStrand.when .modGallery

theorem stopsKept.parkAll (h : stopsKept s t) : stopsKept s (t.parkAll c) := by
  refine h.foldl (·.when fun h => ?_)
  split
  · exact h.park
  · exact h

theorem stopsKept.switchPoint (h : stopsKept s t) : stopsKept s (t.switchPoint c) := by
  unfold State.switchPoint
  extract_lets running s1
  have h1 : stopsKept s s1 := h.parkAll
  split
  · exact h1.setReg.setReg
  · extract_lets s2
    have h2 : stopsKept s s2 := h1.setReg.setReg
    split
    · exact h2.unless (·.setReg.modChamber)
    · exact h2.modChamber

/-! Errors of an access (R87, R161, R189). -/

theorem stopsKept.channelRead {a} (h : stopsKept s t) : stopsKept s (t.channelRead a) := h.modGallery.when .raise

theorem stopsKept.memUncorr {a} (h : stopsKept s t) : stopsKept s (t.memUncorr a) := by
  unfold State.memUncorr
  extract_lets s1
  have h1 : stopsKept s s1 := h.log
  split
  · exact ((h1.when (·.setReg.setReg)).beside.setReg.when .setReg).setReg.setReg.channelRead
  · exact h1.setReg.setReg
  · exact h1.setReg
  · exact h1.setReg.setReg
  · exact h1

theorem stopsKept.faultTime (h : stopsKept s t) : stopsKept s (t.faultTime c) := h.modChamber.setReg

/-- A strand that an error stops stands stopped; no byte of memory changes. -/
def stoppedBy (c i : Nat) (s t : State) : Prop := t.mem = s.mem ∧ (t.strand c i).stopped = true

theorem stopsKept.stopStrand {kind datum} (h : stopsKept s t) : stoppedBy c i s (t.stopStrand c i kind datum) := by
  have hs : stopsKept (t.modStrand c i fun x => { x with stopped := true }) (t.stopStrand c i kind datum) :=
    stopsKept.refl.log.raise.when .switchPoint
  refine ⟨hs.mem.trans h.mem, (hs.stopped c i).trans ?_⟩
  rw [State.strand_modStrand_same]

theorem State.rdFail_stops (s : State) (c i : Nat) (e : RdErr) : stoppedBy c i s (s.rdFail c i e) := by
  have h : stopsKept s s := .refl
  fun_cases s.rdFail c i e
  · exact h.setReg.stopStrand
  · exact (h.when (·.setReg.setReg.setReg.setReg.setReg.setReg)).setReg.stopStrand
  · exact (h.when .setReg).setReg.stopStrand
  · exact (h.when .setReg).setReg.stopStrand
  · exact (h.memUncorr.when (·.setReg.faultTime)).stopStrand

/-- A bad list entry's word stops its strand, where the strand's writes are complete (R145). -/
theorem State.nestStop_stops {w : Emit} {ws : List Emit} {e : RdErr} (hw : (s.strand c i).emit = w :: ws) (he : w.word = .stop e)
    (hq : s.quiet c i = true) : stoppedBy c i s (s.nestStop c i) := by
  simp only [State.nestStop, hw, he, hq, Bool.true_and]
  cases hs : (s.strand c i).stopped with
  | true => exact ⟨rfl, hs⟩
  | false => exact s.rdFail_stops c i e

theorem State.nestStop_of_goOn (h : goOn (s.strand c i).emit) : s.nestStop c i = s := by
  unfold State.nestStop
  split
  · rename_i x _ hx
    split
    · rename_i e he
      exact absurd he (h x (by simp [hx]) e)
    · rfl
  · rfl

end

/-! ### The word -/

section
variable {s s1 : State} {c i desc : Nat} {p : NestPlan} {x : Entry}

/-- A NEST that issues with a first problem that leaves a word expands that problem alone (R133). -/
theorem exec_nest (h : issues c i s) (hp : s.entryPoison c i (s.nestEntries c i desc) = none) (hr : s.nestReady c i desc = (p, s1))
    (h0 : p.top.problems ≠ 0) (hx : p.entry = some x) (hw : ((s1.nestStep c i p x).strand c i).emit ≠ []) :
    exec (.nest c i desc) s = .next (((s1.nestStep c i p x).noteIssue c i true).nestStop c i) := by
  have hn := s.nestReady_nest c i desc
  rw [hr] at hn
  show execNest c i desc s = _
  simp [execNest, settle_of_mayIssue h.1 h.2, h.2, hp, hr, State.nestAdvance_eq_nestStep h0 hn hx hw]

theorem State.noteIssue_emit (s : State) (c i : Nat) (b : Bool) : ((s.noteIssue c i b).strand c i).emit = (s.strand c i).emit := by
  rw [State.noteIssue_strand]

theorem State.noteIssue_issued (s : State) (c i : Nat) : (s.noteIssue c i true).reg .chIssued c i = (s.reg .chIssued c i + 1) % 2 ^ 64 := by
  have w : (fieldInfo .chIssued).width = 64 := rfl
  simp only [State.noteIssue, if_true, State.bump_eq, State.reg_setReg_same, w]
  split <;> simp [State.reg_setReg]

section
variable (h : issues c i s) (hp : s.entryPoison c i (s.nestEntries c i desc) = none) (hr : s.nestReady c i desc = (p, s1))
  (h0 : p.top.problems ≠ 0)
include h hp hr h0

/-- The words of a first problem that has some are left to issue (R133). -/
theorem exec_nest_words {ctx : NestCtx} {e : Expansion} (hx : p.entry = some (.ok ctx))
    (he : expand s1 c i p.descs p.top p.leaf p.pair p.resume ctx { runs := p.runs, bank := p.bank } = e) (hw : e.words ≠ []) :
    exec (.nest c i desc) s = .next ((s1.nestStep c i p (.ok ctx)).noteIssue c i true) ∧
      (((s1.nestStep c i p (.ok ctx)).noteIssue c i true).strand c i).emit = e.words := by
  have hs := State.nestStep_ok_emit he
  have hn : (((s1.nestStep c i p (.ok ctx)).noteIssue c i true).strand c i).emit = e.words := (State.noteIssue_emit ..).trans hs
  have hgo : goOn e.words := he ▸ goOn_expand (by simp [goOn])
  refine ⟨(exec_nest h hp hr h0 hx (hs ▸ hw)).trans ?_, hn⟩
  rw [State.nestStop_of_goOn (hn ▸ hgo)]

/-- A first list entry that is bad stops the strand, its writes being complete (R145). -/
theorem exec_nest_bad {e : RdErr} (hx : p.entry = some (.bad e)) (hq : s.quiet c i = true) :
    ∃ t, exec (.nest c i desc) s = .next t ∧ stoppedBy c i s t := by
  obtain ⟨w, hw, hs⟩ := s1.nestStep_bad_emit c i p e
  have h1 := s.nestReady_frame c i desc
  rw [hr] at h1
  have hf : nestFrame c i [.chNestResume, .chNestRuns, .chNestActive, .chBatchEntries, .chState, .chIssued] s
      ((s1.nestStep c i p (.bad e)).noteIssue c i true) :=
    ((h1.mono (by decide)).trans (s1.nestStep_bad_frame p e)).trans ((State.noteIssue_frame ..).mono (by decide))
  obtain ⟨hm, ht⟩ := State.nestStop_stops ((State.noteIssue_emit ..).trans hs) hw (hf.quiet.trans hq)
  exact ⟨_, exec_nest h hp hr h0 hx (by simp [hs]), hm.trans hf.mem, ht⟩

end

end

end Sys2Proof.Machine

open Sys2Proof Sys2Proof.Machine

/-- Settles O10: the issue makes the plan (`nestReady`), expands its first problem or takes its bad entry (`nestStep`), and counts
the word (`noteIssue`); each of the three moves what its frame names. -/
theorem nestEmitsWords : Obligations.NestEmitsWords := by
  intro s s1 c i desc p h hp hr h0
  refine ⟨fun ctx e hx he hw => ?_, fun e hx hq => ?_⟩
  · obtain ⟨hexec, hemit⟩ := exec_nest_words h hp hr h0 hx he hw
    have hready := s.nestReady_frame c i desc
    have hactive := s.nestReady_active c i desc
    have hresume := s.nestReady_resume c i desc
    rw [hr] at hready hactive hresume
    obtain ⟨hskips, hgroups⟩ := State.nestStep_ok_skips he
    have hstep := State.nestStep_ok_frame (s := s1) (c := c) (i := i) (p := p) (ctx := ctx)
    have hnote := (s1.nestStep c i p (.ok ctx)).noteIssue_frame c i true
    have hissue : nestFrame c i [.chBatchEntries, .chSkipTiles, .chGroupSkips, .chNestRuns, .chState, .chIssued] s1 _ :=
      (hstep.mono (by decide)).trans (hnote.mono (by decide))
    have hall : nestFrame c i [.chNestResume, .chNestRuns, .chNestActive, .chBatchEntries, .chSkipTiles, .chGroupSkips, .chState,
        .chIssued] s _ := (hready.mono (by decide)).trans (hissue.mono (by decide))
    refine ⟨_, hexec, hall.reads.outsideReads, hemit, hall.reg c i, (hissue.reg c i).trans hactive, (hissue.reg c i).trans hresume,
      ?_, ?_, ?_⟩
    · rw [State.noteIssue_issued, hstep.reg c i, hready.reg c i]
    · rw [hnote.reg c 0, hskips, hready.reg c 0]
    · rw [hnote.reg c 0, hgroups, hready.reg c 0]
  · obtain ⟨t, ht, hm, hs⟩ := exec_nest_bad h hp hr h0 hx hq
    exact ⟨t, ht, hm, hs⟩
end

section
/-!
Products of a CONTRACT: the chain of one element.
-/
namespace Sys2Proof.Machine

section
variable {p : Product} {s : State} {i j : Nat}

/-- A product of one segment has no partial sums to add (R141). -/
theorem Product.acc_of_one_segment (h : p.kSeg = 0 ∨ p.k ≤ 128 * p.kSeg) : p.acc s i j = p.chain s accZero i j 0 p.k := by
  have hk : (decide (p.kSeg = 0) || decide (p.k ≤ 128 * p.kSeg)) = true := by simpa using h
  simp only [Product.acc, hk, if_true]

/-- One more term of a chain is one accumulation step on the product of its two elements (R44, R435). -/
theorem Product.chain_succ {x0 x : Acc44} {lo n fl fa fb a b : Nat} (hx : p.chain s x0 i j lo n = .ok (x, fl))
    (ha : p.a.read s p.strict i (lo + n) = .ok (a, fa)) (hb : p.b.read s p.strict (lo + n) j = .ok (b, fb)) :
    p.chain s x0 i j lo (n + 1) =
      .ok ((accStep p.strict x (cellProduct p.a.deliver p.b.deliver a b)).1,
        nfOr (nfOr fl (nfOr fa fb)) (nfWhen (accStep p.strict x (cellProduct p.a.deliver p.b.deliver a b)).2 nfAccOverflow)) := by
  simp only [Product.chain, hx, ha, hb]
  rfl

end

end Sys2Proof.Machine

open Sys2Proof Sys2Proof.Machine

/-- Settles O22: without partial sums of segments the accumulator is the chain, whose recursion takes one term at a time. -/
theorem productIsOneChain : Obligations.ProductIsOneChain := by
  intro s p i j h
  refine ⟨Product.acc_of_one_segment h, fun n x fl fa fb a b hx ha hb => ?_⟩
  rw [← Nat.zero_add n] at ha hb
  exact ⟨_, Product.chain_succ hx ha hb⟩
end
